-- ==== Sys2Proof/Word.lean ====
section
/-!
DEFINITION. The words of the Aqale and their plainest arithmetic (R13, R130).
-/
namespace Sys2Proof

/-- A byte (R13). -/
abbrev Byte := BitVec 8

/-- A double: the width of a scalar register (R13, R130). -/
abbrev Word := BitVec 64

/-- The 512 bits of a vector or residue register (R130). -/
abbrev Vec := BitVec 512

end Sys2Proof
end

