-- ==== Sys2Proof/Syntax.lean ====
section
/-!
DEFINITION. The instructions and happenings of the device: one constructor of `Instr` for each row of
the opcode table. The first 211 rows are Welmal words (R116, R125); the rest are the device's own
indivisible steps, which no word encodes (95_what_each_step_holds).
-/
namespace Sys2Proof

/-! ## Operands -/

/-- A scalar or vector register number (R130). -/
abbrev Reg := Fin 32
/-- A mask register number; 0 names k0, all lanes (R123, R130). -/
abbrev KReg := Fin 8
/-- A residue register number (R130). -/
abbrev QReg := Fin 8
/-- An event counter, shape record or matrix geometry register number (R130). -/
abbrev R16 := Fin 16

/-- The scope codes of R120. -/
inductive Scope where
  | core | bench | die | pkg | dom
  deriving DecidableEq, Repr, Inhabited

/-- Strength of a memory access: weak (S = 0, scope field 0) or strong at a scope (R120). -/
inductive Strength where
  | weak
  | strong (sc : Scope)
  deriving DecidableEq, Repr, Inhabited

/-- The retention hints of R121. -/
inductive Hint where
  | dflt | str | stk | byp
  deriving DecidableEq, Repr, Inhabited

/-- The element types of VEC words (R123). -/
inductive VT where
  | f32 | f16 | bf16 | s8 | s16 | s32 | s64 | z8 | z16 | z32 | c8a | c8b | e4m3 | e5m2
  deriving DecidableEq, Repr, Inhabited

/-- The fields of a fat pointer that PGET and PSET name (R156). -/
inductive FatField where
  | fmt | blk | span | space | addr
  deriving DecidableEq, Repr, Inhabited

/-- Gang sizes of FUSE (R161). -/
inductive GangSize where
  | g2 | g4 | g8
  deriving DecidableEq, Repr, Inhabited

/-- The system registers of R172. -/
inductive SysReg where
  | fstat | tstat | cycle | lcid | tile | launch | upmask | upvec | uivec | upepc | upcause | upaddr
  | upinfo | uiepc | uipend | repstate | repcnt
  | rngc (i : Fin 8)
  | win (i : Fin 4)
  | pgnote
  deriving DecidableEq, Repr, Inhabited

/-- The supervisor registers of R179. -/
inductive SupReg where
  | physcoord | coretype | asid | ptbase | half
  deriving DecidableEq, Repr, Inhabited

/-- The two decode tables (R176, R234). -/
inductive C8Table where
  | a | b
  deriving DecidableEq, Repr, Inhabited

/-- The size codes of the indexed forms (R197). -/
inductive IdxSize where
  | s8 | z8 | s16 | z16 | s32 | z32 | s64 | f32
  deriving DecidableEq, Repr, Inhabited

/-- The size codes of atomics and reductions (R204). -/
inductive AmoSize where
  | w | d
  deriving DecidableEq, Repr, Inhabited

/-- The rounding modes that VCVT names besides EF (R243, R260). -/
inductive RMode where
  | rne | rtz | rup | rdn
  deriving DecidableEq, Repr, Inhabited

/-- The kinds of section that an installation maps (R145). -/
inductive SectionKind where
  | text | data | ring
  deriving DecidableEq, Repr, Inhabited

/-- A double of a saved context that the supervisor may change before it resumes a task (R382, R383): the scalar registers of the main
bank (`x`) and of the shadow bank (`xs`), doubles of vector and accumulator rows, masks, counters, doubles and seal bits of shape
records, geometry registers, and system registers. -/
inductive SavedReg where
  | x (r : Reg)
  | xs (i : Fin 8)
  | v (r : Reg) (part : Fin 8)
  | k (i : Fin 8)
  | q (i part : Fin 8)
  | c (n : Fin 16)
  | sh (n : Fin 16) (part : Fin 8)
  | seal (n : Fin 16)
  | mg (n : Fin 16)
  | sys (r : SysReg)
  deriving DecidableEq, Repr, Inhabited

/-! ## Names of agents and requests that the happenings carry -/

/-- A core that tasks run on: its tenant and its logical core id (R35, R392, R393). A supervisor core is
named under tenant 0, the resident service, by 16 × package + index. -/
structure CoreId where
  tenant : Nat
  lid    : Nat
  deriving DecidableEq, Repr, Inhabited

/-- A logical bench of a tenant (R35, R212). -/
structure BenchId where
  tenant : Nat
  bench  : Nat
  deriving DecidableEq, Repr, Inhabited

/-- A line of physical memory: package and PA[51:6] (R316, R363). -/
structure Line where
  pkg : Nat
  idx : Nat
  deriving DecidableEq, Repr, Inhabited

/-- A physical bench of the package mesh (R3). -/
structure Place where
  pkg : Nat
  die : Nat
  bench : Nat
  deriving DecidableEq, Repr, Inhabited

/-- The benches of a rectangle in a package's mesh of 32 × 32 benches (R3, R393). -/
structure Rect where
  col : Nat
  row : Nat
  cols : Nat
  rows : Nat
  deriving DecidableEq, Repr, Inhabited

/-- What the supervisor gives a tenant (R35, R38, R142, R357, R383, R390 to R393): its grid, ASID, quantum, time slice and spare
context areas, the physical bench of each logical bench, its rectangle on each package, and its quarry cores by 192 × package +
number. `seats` lists the logical cores that are not at their own position of their bench's place, each with the position whose
core it shares (R38); `memory` is the number of bytes that its regions may take (R142); `areas` is the pool of context areas,
each a package and an address (R383). -/
structure Tenancy where
  wl      : Nat
  hl      : Nat
  asid    : Nat
  quantum : Nat
  tslice  : Nat
  spares  : Nat
  places  : List (Nat × Place)
  rects   : List (Nat × Rect)
  quarries : List Nat
  seats   : List (Nat × Nat)
  memory  : Nat
  areas   : List (Nat × Nat)
  deriving DecidableEq, Repr, Inhabited

/-- A holder of tokens (R347): the L2 home slices of a compute die, or the line's memory home. -/
inductive Holder where
  | die (pkg n : Nat)
  | home
  deriving DecidableEq, Repr, Inhabited

/-- A time stamp of ingress (R404): seconds, nanoseconds, fraction in 2^-16 ns. -/
structure Stamp where
  s : Nat
  n : Nat
  f : Nat
  deriving DecidableEq, Repr, Inhabited

/-- A region request record (R66, R148). -/
structure RegionReq where
  kind    : Nat
  page    : Nat
  tier    : Nat
  format  : Nat
  payload : Nat
  retain  : Nat
  mode    : Nat
  size    : Nat
  extrap  : Nat
  reach   : Nat
  keys    : Nat
  deriving DecidableEq, Repr, Inhabited

/-- What the supervisor chooses when it grants a region or a page: the virtual base, the package and
physical address of the first frame, and the physical address from which it takes new page tables. -/
structure Grant where
  base   : Nat
  pkg    : Nat
  frame  : Nat
  tables : Nat
  quarry : Nat
  deriving DecidableEq, Repr, Inhabited

/-- A section of a program that goes with an object (R129, R143, R145): its bytes and where the supervisor places them. -/
structure Section where
  kind  : SectionKind
  bytes : List Byte
  grant : Grant
  deriving DecidableEq, Repr, Inhabited

/-- An image as it is presented (R408): its bytes, its security version, the versions of the firmware ABI that it advertises, for each major the
highest minor (R416), and whether its digest verifies under each of the two fused keys. -/
structure Image where
  bytes    : List Byte
  version  : Nat
  abi      : List (Nat × Nat)
  rsaOk    : Bool
  slhOk    : Bool
  deriving DecidableEq, Repr, Inhabited

/-- A classifier rule (R403): its 16-byte mask and value, the first byte lowest, the stream it names and that stream's tenant. -/
structure Rule where
  off    : Nat
  mask   : Nat
  value  : Nat
  stream : Nat
  tenant : Nat
  deriving DecidableEq, Repr, Inhabited

/-- The binding of an ingress stream to a strata key (R90, R91). -/
structure Binding where
  descriptor : Bool
  origin     : Nat
  divisor    : Nat
  deriving DecidableEq, Repr, Inhabited

/-- Readings of one compute die's sensors (R414, R415): the greatest temperature in °C, whether the coolant's flow is at least
its minimum, and what the process monitors read. -/
structure Sensors where
  maxTemp   : Int
  flowOk    : Bool
  process   : List Nat := []
  deriving DecidableEq, Repr, Inhabited

/-- One constructor for each row of the opcode table, in the table's order. -/
inductive Instr where
  /- Welmal words -/
  /-- ADD (R150). -/
  | add (d a b : Reg)
  /-- SUB (R150). -/
  | sub (d a b : Reg)
  /-- AND (R150). -/
  | and (d a b : Reg)
  /-- OR (R150). -/
  | or (d a b : Reg)
  /-- XOR (R150). -/
  | xor (d a b : Reg)
  /-- SLL (R150). -/
  | sll (d a b : Reg)
  /-- SRL (R150). -/
  | srl (d a b : Reg)
  /-- SRA (R150). -/
  | sra (d a b : Reg)
  /-- SLT (R150). -/
  | slt (d a b : Reg)
  /-- SLTU (R150). -/
  | sltu (d a b : Reg)
  /-- MUL (R150). -/
  | mul (d a b : Reg)
  /-- MULH (R150). -/
  | mulh (d a b : Reg)
  /-- MULHU (R150). -/
  | mulhu (d a b : Reg)
  /-- DIV (R151). -/
  | div (d a b : Reg)
  /-- DIVU (R151). -/
  | divu (d a b : Reg)
  /-- REM (R151). -/
  | rem (d a b : Reg)
  /-- REMU (R151). -/
  | remu (d a b : Reg)
  /-- MIN (R150). -/
  | min (d a b : Reg)
  /-- MAX (R150). -/
  | max (d a b : Reg)
  /-- MINU (R150). -/
  | minu (d a b : Reg)
  /-- MAXU (R150). -/
  | maxu (d a b : Reg)
  /-- CLZ (R150). -/
  | clz (d a : Reg)
  /-- CTZ (R150). -/
  | ctz (d a : Reg)
  /-- POPC (R150). -/
  | popc (d a : Reg)
  /-- ADDI (R152). -/
  | addi (d a : Reg) (imm : BitVec 16)
  /-- ANDI (R152). -/
  | andi (d a : Reg) (imm : BitVec 16)
  /-- ORI (R152). -/
  | ori (d a : Reg) (imm : BitVec 16)
  /-- XORI (R152). -/
  | xori (d a : Reg) (imm : BitVec 16)
  /-- SLLI (R153). -/
  | slli (d a : Reg) (sh : BitVec 6)
  /-- SRLI (R153). -/
  | srli (d a : Reg) (sh : BitVec 6)
  /-- SRAI (R153). -/
  | srai (d a : Reg) (sh : BitVec 6)
  /-- SLTI (R154). -/
  | slti (d a : Reg) (imm : BitVec 15)
  /-- SLTIU (R154). -/
  | sltiu (d a : Reg) (imm : BitVec 15)
  /-- LUI (R155). -/
  | lui (d a : Reg) (imm : BitVec 16)
  /-- PMK (R157). -/
  | pmk (d a b : Reg)
  /-- PGET (R157). -/
  | pget (d a : Reg) (f : FatField)
  /-- PSET (R157). -/
  | pset (d a b : Reg) (f : FatField)
  /-- ADDP (R157). -/
  | addp (d a b : Reg)
  /-- SUBP (R157). -/
  | subp (d a b : Reg)
  /-- BEQ (R158). -/
  | beq (a b : Reg) (off : BitVec 13)
  /-- BNE (R158). -/
  | bne (a b : Reg) (off : BitVec 13)
  /-- BLT (R158). -/
  | blt (a b : Reg) (off : BitVec 13)
  /-- BGE (R158). -/
  | bge (a b : Reg) (off : BitVec 13)
  /-- BLTU (R158). -/
  | bltu (a b : Reg) (off : BitVec 13)
  /-- BGEU (R158). -/
  | bgeu (a b : Reg) (off : BitVec 13)
  /-- JAL (R159). -/
  | jal (d : Reg) (off : BitVec 21)
  /-- JALR (R160). -/
  | jalr (d a : Reg) (imm : BitVec 16)
  /-- REP (R162). -/
  | rep (n : Fin 16) (c sd sa sb : Reg)
  /-- FUSE (R39). -/
  | fuse (g : GangSize)
  /-- SPLIT (R43). -/
  | split
  /-- YIELD (R166). -/
  | yield
  /-- AWAIT (R167). -/
  | await (n : R16) (b : Reg)
  /-- EXIT (R168). -/
  | exit
  /-- TERMWAIT (R169). -/
  | termwait (d : Reg)
  /-- FENCE (R221). -/
  | fence (sc : Scope)
  /-- SYSR (R175). -/
  | sysr (d : Reg) (r : SysReg)
  /-- SYSW (R175). -/
  | sysw (a : Reg) (r : SysReg)
  /-- DTLD (R176). -/
  | dtld (a : Reg) (t : C8Table)
  /-- DTLD_INT8 (R176). -/
  | dtldInt8 (t : C8Table)
  /-- DTLD_E4M3 (R176). -/
  | dtldE4m3 (t : C8Table)
  /-- DTLD_E5M2 (R176). -/
  | dtldE5m2 (t : C8Table)
  /-- UPRET (R177). -/
  | upret
  /-- UIRET (R177). -/
  | uiret
  /-- SVR (R179). -/
  | svr (d : Reg) (r : SupReg)
  /-- SVW (R179). -/
  | svw (a : Reg) (r : SupReg)
  /-- TLBINV (R180). -/
  | tlbinv (a b : Reg) (sc : Scope)
  /-- TLBINV_ALL (R180). -/
  | tlbinvAll (b : Reg) (sc : Scope)
  /-- CACHEINV_ICACHE (R181). -/
  | cacheinvIcache (a : Reg)
  /-- CACHEINV_L2 (R181). -/
  | cacheinvL2 (a : Reg)
  /-- WFI (R182). -/
  | wfi
  /-- LDB (R189). -/
  | ldb (d base : Reg) (st : Strength) (h : Hint) (off : BitVec 10)
  /-- LDBU (R189). -/
  | ldbu (d base : Reg) (st : Strength) (h : Hint) (off : BitVec 10)
  /-- LDH (R189). -/
  | ldh (d base : Reg) (st : Strength) (h : Hint) (off : BitVec 10)
  /-- LDHU (R189). -/
  | ldhu (d base : Reg) (st : Strength) (h : Hint) (off : BitVec 10)
  /-- LDW (R189). -/
  | ldw (d base : Reg) (st : Strength) (h : Hint) (off : BitVec 10)
  /-- LDWU (R189). -/
  | ldwu (d base : Reg) (st : Strength) (h : Hint) (off : BitVec 10)
  /-- LDD (R189). -/
  | ldd (d base : Reg) (st : Strength) (h : Hint) (off : BitVec 10)
  /-- LDF (R195). -/
  | ldf (d base : Reg) (st : Strength) (h : Hint) (off : BitVec 10)
  /-- STB (R189). -/
  | stb (v base : Reg) (st : Strength) (h : Hint) (off : BitVec 10)
  /-- STH (R189). -/
  | sth (v base : Reg) (st : Strength) (h : Hint) (off : BitVec 10)
  /-- STW (R189). -/
  | stw (v base : Reg) (st : Strength) (h : Hint) (off : BitVec 10)
  /-- STD (R189). -/
  | std (v base : Reg) (st : Strength) (h : Hint) (off : BitVec 10)
  /-- STF (R196). -/
  | stf (v base : Reg) (st : Strength) (h : Hint) (off : BitVec 10)
  /-- VLD (R189). -/
  | vld (d base : Reg) (st : Strength) (h : Hint) (off : BitVec 10)
  /-- VST (R189). -/
  | vst (v base : Reg) (st : Strength) (h : Hint) (off : BitVec 10)
  /-- LDX (R198). -/
  | ldx (d a b : Reg) (st : Strength) (z : IdxSize)
  /-- STX (R198). -/
  | stx (v a b : Reg) (st : Strength) (z : IdxSize)
  /-- VGATHER (R199). -/
  | vgather (d a b : Reg) (st : Strength) (z : IdxSize)
  /-- VSCATTER (R199). -/
  | vscatter (v a b : Reg) (st : Strength) (z : IdxSize)
  /-- TLD (R201). -/
  | tld (v c : Reg) (sh : R16)
  /-- TST (R201). -/
  | tst (v c : Reg) (sh : R16)
  /-- AMOADD (R205). -/
  | amoadd (d a b : Reg) (sc : Scope) (z : AmoSize)
  /-- AMOAND (R205). -/
  | amoand (d a b : Reg) (sc : Scope) (z : AmoSize)
  /-- AMOOR (R205). -/
  | amoor (d a b : Reg) (sc : Scope) (z : AmoSize)
  /-- AMOXOR (R205). -/
  | amoxor (d a b : Reg) (sc : Scope) (z : AmoSize)
  /-- AMOMIN (R205). -/
  | amomin (d a b : Reg) (sc : Scope) (z : AmoSize)
  /-- AMOMAX (R205). -/
  | amomax (d a b : Reg) (sc : Scope) (z : AmoSize)
  /-- AMOMINU (R205). -/
  | amominu (d a b : Reg) (sc : Scope) (z : AmoSize)
  /-- AMOMAXU (R205). -/
  | amomaxu (d a b : Reg) (sc : Scope) (z : AmoSize)
  /-- AMOSWAP (R205). -/
  | amoswap (d a b : Reg) (sc : Scope) (z : AmoSize)
  /-- AMOCAS (R205). -/
  | amocas (d a b : Reg) (sc : Scope) (z : AmoSize)
  /-- AMOFADD (R205). -/
  | amofadd (d a b : Reg) (sc : Scope)
  /-- REDADD (R206). -/
  | redadd (a b : Reg) (sc : Scope) (z : AmoSize)
  /-- REDAND (R206). -/
  | redand (a b : Reg) (sc : Scope) (z : AmoSize)
  /-- REDOR (R206). -/
  | redor (a b : Reg) (sc : Scope) (z : AmoSize)
  /-- REDXOR (R206). -/
  | redxor (a b : Reg) (sc : Scope) (z : AmoSize)
  /-- REDMIN (R206). -/
  | redmin (a b : Reg) (sc : Scope) (z : AmoSize)
  /-- REDMAX (R206). -/
  | redmax (a b : Reg) (sc : Scope) (z : AmoSize)
  /-- REDMINU (R206). -/
  | redminu (a b : Reg) (sc : Scope) (z : AmoSize)
  /-- REDMAXU (R206). -/
  | redmaxu (a b : Reg) (sc : Scope) (z : AmoSize)
  /-- REDFADD (R206). -/
  | redfadd (a b : Reg) (sc : Scope)
  /-- LEASE (R115). -/
  | lease (a b : Reg)
  /-- EVSIG (R214). -/
  | evsig (a : Reg)
  /-- EVCFG (R213). -/
  | evcfg (a b : Reg)
  /-- TOWN (R74). -/
  | town (a : Reg)
  /-- STT (R75). -/
  | stt (v a t : Reg)
  /-- LDT (R77). -/
  | ldt (v a t st : Reg)
  /-- LDTN (R77). -/
  | ldtn (v a t st : Reg)
  /-- TCLOSE (R74). -/
  | tclose (a : Reg)
  /-- WAITC (R219). -/
  | waitc (n : R16) (b : Reg)
  /-- CGET (R218). -/
  | cget (d : Reg) (n : R16)
  /-- CSET (R218). -/
  | cset (n : R16) (b : Reg)
  /-- CADD (R218). -/
  | cadd (n : R16) (b : Reg)
  /-- RAND (R170). -/
  | rand (d : Reg) (sel : Fin 8)
  /-- VADD (R253). -/
  | vadd (d a b : Reg) (m : KReg) (t : VT)
  /-- VSUB (R253). -/
  | vsub (d a b : Reg) (m : KReg) (t : VT)
  /-- VMUL (R253). -/
  | vmul (d a b : Reg) (m : KReg) (t : VT)
  /-- VFMA (R254). -/
  | vfma (d a b : Reg) (m : KReg) (t : VT)
  /-- VFMS (R254). -/
  | vfms (d a b : Reg) (m : KReg) (t : VT)
  /-- VMIN (R253). -/
  | vmin (d a b : Reg) (m : KReg) (t : VT)
  /-- VMAX (R253). -/
  | vmax (d a b : Reg) (m : KReg) (t : VT)
  /-- VABS (R253). -/
  | vabs (d a : Reg) (m : KReg) (t : VT)
  /-- VNEG (R253). -/
  | vneg (d a : Reg) (m : KReg) (t : VT)
  /-- VADDS (R255). -/
  | vadds (d a b : Reg) (m : KReg) (t : VT)
  /-- VSUBS (R255). -/
  | vsubs (d a b : Reg) (m : KReg) (t : VT)
  /-- VAND (R253). -/
  | vand (d a b : Reg) (m : KReg) (t : VT)
  /-- VOR (R253). -/
  | vor (d a b : Reg) (m : KReg) (t : VT)
  /-- VXOR (R253). -/
  | vxor (d a b : Reg) (m : KReg) (t : VT)
  /-- VSHL (R253). -/
  | vshl (d a b : Reg) (m : KReg) (t : VT)
  /-- VSHR (R253). -/
  | vshr (d a b : Reg) (m : KReg) (t : VT)
  /-- VDIV (R256). -/
  | vdiv (d a b : Reg) (m : KReg) (t : VT)
  /-- VSQRT (R256). -/
  | vsqrt (d a : Reg) (m : KReg) (t : VT)
  /-- VRSQRT (R256). -/
  | vrsqrt (d a : Reg) (m : KReg) (t : VT)
  /-- VRCP (R256). -/
  | vrcp (d a : Reg) (m : KReg) (t : VT)
  /-- VEXP2 (R256). -/
  | vexp2 (d a : Reg) (m : KReg) (t : VT)
  /-- VLOG2 (R256). -/
  | vlog2 (d a : Reg) (m : KReg) (t : VT)
  /-- VSIN (R256). -/
  | vsin (d a : Reg) (m : KReg) (t : VT)
  /-- VCOS (R256). -/
  | vcos (d a : Reg) (m : KReg) (t : VT)
  /-- VTANH (R256). -/
  | vtanh (d a : Reg) (m : KReg) (t : VT)
  /-- VCMPEQ (R258). -/
  | vcmpeq (kd : KReg) (a b : Reg) (m : KReg) (t : VT)
  /-- VCMPNE (R258). -/
  | vcmpne (kd : KReg) (a b : Reg) (m : KReg) (t : VT)
  /-- VCMPLT (R258). -/
  | vcmplt (kd : KReg) (a b : Reg) (m : KReg) (t : VT)
  /-- VCMPLE (R258). -/
  | vcmple (kd : KReg) (a b : Reg) (m : KReg) (t : VT)
  /-- VSEL (R259). -/
  | vsel (d a b : Reg) (m : KReg) (t : VT)
  /-- KAND (R259). -/
  | kand (kd ka kb : KReg)
  /-- KOR (R259). -/
  | kor (kd ka kb : KReg)
  /-- KXOR (R259). -/
  | kxor (kd ka kb : KReg)
  /-- KNOT (R259). -/
  | knot (kd ka : KReg)
  /-- KMOV (R259). -/
  | kmov (kd ka : KReg)
  /-- KMOV_FROM_X (R259). -/
  | kmovFromX (kd : KReg) (a : Reg)
  /-- KMOV_TO_X (R259). -/
  | kmovToX (d : Reg) (ka : KReg)
  /-- VCVT (R261). -/
  | vcvt (d a : Reg) (mode : RMode) (part : Fin 4) (t src : VT)
  /-- VCVT_EF (R264). -/
  | vcvtEf (d a : Reg) (q : QReg) (part : Fin 4) (t src : VT)
  /-- VREDSUM (R266). -/
  | vredsum (d a : Reg) (m : KReg) (t : VT)
  /-- VREDMIN (R266). -/
  | vredmin (d a : Reg) (m : KReg) (t : VT)
  /-- VREDMAX (R266). -/
  | vredmax (d a : Reg) (m : KReg) (t : VT)
  /-- VSCAN_INCL (R267). -/
  | vscanIncl (d a : Reg) (m : KReg) (t : VT)
  /-- VSCAN_EXCL (R267). -/
  | vscanExcl (d a : Reg) (m : KReg) (t : VT)
  /-- VSCAN_COMPACT (R267). -/
  | vscanCompact (d a : Reg) (m : KReg) (t : VT)
  /-- VPERM (R268). -/
  | vperm (d a b : Reg) (m : KReg) (t : VT)
  /-- VBCAST (R268). -/
  | vbcast (d a : Reg) (m : KReg) (t : VT)
  /-- VSLIDE (R268). -/
  | vslide (d a b : Reg) (m : KReg) (t : VT)
  /-- VZIP (R269). -/
  | vzip (d a b : Reg) (t : VT)
  /-- VUNZIP (R269). -/
  | vunzip (d a b : Reg) (t : VT)
  /-- VMOVX (R268). -/
  | vmovx (d a b : Reg) (t : VT)
  /-- VMOVV (R268). -/
  | vmovv (d a b : Reg) (t : VT)
  /-- VADDX (R270). -/
  | vaddx (d a b : Reg) (m : KReg) (t : VT)
  /-- VSUBX (R270). -/
  | vsubx (d a b : Reg) (m : KReg) (t : VT)
  /-- VMULX (R270). -/
  | vmulx (d a b : Reg) (m : KReg) (t : VT)
  /-- VFMAX (R270). -/
  | vfmax (d a b : Reg) (m : KReg) (t : VT)
  /-- VMINX (R270). -/
  | vminx (d a b : Reg) (m : KReg) (t : VT)
  /-- VMAXX (R270). -/
  | vmaxx (d a b : Reg) (m : KReg) (t : VT)
  /-- MGW (R275). -/
  | mgw (a : Reg) (n : R16)
  /-- MGR (R275). -/
  | mgr (d : Reg) (n : R16)
  /-- MCLAIM (R99). -/
  | mclaim (a : Reg)
  /-- MREL (R99). -/
  | mrel (a : Reg)
  /-- MMAC (R102). -/
  | mmac (a b : Reg) (g : Fin 8)
  /-- MCOMMIT (R103). -/
  | mcommit
  /-- MWAITB (R104). -/
  | mwaitb (a : Reg)
  /-- MREAD (R106). -/
  | mread (a v : Reg) (c : Fin 8)
  /-- MWRITE (R276). -/
  | mwrite (a v : Reg) (c : Fin 8)
  /-- MZERO (R276). -/
  | mzero (a b : Reg)
  /-- MCMD_MMAC (R281). -/
  | mcmdMmac (a b : Reg)
  /-- MCMD_COMMIT (R281). -/
  | mcmdCommit (a b : Reg)
  /-- MCMD_ZERO (R281). -/
  | mcmdZero (a b : Reg)
  /-- MCAPW (R280). -/
  | mcapw (a b : Reg) (e : Fin 8)
  /-- SHW (R284). -/
  | shw (a b : Reg) (n : R16)
  /-- SHSEAL (R284). -/
  | shseal (n : R16)
  /-- SHLD (R95). -/
  | shld (a : Reg) (n : R16)
  /-- CPIN (R100). -/
  | cpin (a b : Reg) (int : Bool) (n : R16)
  /-- CPOUT_GET (R287). -/
  | cpoutGet (a b : Reg) (int : Bool) (n : R16)
  /-- CPOUT_PUT (R287). -/
  | cpoutPut (a b : Reg) (int : Bool) (n : R16)
  /-- CPUSH (R289). -/
  | cpush (a b : Reg) (int : Bool) (n : R16)
  /-- CPUSH_RELEASE (R290). -/
  | cpushRelease (a : Reg)
  /-- CHSUB (R291). -/
  | chsub (d b : Reg) (int : Bool) (k : R16)
  /-- CHPOLL (R293). -/
  | chpoll (d b : Reg)
  /-- XSCHED (R294). -/
  | xsched (a b : Reg) (k : R16)
  /-- XSEND (R295). -/
  | xsend (a b : Reg)
  /-- KICK (R298). -/
  | kick (a b : Reg)
  /-- CANCEL (R298). -/
  | cancel (a : Reg)
  /-- WAITL (R298). -/
  | waitl (a d : Reg)
  /- happenings that no word encodes -/
  /-- CAUSALITY_RELEASE (R86). -/
  | causalityRelease (n : Nat)
  /-- STRATA_BACKOFF (R81). -/
  | strataBackoff (c : CoreId)
  /-- LEASE_EXPIRY (R115). -/
  | leaseExpiry (c : CoreId)
  /-- COPY_COMPLETION (R286). -/
  | copyCompletion (c : CoreId) (n : Nat)
  /-- COPY_FAULT (R288). -/
  | copyFault (c : CoreId) (n : Nat)
  /-- STEP_START (R102). -/
  | stepStart (c : CoreId)
  /-- STEP_COMPLETION (R103). -/
  | stepCompletion (c : CoreId)
  /-- REMOTE_COMMAND (R281). -/
  | remoteCommand (n : Nat)
  /-- PUSH_WRITE (R289). -/
  | pushWrite (q : CoreId) (rec pos : Nat)
  /-- PUSH_RETRY (R289). -/
  | pushRetry (q : CoreId) (rec pos : Nat)
  /-- CHISEL_COMPLETION (R293). -/
  | chiselCompletion (b : BenchId) (slot : Nat)
  /-- CHISEL_PAGE_RESUME (R293). -/
  | chiselPageResume (b : BenchId) (slot : Nat)
  /-- EXCHANGE_SLOT_OPEN (R295). -/
  | exchangeSlotOpen (c : CoreId)
  /-- EXCHANGE_LINE (R296). -/
  | exchangeLine (n : Nat)
  /-- REMOTE_SCRATCHPAD_ACCESS (R310). -/
  | remoteScratchpadAccess (n : Nat)
  /-- MERGE_STEP (R332). -/
  | mergeStep (l : Line)
  /-- SPAN_ARRIVAL_MESSAGE (R216). -/
  | spanArrivalMessage (n : Nat)
  /-- SPAN_FIRE_MESSAGE (R216). -/
  | spanFireMessage (n : Nat)
  /-- COMPLETION_INTERRUPT (R378). -/
  | completionInterrupt (c : CoreId)
  /-- ASYNC_CAUSE (R273). -/
  | asyncCause (c : CoreId)
  /-- PAGE_NOTICE (R379). -/
  | pageNotice (c : CoreId) (page : Nat) (leaf : Word) (tables : Nat)
  /-- PAGE_REFUSAL (R379). -/
  | pageRefusal (c : CoreId) (page : Nat)
  /-- TILE_GRANT (R389). -/
  | tileGrant (c : CoreId)
  /-- DEPUTY_ACK (R59). -/
  | deputyAck (launch : Nat)
  /-- BINDING_COMPLETE (R31). -/
  | bindingComplete (c : CoreId)
  /-- COMPLETION_REPORT (R59). -/
  | completionReport (c : CoreId)
  /-- REPLAY_START (R56). -/
  | replayStart (graph : Nat)
  /-- AGING (R388). -/
  | aging (launch : Nat)
  /-- QUANTUM_EXPIRY (R390). -/
  | quantumExpiry (c : CoreId)
  /-- TSLICE_EXPIRY (R391). -/
  | tsliceExpiry (c : CoreId)
  /-- CONTEXT_SAVE (R384). -/
  | contextSave (c : CoreId)
  /-- COPY_DRAIN_TIMEOUT (R384). -/
  | copyDrainTimeout (c : CoreId)
  /-- CONTEXT_RESTORE (R385). -/
  | contextRestore (c : CoreId)
  /-- TRAP_END (R382). -/
  | trapEnd (c : CoreId)
  /-- TRAP_RESUME (R382). -/
  | trapResume (c : CoreId) (resume : Word) (regs : List (SavedReg × Word))
  /-- TERMINATION_TOKEN (R65). -/
  | terminationToken (launch : Nat)
  /-- HEARTBEAT_TIMER (R58). -/
  | heartbeatTimer (launch pkg die : Nat)
  /-- HEARTBEAT (R60). -/
  | heartbeat (n : Nat)
  /-- HEARTBEAT_ACK (R60). -/
  | heartbeatAck (n : Nat)
  /-- FENCE_TIMEOUT (R60). -/
  | fenceTimeout (launch pkg die : Nat)
  /-- DIE_FAILED (R61). -/
  | dieFailed (pkg die : Nat)
  /-- BENCH_REPLACEMENT (R62). -/
  | benchReplacement (launch bench : Nat) (p : Place)
  /-- START_MESSAGE (R400). -/
  | startMessage (n : Nat)
  /-- START_ANSWER (R400). -/
  | startAnswer (n : Nat)
  /-- START_TIMEOUT (R400). -/
  | startTimeout (launch : Nat)
  /-- TRANSIENT_READ (R349). -/
  | transientRead (n : Nat)
  /-- TRANSIENT_WRITE (R349). -/
  | transientWrite (n : Nat)
  /-- TOKEN_MESSAGE (R349). -/
  | tokenMessage (n : Nat)
  /-- ATTEMPT_TIMEOUT (R350). -/
  | attemptTimeout (pkg die : Nat) (l : Line)
  /-- PERSISTENT_REQUEST (R352). -/
  | persistentRequest (n : Nat)
  /-- PERSISTENT_RETRY (R352). -/
  | persistentRetry (pkg die : Nat) (l : Line)
  /-- ACTIVE (R352). -/
  | active (n : Nat)
  /-- DONE (R352). -/
  | done (n : Nat)
  /-- INACTIVE (R352). -/
  | inactive (n : Nat)
  /-- LINK_DOWN (R354). -/
  | linkDown (link : Nat)
  /-- LOSS_LOG_ENTRY (R355). -/
  | lossLogEntry (n : Nat)
  /-- COLLECT (R355). -/
  | collect (n : Nat)
  /-- LINE_RECREATION (R355). -/
  | lineRecreation (l : Line)
  /-- L1_LINE_TIMEOUT (R334). -/
  | l1LineTimeout (c : CoreId) (tag : Nat)
  /-- MIG_REWALK (R365). -/
  | migRewalk (c : CoreId)
  /-- PAGE_MIGRATION (R365). -/
  | pageMigration (tenant page : Nat) (leaf : Word) (quarry : Nat)
  /-- COLLAPSE (R341). -/
  | collapse (tables : Nat)
  /-- REGION_RELEASE (R74). -/
  | regionRelease (rid : Nat)
  /-- STREAM_BIND (R90). -/
  | streamBind (pkg port stream rid key : Nat) (bnd : Binding)
  /-- STREAM_UNBIND (R94). -/
  | streamUnbind (pkg port stream : Nat)
  /-- INGRESS_FRAME (R405). -/
  | ingressFrame (pkg port : Nat) (frame : List Byte) (fcsOk : Bool) (stamp : Stamp)
  /-- HELLO (R416). -/
  | hello (conn tenant pkg : Nat) (versions : List (Nat × Nat)) (tenancy : Tenancy)
  /-- REGION (R66). -/
  | region (conn : Nat) (req : RegionReq) (g : Grant)
  /-- JOB (R49). -/
  | job (conn : Nat)
  /-- UPLOAD (R50). -/
  | upload (conn : Nat) (job : Word) (object : List Byte) (area : Grant) (regions : List (Nat × Grant)) (sections : List Section)
  /-- PHASE (R49). -/
  | phase (conn : Nat) (job : Word) (graphs : List Word)
  /-- CLOSE (R49). -/
  | close (conn : Nat) (handle : Word)
  /-- CLIENT_KICK (R55). -/
  | clientKick (conn : Nat) (graph patch : Word)
  /-- CLIENT_CANCEL (R46). -/
  | clientCancel (conn : Nat) (handle : Word)
  /-- WAIT (R407). -/
  | wait (conn : Nat) (handle : Word)
  /-- ATTEST (R409). -/
  | attest (conn : Nat) (nonce : List Byte)
  /-- UPDATE (R410). -/
  | update (conn : Nat) (img : Image)
  /-- SWITCHOVER (R411). -/
  | switchover (pkg : Nat)
  /-- SWITCHOVER_TIMEOUT (R411). -/
  | switchoverTimeout (pkg : Nat)
  /-- BOOT (R408). -/
  | boot (pkg : Nat) (first firmware service : Image) (linkUp sramOk serviceUp : Bool) (peers : List (Nat × List (Nat × Nat)))
  /-- SENSOR_POLL (R414). -/
  | sensorPoll (pkg : Nat) (readings : List Sensors)
  /-- DROOP_EVENT (R414). -/
  | droopEvent (pkg die : Nat)
  /-- HEALTH_RECORD (R414). -/
  | healthRecord (pkg power : Nat)
  /-- THROTTLE_STEP (R413). -/
  | throttleStep (k : Nat)
  /-- ILLEGAL_INSTRUCTION (R127). -/
  | illegalInstruction
  /-- FETCH_FAULT (R360). -/
  | fetchFault
  /-- COPY_PAGE_RESUME (R288). -/
  | copyPageResume (c : CoreId) (n : Nat)
  /-- PUSH_READ_FAULT (R289). -/
  | pushReadFault (q : CoreId) (rec : Nat)
  /-- EXCHANGE_PHASE_END (R299). -/
  | exchangePhaseEnd (c : CoreId)
  /-- TASK_END_BY_SUPERVISOR (R84). -/
  | taskEndBySupervisor (c : CoreId)
  /-- STREAM_QUEUE_RESET (R406). -/
  | streamQueueReset (pkg port stream ring size slot : Nat)
  /-- CLASSIFIER_RULE_WRITE (R403). -/
  | classifierRuleWrite (pkg port index : Nat) (rule : Rule)
  deriving DecidableEq, Repr, Inhabited

/-- Is this a happening of the device rather than a Welmal word? -/
def Instr.isEvent : Instr → Bool
  | .causalityRelease _ => true
  | .strataBackoff _ => true
  | .leaseExpiry _ => true
  | .copyCompletion _ _ => true
  | .copyFault _ _ => true
  | .stepStart _ => true
  | .stepCompletion _ => true
  | .remoteCommand _ => true
  | .pushWrite _ _ _ => true
  | .pushRetry _ _ _ => true
  | .chiselCompletion _ _ => true
  | .chiselPageResume _ _ => true
  | .exchangeSlotOpen _ => true
  | .exchangeLine _ => true
  | .remoteScratchpadAccess _ => true
  | .mergeStep _ => true
  | .spanArrivalMessage _ => true
  | .spanFireMessage _ => true
  | .completionInterrupt _ => true
  | .asyncCause _ => true
  | .pageNotice _ _ _ _ => true
  | .pageRefusal _ _ => true
  | .tileGrant _ => true
  | .deputyAck _ => true
  | .bindingComplete _ => true
  | .completionReport _ => true
  | .replayStart _ => true
  | .aging _ => true
  | .quantumExpiry _ => true
  | .tsliceExpiry _ => true
  | .contextSave _ => true
  | .copyDrainTimeout _ => true
  | .contextRestore _ => true
  | .trapEnd _ => true
  | .trapResume _ _ _ => true
  | .terminationToken _ => true
  | .heartbeatTimer _ _ _ => true
  | .heartbeat _ => true
  | .heartbeatAck _ => true
  | .fenceTimeout _ _ _ => true
  | .dieFailed _ _ => true
  | .benchReplacement _ _ _ => true
  | .startMessage _ => true
  | .startAnswer _ => true
  | .startTimeout _ => true
  | .transientRead _ => true
  | .transientWrite _ => true
  | .tokenMessage _ => true
  | .attemptTimeout _ _ _ => true
  | .persistentRequest _ => true
  | .persistentRetry _ _ _ => true
  | .active _ => true
  | .done _ => true
  | .inactive _ => true
  | .linkDown _ => true
  | .lossLogEntry _ => true
  | .collect _ => true
  | .lineRecreation _ => true
  | .l1LineTimeout _ _ => true
  | .migRewalk _ => true
  | .pageMigration _ _ _ _ => true
  | .collapse _ => true
  | .regionRelease _ => true
  | .streamBind _ _ _ _ _ _ => true
  | .streamUnbind _ _ _ => true
  | .ingressFrame _ _ _ _ _ => true
  | .hello _ _ _ _ _ => true
  | .region _ _ _ => true
  | .job _ => true
  | .upload _ _ _ _ _ _ => true
  | .phase _ _ _ => true
  | .close _ _ => true
  | .clientKick _ _ _ => true
  | .clientCancel _ _ => true
  | .wait _ _ => true
  | .attest _ _ => true
  | .update _ _ => true
  | .switchover _ => true
  | .switchoverTimeout _ => true
  | .boot _ _ _ _ _ _ _ _ => true
  | .sensorPoll _ _ => true
  | .droopEvent _ _ => true
  | .healthRecord _ _ => true
  | .throttleStep _ => true
  | .illegalInstruction => true
  | .fetchFault => true
  | .copyPageResume _ _ => true
  | .pushReadFault _ _ => true
  | .exchangePhaseEnd _ => true
  | .taskEndBySupervisor _ => true
  | .streamQueueReset _ _ _ _ _ _ => true
  | .classifierRuleWrite _ _ _ _ => true
  | _ => false

/-- An error that a check finds in stored data (R412): one bit, corrected and counted by a package; or one that cannot be corrected, in a line
of memory or an L2, in an 8-byte word of a core's scratchpad by row and bank, in an L1 line by its virtual tag, in a 64-byte row of an operand slot
(rows 128 to 143 are its scale store) or of the accumulator (row × 8 + eighth of the row), in an instruction cache line by its tag, or in
the entry of a core's TLB for an address. -/
inductive Upset where
  | corrected (pkg : Nat)
  | memLine (l : Line)
  | scratch (c : CoreId) (word : Nat)
  | l1Line (c : CoreId) (tag : Nat)
  | slot (c : CoreId) (slot row : Nat)
  | acc (c : CoreId) (unit : Nat)
  | icache (c : CoreId) (tag : Nat)
  | tlb (c : CoreId) (va : Nat)
  deriving DecidableEq, Repr, Inhabited

/-- What may come next: a core issues an instruction, a core issues the next word of its repetition body (R113), the device performs a happening,
cycles pass, an error is found in stored data (R412; assumption log 99), or a message of another supervisor reaches a package (R182; assumption
log 90). -/
inductive Move where
  | issue (c : CoreId)
  | body (c : CoreId)
  | happen (e : Instr)
  | tick (cycles : Nat)
  | upset (u : Upset)
  | message (pkg : Nat)
  deriving DecidableEq, Repr, Inhabited

end Sys2Proof
end

