-- ==== Sys2Proof/WellFormed.lean ====
section
/-!
DEFINITION. The checks a Welmal word must pass beyond its operand types: element-type classes (R252), parts,
residue pairs and exact conversions (R261, R262, R264), register pairs (R269), writable mask registers
(R130), size codes (R197) and TLBINV scopes (R178).
-/
namespace Sys2Proof

namespace VT

/-- Lanes of a vector register at this type (R123). -/
def lanes : VT → Nat
  | .f32 | .s32 | .z32 => 16
  | .f16 | .bf16 | .s16 | .z16 => 32
  | .s64 => 8
  | .s8 | .z8 | .c8a | .c8b | .e4m3 | .e5m2 => 64

/-- Bits of a lane: 512 / lanes (R250). -/
def width : VT → Nat
  | .f32 | .s32 | .z32 => 32
  | .f16 | .bf16 | .s16 | .z16 => 16
  | .s64 => 64
  | .s8 | .z8 | .c8a | .c8b | .e4m3 | .e5m2 => 8

/-- Class F of R252. -/
def isF : VT → Bool
  | .f32 | .f16 | .bf16 => true
  | _ => false

/-- Class S of R252. -/
def isS : VT → Bool
  | .s8 | .s16 | .s32 | .s64 => true
  | _ => false

/-- Class Z of R252. -/
def isZ : VT → Bool
  | .z8 | .z16 | .z32 => true
  | _ => false

/-- Class I of R252. -/
def isI (t : VT) : Bool := t.isS || t.isZ

/-- Classes F and I of R252. -/
def isFI (t : VT) : Bool := t.isF || t.isI

/-- The type codes C8A and C8B, which decode through a table (R234). -/
def isC8 : VT → Bool
  | .c8a | .c8b => true
  | _ => false

end VT

/-- R262: every value of the source type is held by the target, or the two types are the same. -/
def exactConv (src tgt : VT) : Bool :=
  src == tgt ||
  match src with
  | .f16 | .bf16 => tgt == .f32
  | .e4m3 | .e5m2 => tgt == .f32 || tgt == .f16 || tgt == .bf16
  | .s8 => tgt == .f32 || tgt == .f16 || tgt == .bf16 || tgt == .s16 || tgt == .s32 || tgt == .s64
  | .z8 => tgt == .f32 || tgt == .f16 || tgt == .bf16 || tgt == .s16 || tgt == .s32 || tgt == .s64
             || tgt == .z16 || tgt == .z32
  | .s16 => tgt == .f32 || tgt == .s32 || tgt == .s64
  | .z16 => tgt == .f32 || tgt == .s32 || tgt == .s64 || tgt == .z32
  | .s32 | .z32 => tgt == .s64
  | .c8a | .c8b => tgt == .f32
  | _ => false

/-- R261: the parts of its source that a conversion may name. -/
def partOk (part : Nat) (tgt src : VT) : Bool :=
  if src.lanes > tgt.lanes then decide (part < src.lanes / tgt.lanes) else part == 0

/-- R260 to R263: which combinations of mode, part and types VCVT admits outside EF. -/
def vcvtOk (mode : RMode) (part : Nat) (tgt src : VT) : Bool :=
  partOk part tgt src &&
  (mode == .rne || !(exactConv src tgt || (src.isI && tgt.isI)))

/-- R261, R264: which parts, types and residue registers the EF form admits. -/
def vcvtEfOk (q : QReg) (part : Nat) (tgt src : VT) : Bool :=
  partOk part tgt src && src.isF && !exactConv src tgt && (decide (min src.lanes tgt.lanes ≤ 16) || q.val % 2 == 0)

/-- R197: the sizes that STX admits. -/
def IdxSize.okStore : IdxSize → Bool
  | .z8 | .z16 | .z32 => false
  | _ => true

/-- R197: the sizes that VGATHER and VSCATTER admit. -/
def IdxSize.okVector : IdxSize → Bool
  | .s16 | .s32 | .s64 => true
  | _ => false

/-- R178: the scopes that TLBINV admits. -/
def Scope.okTlbinv : Scope → Bool
  | .die | .pkg | .dom => true
  | _ => false

/-- The instruction is one that some legal word encodes (R127), or a happening. -/
def Instr.wf : Instr → Bool
  | .vadd _ _ _ _ t | .vsub _ _ _ _ t | .vmul _ _ _ _ t | .vmin _ _ _ _ t | .vmax _ _ _ _ t => t.isFI
  | .vfma _ _ _ _ t | .vfms _ _ _ _ t => t.isF
  | .vabs _ _ _ t | .vneg _ _ _ t => t.isF || t.isS
  | .vadds _ _ _ _ t | .vsubs _ _ _ _ t | .vand _ _ _ _ t | .vor _ _ _ _ t | .vxor _ _ _ _ t
  | .vshl _ _ _ _ t | .vshr _ _ _ _ t => t.isI
  | .vdiv _ _ _ _ t => t.isF
  | .vsqrt _ _ _ t | .vrsqrt _ _ _ t | .vrcp _ _ _ t | .vexp2 _ _ _ t | .vlog2 _ _ _ t
  | .vsin _ _ _ t | .vcos _ _ _ t | .vtanh _ _ _ t => t.isF
  | .vcmpeq kd _ _ _ t | .vcmpne kd _ _ _ t | .vcmplt kd _ _ _ t | .vcmple kd _ _ _ t => t.isFI && kd != 0
  | .kand kd _ _ | .kor kd _ _ | .kxor kd _ _ => kd != 0
  | .knot kd _ | .kmov kd _ | .kmovFromX kd _ => kd != 0
  | .vcvt _ _ mode part t src => vcvtOk mode part t src
  | .vcvtEf _ _ q part t src => vcvtEfOk q part t src
  | .vredsum _ _ _ t | .vredmin _ _ _ t | .vredmax _ _ _ t => t.isFI
  | .vscanIncl _ _ _ t | .vscanExcl _ _ _ t => t.isFI
  | .vzip d _ _ _ | .vunzip d _ _ _ => d.val % 2 == 0
  | .vaddx _ _ _ _ t | .vsubx _ _ _ _ t | .vmulx _ _ _ _ t | .vminx _ _ _ _ t | .vmaxx _ _ _ _ t => t.isFI
  | .vfmax _ _ _ _ t => t.isF
  | .stx _ _ _ _ z => z.okStore
  | .vgather _ _ _ _ z | .vscatter _ _ _ _ z => z.okVector
  | .tlbinv _ _ sc => sc.okTlbinv
  | .tlbinvAll _ sc => sc.okTlbinv
  | _ => true

end Sys2Proof
end

