-- ==== Sys2Proof/Decode.lean ====
section
/-!
DEFINITION. Decoding of Welmal words (R116 to R127 and the func tables of each major) and, after it, the
encoder. A word is a natural number below 2^32; fields are cut out by division, so that proofs about them
are linear arithmetic.
-/
namespace Sys2Proof

/-! ## Fields -/

/-- Bits `[lo + width - 1 : lo]` of a word (R11). -/
def fld (w lo width : Nat) : Nat := w / 2 ^ lo % 2 ^ width

/-- The 5-bit register field whose low bit is `lo`. -/
def rg (w lo : Nat) : Reg := Fin.ofNat 32 (w / 2 ^ lo)

/-- The 3-bit mask or residue field at `lo`. -/
def r8 (w lo : Nat) : Fin 8 := Fin.ofNat 8 (w / 2 ^ lo)

/-- The 4-bit register field at `lo`. -/
def r16 (w lo : Nat) : R16 := Fin.ofNat 16 (w / 2 ^ lo)

/-- The 2-bit part field at `lo` (R261). -/
def r4 (w lo : Nat) : Fin 4 := Fin.ofNat 4 (w / 2 ^ lo)

/-- Why a word is refused (R127, checks 1 to 3), or that fewer than four bytes stand there. -/
inductive DecodeError where
  | major
  | func
  | field
  | short
  deriving DecidableEq, Repr, Inhabited

/-- The answer of a decoder. -/
abbrev Decoded := Except DecodeError Instr

/-- Check 3 of R127: the reserved fields hold zero. -/
def need (b : Bool) (i : Instr) : Decoded := if b then .ok i else .error .field

/-- R120. -/
def scopeOf : Nat → Option Scope
  | 0 => some .core | 1 => some .bench | 2 => some .die | 3 => some .pkg | 4 => some .dom | _ => none

/-- R120: a weak access must have scope 0. -/
def strengthOf (s sc : Nat) : Option Strength :=
  if s = 0 then (if sc = 0 then some .weak else none) else (scopeOf sc).map .strong

/-- R121: all four hint codes are assigned. -/
def hintOf : Nat → Hint
  | 0 => .dflt | 1 => .str | 2 => .stk | _ => .byp

/-- R123. -/
def vtOf : Nat → Option VT
  | 0 => some .f32 | 1 => some .f16 | 2 => some .bf16 | 3 => some .s8 | 4 => some .s16 | 5 => some .s32
  | 6 => some .s64 | 7 => some .z8 | 8 => some .z16 | 9 => some .z32 | 10 => some .c8a | 11 => some .c8b
  | 12 => some .e4m3 | 13 => some .e5m2 | _ => none

/-- R156. -/
def fatFieldOf : Nat → Option FatField
  | 0 => some .fmt | 1 => some .blk | 2 => some .span | 3 => some .space | 4 => some .addr | _ => none

/-- R161. -/
def gangOf : Nat → Option GangSize
  | 1 => some .g2 | 2 => some .g4 | 3 => some .g8 | _ => none

/-- R172. -/
def sysRegOf (n : Nat) : Option SysReg :=
  match n with
  | 0 => some .fstat | 1 => some .tstat | 2 => some .cycle | 3 => some .lcid | 4 => some .tile
  | 5 => some .launch | 6 => some .upmask | 7 => some .upvec | 8 => some .uivec | 9 => some .upepc
  | 10 => some .upcause | 11 => some .upaddr | 12 => some .upinfo | 13 => some .uiepc | 14 => some .uipend
  | 15 => some .repstate | 16 => some .repcnt
  | 17 => some (.rngc 0) | 18 => some (.rngc 1) | 19 => some (.rngc 2) | 20 => some (.rngc 3)
  | 21 => some (.rngc 4) | 22 => some (.rngc 5) | 23 => some (.rngc 6) | 24 => some (.rngc 7)
  | 25 => some (.win 0) | 26 => some (.win 1) | 27 => some (.win 2) | 28 => some (.win 3)
  | 29 => some .pgnote | _ => none

/-- R179. -/
def supRegOf : Nat → Option SupReg
  | 0 => some .physcoord | 1 => some .coretype | 2 => some .asid | 3 => some .ptbase | 4 => some .half
  | _ => none

/-- R197. -/
def idxSizeOf : Nat → IdxSize
  | 0 => .s8 | 1 => .z8 | 2 => .s16 | 3 => .z16 | 4 => .s32 | 5 => .z32 | 6 => .s64 | _ => .f32

/-- R204. -/
def amoSizeOf : Nat → Option AmoSize
  | 2 => some .w | 3 => some .d | _ => none

/-- R260. -/
def rmodeOf : Nat → Option RMode
  | 0 => some .rne | 1 => some .rtz | 2 => some .rup | 3 => some .rdn | _ => none

def c8Of (n : Nat) : C8Table := if n = 0 then .a else .b

/-- A field code or the refusal of R127, check 3. -/
def fieldOr (o : Option α) (k : α → Decoded) : Decoded :=
  match o with
  | some a => k a
  | none => .error .field

/-! ## The majors -/

/-- Major 0x01 (R150). -/
def decAlu (w : Nat) : Decoded :=
  let d := rg w 21
  let a := rg w 16
  let b := rg w 11
  match fld w 0 11 with
  | 0 => .ok (.add d a b) | 1 => .ok (.sub d a b) | 2 => .ok (.and d a b) | 3 => .ok (.or d a b)
  | 4 => .ok (.xor d a b) | 5 => .ok (.sll d a b) | 6 => .ok (.srl d a b) | 7 => .ok (.sra d a b)
  | 8 => .ok (.slt d a b) | 9 => .ok (.sltu d a b) | 10 => .ok (.mul d a b) | 11 => .ok (.mulh d a b)
  | 12 => .ok (.mulhu d a b) | 13 => .ok (.div d a b) | 14 => .ok (.divu d a b) | 15 => .ok (.rem d a b)
  | 16 => .ok (.remu d a b) | 17 => .ok (.min d a b) | 18 => .ok (.max d a b) | 19 => .ok (.minu d a b)
  | 20 => .ok (.maxu d a b)
  | 21 => need (fld w 11 5 == 0) (.clz d a)
  | 22 => need (fld w 11 5 == 0) (.ctz d a)
  | 23 => need (fld w 11 5 == 0) (.popc d a)
  | _ => .error .func

/-- Major 0x06 (R153). -/
def decShift (w : Nat) : Decoded :=
  let d := rg w 21
  let a := rg w 16
  let sh := BitVec.ofNat 6 w
  match fld w 6 2 with
  | 0 => need (fld w 8 8 == 0) (.slli d a sh)
  | 1 => need (fld w 8 8 == 0) (.srli d a sh)
  | 2 => need (fld w 8 8 == 0) (.srai d a sh)
  | _ => .error .field

/-- Major 0x09 (R156). -/
def decPtr (w : Nat) : Decoded :=
  let d := rg w 21
  let a := rg w 16
  let b := rg w 11
  match fld w 0 4 with
  | 1 => need (fld w 4 7 == 0) (.pmk d a b)
  | 2 => fieldOr (fatFieldOf (fld w 4 3)) fun f => need (fld w 7 4 == 0 && fld w 11 5 == 0) (.pget d a f)
  | 3 => fieldOr (fatFieldOf (fld w 4 3)) fun f => need (fld w 7 4 == 0) (.pset d a b f)
  | 4 => need (fld w 4 7 == 0) (.addp d a b)
  | 5 => need (fld w 4 7 == 0) (.subp d a b)
  | _ => .error .func

/-- Major 0x0A (R122, R158). -/
def decBr (w : Nat) : Decoded :=
  let a := rg w 21
  let b := rg w 16
  let off := BitVec.ofNat 13 w
  match fld w 13 3 with
  | 0 => .ok (.beq a b off) | 1 => .ok (.bne a b off) | 2 => .ok (.blt a b off) | 3 => .ok (.bge a b off)
  | 4 => .ok (.bltu a b off) | 5 => .ok (.bgeu a b off)
  | _ => .error .func

/-- Major 0x0D (R161, R162, R221). -/
def decCtl (w : Nat) : Decoded :=
  if fld w 10 1 = 1 then
    need (fld w 0 1 == 0) (.rep (r16 w 1) (rg w 16) (rg w 21) (rg w 11) (rg w 5))
  else
    match fld w 0 4 with
    | 1 => fieldOr (gangOf (fld w 4 2)) fun g => need (fld w 6 4 == 0 && fld w 11 15 == 0) (.fuse g)
    | 2 => need (fld w 4 22 == 0) .split
    | 3 => need (fld w 4 22 == 0) .yield
    | 4 => need (fld w 4 7 == 0 && fld w 20 6 == 0) (.await (r16 w 16) (rg w 11))
    | 5 => need (fld w 4 22 == 0) .exit
    | 6 => need (fld w 4 17 == 0) (.termwait (rg w 21))
    | 7 => fieldOr (scopeOf (fld w 7 3)) fun sc => need (fld w 4 3 == 0 && fld w 11 15 == 0) (.fence sc)
    | _ => .error .func

/-- Major 0x0E (R171, R176). -/
def decSys (w : Nat) : Decoded :=
  let a := rg w 16
  match fld w 0 4 with
  | 1 => fieldOr (sysRegOf (fld w 4 7)) fun r => need (fld w 11 10 == 0) (.sysr (rg w 21) r)
  | 2 => fieldOr (sysRegOf (fld w 4 7)) fun r => need (fld w 11 5 == 0 && fld w 21 5 == 0) (.sysw a r)
  | 3 =>
    let t := c8Of (fld w 4 1)
    match fld w 5 2 with
    | 0 => need (fld w 7 9 == 0 && fld w 21 5 == 0) (.dtld a t)
    | 1 => need (fld w 7 19 == 0) (.dtldInt8 t)
    | 2 => need (fld w 7 19 == 0) (.dtldE4m3 t)
    | _ => need (fld w 7 19 == 0) (.dtldE5m2 t)
  | 4 => need (fld w 4 22 == 0) .upret
  | 5 => need (fld w 4 22 == 0) .uiret
  | _ => .error .func

/-- Major 0x0F (R178). -/
def decSup (w : Nat) : Decoded :=
  let a := rg w 16
  let b := rg w 11
  match fld w 0 4 with
  | 1 => fieldOr (supRegOf (fld w 4 7)) fun r => need (fld w 11 10 == 0) (.svr (rg w 21) r)
  | 2 => fieldOr (supRegOf (fld w 4 7)) fun r => need (fld w 11 5 == 0 && fld w 21 5 == 0) (.svw a r)
  | 3 => fieldOr (scopeOf (fld w 5 3)) fun sc =>
      if fld w 4 1 = 0 then need (sc.okTlbinv && fld w 8 3 == 0 && fld w 21 5 == 0) (.tlbinv a b sc)
      else need (sc.okTlbinv && fld w 8 3 == 0 && fld w 16 10 == 0) (.tlbinvAll b sc)
  | 4 =>
    match fld w 4 3 with
    | 0 => need (fld w 7 9 == 0 && fld w 21 5 == 0) (.cacheinvIcache a)
    | 1 => need (fld w 7 9 == 0 && fld w 21 5 == 0) (.cacheinvL2 a)
    | _ => .error .field
  | 5 => need (fld w 4 22 == 0) .wfi
  | _ => .error .func

/-- A MEM word (R116, R120, R189, R193). -/
def decMem (w : Nat) (mk : Reg → Reg → Strength → Hint → BitVec 10 → Instr) : Decoded :=
  fieldOr (strengthOf (fld w 15 1) (fld w 12 3)) fun st =>
    .ok (mk (rg w 21) (rg w 16) st (hintOf (fld w 10 2)) (BitVec.ofNat 10 w))

/-- Major 0x1F (R197). -/
def decIdx (w : Nat) : Decoded :=
  let d := rg w 21
  let a := rg w 16
  let b := rg w 11
  let z := idxSizeOf (fld w 4 3)
  match fld w 0 4 with
  | 1 => fieldOr (strengthOf (fld w 7 1) (fld w 8 3)) fun st => .ok (.ldx d a b st z)
  | 2 => fieldOr (strengthOf (fld w 7 1) (fld w 8 3)) fun st => need z.okStore (.stx d a b st z)
  | 3 => fieldOr (strengthOf (fld w 7 1) (fld w 8 3)) fun st => need z.okVector (.vgather d a b st z)
  | 4 => fieldOr (strengthOf (fld w 7 1) (fld w 8 3)) fun st => need z.okVector (.vscatter d a b st z)
  | _ => .error .func

/-- Major 0x20 (R200). -/
def decTen (w : Nat) : Decoded :=
  if fld w 11 1 = 0 then need (fld w 0 11 == 0) (.tld (rg w 21) (rg w 16) (r16 w 12))
  else need (fld w 0 11 == 0) (.tst (rg w 21) (rg w 16) (r16 w 12))

/-- An AMO word of major 0x21 with a size field (R204). -/
def decAmoZ (w : Nat) (mk : Reg → Reg → Reg → Scope → AmoSize → Instr) : Decoded :=
  fieldOr (scopeOf (fld w 8 3)) fun sc => fieldOr (amoSizeOf (fld w 6 2)) fun z =>
    need (fld w 4 2 == 0) (mk (rg w 21) (rg w 16) (rg w 11) sc z)

/-- A reduction word of major 0x22 (R204): the d field is zero. -/
def decRedZ (w : Nat) (mk : Reg → Reg → Scope → AmoSize → Instr) : Decoded :=
  fieldOr (scopeOf (fld w 8 3)) fun sc => fieldOr (amoSizeOf (fld w 6 2)) fun z =>
    need (fld w 4 2 == 0 && fld w 21 5 == 0) (mk (rg w 16) (rg w 11) sc z)

/-- Major 0x21 (R204). -/
def decAmo (w : Nat) : Decoded :=
  match fld w 0 4 with
  | 0 => decAmoZ w .amoadd | 1 => decAmoZ w .amoand | 2 => decAmoZ w .amoor | 3 => decAmoZ w .amoxor
  | 4 => decAmoZ w .amomin | 5 => decAmoZ w .amomax | 6 => decAmoZ w .amominu | 7 => decAmoZ w .amomaxu
  | 8 => decAmoZ w .amoswap | 9 => decAmoZ w .amocas
  | 10 => fieldOr (scopeOf (fld w 8 3)) fun sc =>
      need (fld w 4 2 == 0 && fld w 6 2 == 2) (.amofadd (rg w 21) (rg w 16) (rg w 11) sc)
  | _ => .error .func

/-- Major 0x22 (R204). -/
def decRed (w : Nat) : Decoded :=
  match fld w 0 4 with
  | 0 => decRedZ w .redadd | 1 => decRedZ w .redand | 2 => decRedZ w .redor | 3 => decRedZ w .redxor
  | 4 => decRedZ w .redmin | 5 => decRedZ w .redmax | 6 => decRedZ w .redminu | 7 => decRedZ w .redmaxu
  | 10 => fieldOr (scopeOf (fld w 8 3)) fun sc =>
      need (fld w 4 2 == 0 && fld w 6 2 == 2 && fld w 21 5 == 0) (.redfadd (rg w 16) (rg w 11) sc)
  | _ => .error .func

/-- Major 0x23 (R210). -/
def decEv (w : Nat) : Decoded :=
  let a := rg w 16
  let b := rg w 11
  match fld w 0 4 with
  | 1 => need (fld w 4 7 == 0 && fld w 21 5 == 0) (.lease a b)
  | 2 => need (fld w 4 12 == 0 && fld w 21 5 == 0) (.evsig a)
  | 3 => need (fld w 4 7 == 0 && fld w 21 5 == 0) (.evcfg a b)
  | _ => .error .func

/-- Major 0x24 (R202). -/
def decStr (w : Nat) : Decoded :=
  let v := rg w 21
  let a := rg w 16
  let t := rg w 11
  match fld w 0 6 with
  | 1 => need (fld w 6 10 == 0 && fld w 21 5 == 0) (.town a)
  | 2 => need (fld w 6 5 == 0) (.stt v a t)
  | 3 => .ok (.ldt v a t (rg w 6))
  | 4 => .ok (.ldtn v a t (rg w 6))
  | 5 => need (fld w 6 10 == 0 && fld w 21 5 == 0) (.tclose a)
  | _ => .error .func

/-- Major 0x25 (R218): field a names a counter. -/
def decCnt (w : Nat) : Decoded :=
  let n := r16 w 16
  let b := rg w 11
  match fld w 0 4 with
  | 1 => need (fld w 4 7 == 0 && fld w 20 6 == 0) (.waitc n b)
  | 2 => need (fld w 4 12 == 0 && fld w 20 1 == 0) (.cget (rg w 21) n)
  | 3 => need (fld w 4 7 == 0 && fld w 20 6 == 0) (.cset n b)
  | 4 => need (fld w 4 7 == 0 && fld w 20 6 == 0) (.cadd n b)
  | _ => .error .func

/-- A VEC word whose element type the instruction must accept (R116, R252). -/
def decVec (w : Nat) (ok : VT → Bool) (mk : Reg → Reg → Reg → KReg → VT → Instr) : Decoded :=
  fieldOr (vtOf (fld w 4 4)) fun t => need (ok t) (mk (rg w 21) (rg w 16) (rg w 11) (r8 w 8) t)

/-- A VEC word with vb = `vb`. -/
def decVec1 (w vb : Nat) (ok : VT → Bool) (mk : Reg → Reg → KReg → VT → Instr) : Decoded :=
  fieldOr (vtOf (fld w 4 4)) fun t => need (ok t && fld w 11 5 == vb) (mk (rg w 21) (rg w 16) (r8 w 8) t)

/-- A VEC word whose destination is a writable mask register (R258). -/
def decVcmp (w : Nat) (mk : KReg → Reg → Reg → KReg → VT → Instr) : Decoded :=
  fieldOr (vtOf (fld w 4 4)) fun t =>
    need (t.isFI && r8 w 21 != 0 && fld w 24 2 == 0) (mk (r8 w 21) (rg w 16) (rg w 11) (r8 w 8) t)

/-- An unmasked VEC word (R268). -/
def decVec0 (w : Nat) (ok : Bool) (mk : Reg → Reg → Reg → VT → Instr) : Decoded :=
  fieldOr (vtOf (fld w 4 4)) fun t => need (ok && fld w 8 3 == 0) (mk (rg w 21) (rg w 16) (rg w 11) t)

/-- Major 0x28 (R253). -/
def decVarith (w : Nat) : Decoded :=
  match fld w 0 4 with
  | 0 => decVec w VT.isFI .vadd | 1 => decVec w VT.isFI .vsub | 2 => decVec w VT.isFI .vmul
  | 3 => decVec w VT.isF .vfma | 4 => decVec w VT.isF .vfms
  | 5 => decVec w VT.isFI .vmin | 6 => decVec w VT.isFI .vmax
  | 7 => decVec1 w 0 (fun t => t.isF || t.isS) .vabs | 8 => decVec1 w 0 (fun t => t.isF || t.isS) .vneg
  | 9 => decVec w VT.isI .vadds | 10 => decVec w VT.isI .vsubs
  | 11 => decVec w VT.isI .vand | 12 => decVec w VT.isI .vor | 13 => decVec w VT.isI .vxor
  | 14 => decVec w VT.isI .vshl | _ => decVec w VT.isI .vshr

/-- Major 0x29 (R256). -/
def decVspec (w : Nat) : Decoded :=
  match fld w 0 4 with
  | 0 => decVec w VT.isF .vdiv
  | 1 => decVec1 w 0 VT.isF .vsqrt | 2 => decVec1 w 0 VT.isF .vrsqrt | 3 => decVec1 w 0 VT.isF .vrcp
  | 4 => decVec1 w 0 VT.isF .vexp2 | 5 => decVec1 w 0 VT.isF .vlog2 | 6 => decVec1 w 0 VT.isF .vsin
  | 7 => decVec1 w 0 VT.isF .vcos | 8 => decVec1 w 0 VT.isF .vtanh
  | _ => .error .func

/-- Major 0x2A (R258, R259). -/
def decVmask (w : Nat) : Decoded :=
  let kd := r8 w 21
  let ka := r8 w 16
  let kb := r8 w 11
  let dOk := kd != 0 && fld w 24 2 == 0
  let aOk := fld w 19 2 == 0
  let tm := fld w 4 7 == 0
  match fld w 0 4 with
  | 0 => decVcmp w .vcmpeq | 1 => decVcmp w .vcmpne | 2 => decVcmp w .vcmplt | 3 => decVcmp w .vcmple
  | 4 => decVec w (fun _ => true) .vsel
  | 5 => need (tm && dOk && aOk && fld w 14 2 == 0) (.kand kd ka kb)
  | 6 => need (tm && dOk && aOk && fld w 14 2 == 0) (.kor kd ka kb)
  | 7 => need (tm && dOk && aOk && fld w 14 2 == 0) (.kxor kd ka kb)
  | 8 => need (tm && dOk && aOk && fld w 11 5 == 0) (.knot kd ka)
  | 9 =>
    match fld w 11 5 with
    | 0 => need (tm && dOk && aOk) (.kmov kd ka)
    | 1 => need (tm && dOk) (.kmovFromX kd (rg w 16))
    | 2 => need (tm && aOk) (.kmovToX (rg w 21) ka)
    | _ => .error .field
  | _ => .error .func

/-- Major 0x2B (R260 to R264). -/
def decVcvt (w : Nat) : Decoded :=
  fieldOr (vtOf (fld w 4 4)) fun t => fieldOr (vtOf (fld w 0 4)) fun s =>
    if fld w 13 3 = 4 then
      need (vcvtEfOk (r8 w 8) (fld w 11 2) t s) (.vcvtEf (rg w 21) (rg w 16) (r8 w 8) (r4 w 11) t s)
    else
      fieldOr (rmodeOf (fld w 13 3)) fun m =>
        need (fld w 8 3 == 0 && vcvtOk m (fld w 11 2) t s)
          (.vcvt (rg w 21) (rg w 16) m (r4 w 11) t s)

/-- Major 0x2C (R266, R267). -/
def decVred (w : Nat) : Decoded :=
  match fld w 0 4 with
  | 0 => decVec1 w 0 VT.isFI .vredsum | 1 => decVec1 w 0 VT.isFI .vredmin | 2 => decVec1 w 0 VT.isFI .vredmax
  | 3 =>
    match fld w 11 5 with
    | 0 => decVec1 w 0 VT.isFI .vscanIncl
    | 1 => decVec1 w 1 VT.isFI .vscanExcl
    | 2 => decVec1 w 2 (fun _ => true) .vscanCompact
    | _ => .error .field
  | _ => .error .func

/-- Major 0x2D (R268, R269). -/
def decVperm (w : Nat) : Decoded :=
  match fld w 0 4 with
  | 0 => decVec w (fun _ => true) .vperm
  | 1 => decVec1 w 0 (fun _ => true) .vbcast
  | 2 => decVec w (fun _ => true) .vslide
  | 3 => decVec0 w (fld w 21 1 == 0) .vzip
  | 4 => decVec0 w (fld w 21 1 == 0) .vunzip
  | 5 => decVec0 w true .vmovx
  | 6 => decVec0 w true .vmovv
  | _ => .error .func

/-- Major 0x2E (R270). -/
def decVx (w : Nat) : Decoded :=
  match fld w 0 4 with
  | 0 => decVec w VT.isFI .vaddx | 1 => decVec w VT.isFI .vsubx | 2 => decVec w VT.isFI .vmulx
  | 3 => decVec w VT.isF .vfmax | 4 => decVec w VT.isFI .vminx | 5 => decVec w VT.isFI .vmaxx
  | _ => .error .func

/-- Major 0x30 (R272): engine and op select the instruction. -/
def decEng (w : Nat) : Decoded :=
  let a := rg w 11
  let b := rg w 6
  let n := r16 w 0
  let k := r8 w 0
  let a0 := fld w 11 5 == 0
  let b0 := fld w 6 5 == 0
  let i0 := fld w 0 6 == 0
  let n4 := fld w 4 2 == 0
  let g3 := fld w 3 3 == 0
  match fld w 22 4, fld w 16 6 with
  | 0, 1 => need (b0 && n4) (.mgw a n)
  | 0, 2 => need (b0 && n4) (.mgr a n)
  | 0, 3 => need (b0 && i0) (.mclaim a)
  | 0, 4 => need (b0 && i0) (.mrel a)
  | 0, 5 => need g3 (.mmac a b k)
  | 0, 6 => need (a0 && b0 && i0) .mcommit
  | 0, 7 => need (b0 && i0) (.mwaitb a)
  | 0, 8 => need g3 (.mread a b k)
  | 0, 9 => need g3 (.mwrite a b k)
  | 0, 10 => need i0 (.mzero a b)
  | 0, 11 =>
    match fld w 0 6 with
    | 0 => .ok (.mcmdMmac a b)
    | 1 => .ok (.mcmdCommit a b)
    | 2 => .ok (.mcmdZero a b)
    | _ => .error .field
  | 0, 12 => need g3 (.mcapw a b k)
  | 1, 1 => need n4 (.shw a b n)
  | 1, 2 => need (a0 && b0 && n4) (.shseal n)
  | 1, 3 => need (b0 && n4) (.shld a n)
  | 1, 4 => need (fld w 5 1 == 0) (.cpin a b (fld w 4 1 == 1) n)
  | 1, 5 => if fld w 5 1 = 0 then .ok (.cpoutGet a b (fld w 4 1 == 1) n) else .ok (.cpoutPut a b (fld w 4 1 == 1) n)
  | 1, 6 =>
    if fld w 5 1 = 0 then .ok (.cpush a b (fld w 4 1 == 1) n)
    else need (b0 && fld w 0 5 == 0) (.cpushRelease a)
  | 2, 1 => need (fld w 5 1 == 0) (.chsub a b (fld w 4 1 == 1) n)
  | 2, 2 => need i0 (.chpoll a b)
  | 3, 1 => need n4 (.xsched a b n)
  | 3, 2 => need i0 (.xsend a b)
  | 4, 1 => need i0 (.kick a b)
  | 4, 2 => need (b0 && i0) (.cancel a)
  | 4, 3 => need i0 (.waitl a b)
  | _, _ => .error .func

/-- The decoder of one word: the major opcode map of R125 and the order of R127. -/
def decodeWord (w : Nat) : Decoded :=
  let d := rg w 21
  let a := rg w 16
  let i := BitVec.ofNat 16 w
  match fld w 26 6 with
  | 0x01 => decAlu w
  | 0x02 => .ok (.addi d a i)
  | 0x03 => .ok (.andi d a i)
  | 0x04 => .ok (.ori d a i)
  | 0x05 => .ok (.xori d a i)
  | 0x06 => decShift w
  | 0x07 => if fld w 15 1 = 0 then .ok (.slti d a (BitVec.ofNat 15 w)) else .ok (.sltiu d a (BitVec.ofNat 15 w))
  | 0x08 => .ok (.lui d a i)
  | 0x09 => decPtr w
  | 0x0A => decBr w
  | 0x0B => .ok (.jal d (BitVec.ofNat 21 w))
  | 0x0C => .ok (.jalr d a i)
  | 0x0D => decCtl w
  | 0x0E => decSys w
  | 0x0F => decSup w
  | 0x10 => decMem w .ldb
  | 0x11 => decMem w .ldbu
  | 0x12 => decMem w .ldh
  | 0x13 => decMem w .ldhu
  | 0x14 => decMem w .ldw
  | 0x15 => decMem w .ldwu
  | 0x16 => decMem w .ldd
  | 0x17 => decMem w .ldf
  | 0x18 => decMem w .stb
  | 0x19 => decMem w .sth
  | 0x1A => decMem w .stw
  | 0x1B => decMem w .std
  | 0x1C => decMem w .stf
  | 0x1D => decMem w .vld
  | 0x1E => decMem w .vst
  | 0x1F => decIdx w
  | 0x20 => decTen w
  | 0x21 => decAmo w
  | 0x22 => decRed w
  | 0x23 => decEv w
  | 0x24 => decStr w
  | 0x25 => decCnt w
  | 0x26 => need (fld w 3 18 == 0) (.rand d (r8 w 0))
  | 0x28 => decVarith w
  | 0x29 => decVspec w
  | 0x2A => decVmask w
  | 0x2B => decVcvt w
  | 0x2C => decVred w
  | 0x2D => decVperm w
  | 0x2E => decVx w
  | 0x30 => decEng w
  | _ => .error .major

/-- The number that a little-endian list of bytes holds (R11). -/
def leNat : List Byte → Nat
  | [] => 0
  | b :: bs => b.toNat + 256 * leNat bs

/-- The `n` low bytes of a number, the least significant first (R11). -/
def leBytes : Nat → Nat → List Byte
  | 0, _ => []
  | n + 1, x => BitVec.ofNat 8 x :: leBytes n (x / 256)

/-- Decoding of bytes: the first four are one word, at rising addresses (R11); the rest is given back. -/
def decodeBytes : List Byte → Except DecodeError (Instr × List Byte)
  | b0 :: b1 :: b2 :: b3 :: rest =>
    match decodeWord (leNat [b0, b1, b2, b3]) with
    | .ok i => .ok (i, rest)
    | .error e => .error e
  | _ => .error .short

/-- The instruction that the decoder reads from the word `w`, laid out in memory as the device stores it. -/
def decodeTableWord (nbits w : Nat) : Option Instr :=
  match decodeBytes (leBytes 4 (w % 2 ^ nbits)) with
  | .ok (i, _) => some i
  | .error _ => none

/-! ## The encoder -/

def Scope.code : Scope → Nat
  | .core => 0 | .bench => 1 | .die => 2 | .pkg => 3 | .dom => 4

/-- The S bit (R120). -/
def Strength.sbit : Strength → Nat
  | .weak => 0 | .strong _ => 1

/-- The scope field (R120). -/
def Strength.scode : Strength → Nat
  | .weak => 0 | .strong sc => sc.code

def Hint.code : Hint → Nat
  | .dflt => 0 | .str => 1 | .stk => 2 | .byp => 3

def VT.code : VT → Nat
  | .f32 => 0 | .f16 => 1 | .bf16 => 2 | .s8 => 3 | .s16 => 4 | .s32 => 5 | .s64 => 6 | .z8 => 7 | .z16 => 8
  | .z32 => 9 | .c8a => 10 | .c8b => 11 | .e4m3 => 12 | .e5m2 => 13

def FatField.code : FatField → Nat
  | .fmt => 0 | .blk => 1 | .span => 2 | .space => 3 | .addr => 4

def GangSize.code : GangSize → Nat
  | .g2 => 1 | .g4 => 2 | .g8 => 3

def SysReg.code : SysReg → Nat
  | .fstat => 0 | .tstat => 1 | .cycle => 2 | .lcid => 3 | .tile => 4 | .launch => 5 | .upmask => 6 | .upvec => 7
  | .uivec => 8 | .upepc => 9 | .upcause => 10 | .upaddr => 11 | .upinfo => 12 | .uiepc => 13 | .uipend => 14
  | .repstate => 15 | .repcnt => 16 | .rngc i => 17 + i.val | .win i => 25 + i.val | .pgnote => 29

def SupReg.code : SupReg → Nat
  | .physcoord => 0 | .coretype => 1 | .asid => 2 | .ptbase => 3 | .half => 4

def C8Table.code : C8Table → Nat
  | .a => 0 | .b => 1

def IdxSize.code : IdxSize → Nat
  | .s8 => 0 | .z8 => 1 | .s16 => 2 | .z16 => 3 | .s32 => 4 | .z32 => 5 | .s64 => 6 | .f32 => 7

def AmoSize.code : AmoSize → Nat
  | .w => 2 | .d => 3

def RMode.code : RMode → Nat
  | .rne => 0 | .rtz => 1 | .rup => 2 | .rdn => 3

def boolCode (b : Bool) : Nat := if b then 1 else 0

/-- A field value placed with its low bit at `lo`. -/
def put (lo v acc : Nat) : Nat := acc + v * 2 ^ lo

/-- The word of an instruction: the constant bits of its row of the opcode table and its fields. A
happening has no word; the answer 0 is the word that is always illegal (R127). -/
def encode : Instr → Nat
  | .add d a b => put 11 b.val (put 16 a.val (put 21 d.val 0x04000000))
  | .sub d a b => put 11 b.val (put 16 a.val (put 21 d.val 0x04000001))
  | .and d a b => put 11 b.val (put 16 a.val (put 21 d.val 0x04000002))
  | .or d a b => put 11 b.val (put 16 a.val (put 21 d.val 0x04000003))
  | .xor d a b => put 11 b.val (put 16 a.val (put 21 d.val 0x04000004))
  | .sll d a b => put 11 b.val (put 16 a.val (put 21 d.val 0x04000005))
  | .srl d a b => put 11 b.val (put 16 a.val (put 21 d.val 0x04000006))
  | .sra d a b => put 11 b.val (put 16 a.val (put 21 d.val 0x04000007))
  | .slt d a b => put 11 b.val (put 16 a.val (put 21 d.val 0x04000008))
  | .sltu d a b => put 11 b.val (put 16 a.val (put 21 d.val 0x04000009))
  | .mul d a b => put 11 b.val (put 16 a.val (put 21 d.val 0x0400000A))
  | .mulh d a b => put 11 b.val (put 16 a.val (put 21 d.val 0x0400000B))
  | .mulhu d a b => put 11 b.val (put 16 a.val (put 21 d.val 0x0400000C))
  | .div d a b => put 11 b.val (put 16 a.val (put 21 d.val 0x0400000D))
  | .divu d a b => put 11 b.val (put 16 a.val (put 21 d.val 0x0400000E))
  | .rem d a b => put 11 b.val (put 16 a.val (put 21 d.val 0x0400000F))
  | .remu d a b => put 11 b.val (put 16 a.val (put 21 d.val 0x04000010))
  | .min d a b => put 11 b.val (put 16 a.val (put 21 d.val 0x04000011))
  | .max d a b => put 11 b.val (put 16 a.val (put 21 d.val 0x04000012))
  | .minu d a b => put 11 b.val (put 16 a.val (put 21 d.val 0x04000013))
  | .maxu d a b => put 11 b.val (put 16 a.val (put 21 d.val 0x04000014))
  | .clz d a => put 16 a.val (put 21 d.val 0x04000015)
  | .ctz d a => put 16 a.val (put 21 d.val 0x04000016)
  | .popc d a => put 16 a.val (put 21 d.val 0x04000017)
  | .addi d a imm => put 0 imm.toNat (put 16 a.val (put 21 d.val 0x08000000))
  | .andi d a imm => put 0 imm.toNat (put 16 a.val (put 21 d.val 0x0C000000))
  | .ori d a imm => put 0 imm.toNat (put 16 a.val (put 21 d.val 0x10000000))
  | .xori d a imm => put 0 imm.toNat (put 16 a.val (put 21 d.val 0x14000000))
  | .slli d a sh => put 0 sh.toNat (put 16 a.val (put 21 d.val 0x18000000))
  | .srli d a sh => put 0 sh.toNat (put 16 a.val (put 21 d.val 0x18000040))
  | .srai d a sh => put 0 sh.toNat (put 16 a.val (put 21 d.val 0x18000080))
  | .slti d a imm => put 0 imm.toNat (put 16 a.val (put 21 d.val 0x1C000000))
  | .sltiu d a imm => put 0 imm.toNat (put 16 a.val (put 21 d.val 0x1C008000))
  | .lui d a imm => put 0 imm.toNat (put 16 a.val (put 21 d.val 0x20000000))
  | .pmk d a b => put 11 b.val (put 16 a.val (put 21 d.val 0x24000001))
  | .pget d a f => put 4 f.code (put 16 a.val (put 21 d.val 0x24000002))
  | .pset d a b f => put 4 f.code (put 11 b.val (put 16 a.val (put 21 d.val 0x24000003)))
  | .addp d a b => put 11 b.val (put 16 a.val (put 21 d.val 0x24000004))
  | .subp d a b => put 11 b.val (put 16 a.val (put 21 d.val 0x24000005))
  | .beq a b off => put 0 off.toNat (put 16 b.val (put 21 a.val 0x28000000))
  | .bne a b off => put 0 off.toNat (put 16 b.val (put 21 a.val 0x28002000))
  | .blt a b off => put 0 off.toNat (put 16 b.val (put 21 a.val 0x28004000))
  | .bge a b off => put 0 off.toNat (put 16 b.val (put 21 a.val 0x28006000))
  | .bltu a b off => put 0 off.toNat (put 16 b.val (put 21 a.val 0x28008000))
  | .bgeu a b off => put 0 off.toNat (put 16 b.val (put 21 a.val 0x2800A000))
  | .jal d off => put 0 off.toNat (put 21 d.val 0x2C000000)
  | .jalr d a imm => put 0 imm.toNat (put 16 a.val (put 21 d.val 0x30000000))
  | .rep n c sd sa sb => put 1 n.val (put 5 sb.val (put 11 sa.val (put 16 c.val (put 21 sd.val 0x34000400))))
  | .fuse g => put 4 g.code 0x34000001
  | .split => 0x34000002
  | .yield => 0x34000003
  | .await n b => put 11 b.val (put 16 n.val 0x34000004)
  | .exit => 0x34000005
  | .termwait d => put 21 d.val 0x34000006
  | .fence sc => put 7 sc.code 0x34000007
  | .sysr d r => put 4 r.code (put 21 d.val 0x38000001)
  | .sysw a r => put 4 r.code (put 16 a.val 0x38000002)
  | .dtld a t => put 4 t.code (put 16 a.val 0x38000003)
  | .dtldInt8 t => put 4 t.code 0x38000023
  | .dtldE4m3 t => put 4 t.code 0x38000043
  | .dtldE5m2 t => put 4 t.code 0x38000063
  | .upret => 0x38000004
  | .uiret => 0x38000005
  | .svr d r => put 4 r.code (put 21 d.val 0x3C000001)
  | .svw a r => put 4 r.code (put 16 a.val 0x3C000002)
  | .tlbinv a b sc => put 5 sc.code (put 11 b.val (put 16 a.val 0x3C000003))
  | .tlbinvAll b sc => put 5 sc.code (put 11 b.val 0x3C000013)
  | .cacheinvIcache a => put 16 a.val 0x3C000004
  | .cacheinvL2 a => put 16 a.val 0x3C000014
  | .wfi => 0x3C000005
  | .ldb d base st h off => put 0 off.toNat (put 10 h.code (put 16 base.val (put 21 d.val (put 12 st.scode (put 15 st.sbit 0x40000000)))))
  | .ldbu d base st h off => put 0 off.toNat (put 10 h.code (put 16 base.val (put 21 d.val (put 12 st.scode (put 15 st.sbit 0x44000000)))))
  | .ldh d base st h off => put 0 off.toNat (put 10 h.code (put 16 base.val (put 21 d.val (put 12 st.scode (put 15 st.sbit 0x48000000)))))
  | .ldhu d base st h off => put 0 off.toNat (put 10 h.code (put 16 base.val (put 21 d.val (put 12 st.scode (put 15 st.sbit 0x4C000000)))))
  | .ldw d base st h off => put 0 off.toNat (put 10 h.code (put 16 base.val (put 21 d.val (put 12 st.scode (put 15 st.sbit 0x50000000)))))
  | .ldwu d base st h off => put 0 off.toNat (put 10 h.code (put 16 base.val (put 21 d.val (put 12 st.scode (put 15 st.sbit 0x54000000)))))
  | .ldd d base st h off => put 0 off.toNat (put 10 h.code (put 16 base.val (put 21 d.val (put 12 st.scode (put 15 st.sbit 0x58000000)))))
  | .ldf d base st h off => put 0 off.toNat (put 10 h.code (put 16 base.val (put 21 d.val (put 12 st.scode (put 15 st.sbit 0x5C000000)))))
  | .stb v base st h off => put 0 off.toNat (put 10 h.code (put 16 base.val (put 21 v.val (put 12 st.scode (put 15 st.sbit 0x60000000)))))
  | .sth v base st h off => put 0 off.toNat (put 10 h.code (put 16 base.val (put 21 v.val (put 12 st.scode (put 15 st.sbit 0x64000000)))))
  | .stw v base st h off => put 0 off.toNat (put 10 h.code (put 16 base.val (put 21 v.val (put 12 st.scode (put 15 st.sbit 0x68000000)))))
  | .std v base st h off => put 0 off.toNat (put 10 h.code (put 16 base.val (put 21 v.val (put 12 st.scode (put 15 st.sbit 0x6C000000)))))
  | .stf v base st h off => put 0 off.toNat (put 10 h.code (put 16 base.val (put 21 v.val (put 12 st.scode (put 15 st.sbit 0x70000000)))))
  | .vld d base st h off => put 0 off.toNat (put 10 h.code (put 16 base.val (put 21 d.val (put 12 st.scode (put 15 st.sbit 0x74000000)))))
  | .vst v base st h off => put 0 off.toNat (put 10 h.code (put 16 base.val (put 21 v.val (put 12 st.scode (put 15 st.sbit 0x78000000)))))
  | .ldx d a b st z => put 4 z.code (put 11 b.val (put 16 a.val (put 21 d.val (put 8 st.scode (put 7 st.sbit 0x7C000001)))))
  | .stx v a b st z => put 4 z.code (put 11 b.val (put 16 a.val (put 21 v.val (put 8 st.scode (put 7 st.sbit 0x7C000002)))))
  | .vgather d a b st z => put 4 z.code (put 11 b.val (put 16 a.val (put 21 d.val (put 8 st.scode (put 7 st.sbit 0x7C000003)))))
  | .vscatter v a b st z => put 4 z.code (put 11 b.val (put 16 a.val (put 21 v.val (put 8 st.scode (put 7 st.sbit 0x7C000004)))))
  | .tld v c sh => put 12 sh.val (put 16 c.val (put 21 v.val 0x80000000))
  | .tst v c sh => put 12 sh.val (put 16 c.val (put 21 v.val 0x80000800))
  | .amoadd d a b sc z => put 6 z.code (put 8 sc.code (put 11 b.val (put 16 a.val (put 21 d.val 0x84000000))))
  | .amoand d a b sc z => put 6 z.code (put 8 sc.code (put 11 b.val (put 16 a.val (put 21 d.val 0x84000001))))
  | .amoor d a b sc z => put 6 z.code (put 8 sc.code (put 11 b.val (put 16 a.val (put 21 d.val 0x84000002))))
  | .amoxor d a b sc z => put 6 z.code (put 8 sc.code (put 11 b.val (put 16 a.val (put 21 d.val 0x84000003))))
  | .amomin d a b sc z => put 6 z.code (put 8 sc.code (put 11 b.val (put 16 a.val (put 21 d.val 0x84000004))))
  | .amomax d a b sc z => put 6 z.code (put 8 sc.code (put 11 b.val (put 16 a.val (put 21 d.val 0x84000005))))
  | .amominu d a b sc z => put 6 z.code (put 8 sc.code (put 11 b.val (put 16 a.val (put 21 d.val 0x84000006))))
  | .amomaxu d a b sc z => put 6 z.code (put 8 sc.code (put 11 b.val (put 16 a.val (put 21 d.val 0x84000007))))
  | .amoswap d a b sc z => put 6 z.code (put 8 sc.code (put 11 b.val (put 16 a.val (put 21 d.val 0x84000008))))
  | .amocas d a b sc z => put 6 z.code (put 8 sc.code (put 11 b.val (put 16 a.val (put 21 d.val 0x84000009))))
  | .amofadd d a b sc => put 8 sc.code (put 11 b.val (put 16 a.val (put 21 d.val 0x8400008A)))
  | .redadd a b sc z => put 6 z.code (put 8 sc.code (put 11 b.val (put 16 a.val 0x88000000)))
  | .redand a b sc z => put 6 z.code (put 8 sc.code (put 11 b.val (put 16 a.val 0x88000001)))
  | .redor a b sc z => put 6 z.code (put 8 sc.code (put 11 b.val (put 16 a.val 0x88000002)))
  | .redxor a b sc z => put 6 z.code (put 8 sc.code (put 11 b.val (put 16 a.val 0x88000003)))
  | .redmin a b sc z => put 6 z.code (put 8 sc.code (put 11 b.val (put 16 a.val 0x88000004)))
  | .redmax a b sc z => put 6 z.code (put 8 sc.code (put 11 b.val (put 16 a.val 0x88000005)))
  | .redminu a b sc z => put 6 z.code (put 8 sc.code (put 11 b.val (put 16 a.val 0x88000006)))
  | .redmaxu a b sc z => put 6 z.code (put 8 sc.code (put 11 b.val (put 16 a.val 0x88000007)))
  | .redfadd a b sc => put 8 sc.code (put 11 b.val (put 16 a.val 0x8800008A))
  | .lease a b => put 11 b.val (put 16 a.val 0x8C000001)
  | .evsig a => put 16 a.val 0x8C000002
  | .evcfg a b => put 11 b.val (put 16 a.val 0x8C000003)
  | .town a => put 16 a.val 0x90000001
  | .stt v a t => put 11 t.val (put 16 a.val (put 21 v.val 0x90000002))
  | .ldt v a t st => put 6 st.val (put 11 t.val (put 16 a.val (put 21 v.val 0x90000003)))
  | .ldtn v a t st => put 6 st.val (put 11 t.val (put 16 a.val (put 21 v.val 0x90000004)))
  | .tclose a => put 16 a.val 0x90000005
  | .waitc n b => put 11 b.val (put 16 n.val 0x94000001)
  | .cget d n => put 16 n.val (put 21 d.val 0x94000002)
  | .cset n b => put 11 b.val (put 16 n.val 0x94000003)
  | .cadd n b => put 11 b.val (put 16 n.val 0x94000004)
  | .rand d sel => put 0 sel.val (put 21 d.val 0x98000000)
  | .vadd d a b m t => put 4 t.code (put 8 m.val (put 11 b.val (put 16 a.val (put 21 d.val 0xA0000000))))
  | .vsub d a b m t => put 4 t.code (put 8 m.val (put 11 b.val (put 16 a.val (put 21 d.val 0xA0000001))))
  | .vmul d a b m t => put 4 t.code (put 8 m.val (put 11 b.val (put 16 a.val (put 21 d.val 0xA0000002))))
  | .vfma d a b m t => put 4 t.code (put 8 m.val (put 11 b.val (put 16 a.val (put 21 d.val 0xA0000003))))
  | .vfms d a b m t => put 4 t.code (put 8 m.val (put 11 b.val (put 16 a.val (put 21 d.val 0xA0000004))))
  | .vmin d a b m t => put 4 t.code (put 8 m.val (put 11 b.val (put 16 a.val (put 21 d.val 0xA0000005))))
  | .vmax d a b m t => put 4 t.code (put 8 m.val (put 11 b.val (put 16 a.val (put 21 d.val 0xA0000006))))
  | .vabs d a m t => put 4 t.code (put 8 m.val (put 16 a.val (put 21 d.val 0xA0000007)))
  | .vneg d a m t => put 4 t.code (put 8 m.val (put 16 a.val (put 21 d.val 0xA0000008)))
  | .vadds d a b m t => put 4 t.code (put 8 m.val (put 11 b.val (put 16 a.val (put 21 d.val 0xA0000009))))
  | .vsubs d a b m t => put 4 t.code (put 8 m.val (put 11 b.val (put 16 a.val (put 21 d.val 0xA000000A))))
  | .vand d a b m t => put 4 t.code (put 8 m.val (put 11 b.val (put 16 a.val (put 21 d.val 0xA000000B))))
  | .vor d a b m t => put 4 t.code (put 8 m.val (put 11 b.val (put 16 a.val (put 21 d.val 0xA000000C))))
  | .vxor d a b m t => put 4 t.code (put 8 m.val (put 11 b.val (put 16 a.val (put 21 d.val 0xA000000D))))
  | .vshl d a b m t => put 4 t.code (put 8 m.val (put 11 b.val (put 16 a.val (put 21 d.val 0xA000000E))))
  | .vshr d a b m t => put 4 t.code (put 8 m.val (put 11 b.val (put 16 a.val (put 21 d.val 0xA000000F))))
  | .vdiv d a b m t => put 4 t.code (put 8 m.val (put 11 b.val (put 16 a.val (put 21 d.val 0xA4000000))))
  | .vsqrt d a m t => put 4 t.code (put 8 m.val (put 16 a.val (put 21 d.val 0xA4000001)))
  | .vrsqrt d a m t => put 4 t.code (put 8 m.val (put 16 a.val (put 21 d.val 0xA4000002)))
  | .vrcp d a m t => put 4 t.code (put 8 m.val (put 16 a.val (put 21 d.val 0xA4000003)))
  | .vexp2 d a m t => put 4 t.code (put 8 m.val (put 16 a.val (put 21 d.val 0xA4000004)))
  | .vlog2 d a m t => put 4 t.code (put 8 m.val (put 16 a.val (put 21 d.val 0xA4000005)))
  | .vsin d a m t => put 4 t.code (put 8 m.val (put 16 a.val (put 21 d.val 0xA4000006)))
  | .vcos d a m t => put 4 t.code (put 8 m.val (put 16 a.val (put 21 d.val 0xA4000007)))
  | .vtanh d a m t => put 4 t.code (put 8 m.val (put 16 a.val (put 21 d.val 0xA4000008)))
  | .vcmpeq kd a b m t => put 4 t.code (put 8 m.val (put 11 b.val (put 16 a.val (put 21 kd.val 0xA8000000))))
  | .vcmpne kd a b m t => put 4 t.code (put 8 m.val (put 11 b.val (put 16 a.val (put 21 kd.val 0xA8000001))))
  | .vcmplt kd a b m t => put 4 t.code (put 8 m.val (put 11 b.val (put 16 a.val (put 21 kd.val 0xA8000002))))
  | .vcmple kd a b m t => put 4 t.code (put 8 m.val (put 11 b.val (put 16 a.val (put 21 kd.val 0xA8000003))))
  | .vsel d a b m t => put 4 t.code (put 8 m.val (put 11 b.val (put 16 a.val (put 21 d.val 0xA8000004))))
  | .kand kd ka kb => put 11 kb.val (put 16 ka.val (put 21 kd.val 0xA8000005))
  | .kor kd ka kb => put 11 kb.val (put 16 ka.val (put 21 kd.val 0xA8000006))
  | .kxor kd ka kb => put 11 kb.val (put 16 ka.val (put 21 kd.val 0xA8000007))
  | .knot kd ka => put 16 ka.val (put 21 kd.val 0xA8000008)
  | .kmov kd ka => put 16 ka.val (put 21 kd.val 0xA8000009)
  | .kmovFromX kd a => put 16 a.val (put 21 kd.val 0xA8000809)
  | .kmovToX d ka => put 16 ka.val (put 21 d.val 0xA8001009)
  | .vcvt d a mode part t src => put 0 src.code (put 4 t.code (put 11 part.val (put 13 mode.code (put 16 a.val (put 21 d.val 0xAC000000)))))
  | .vcvtEf d a q part t src => put 0 src.code (put 4 t.code (put 8 q.val (put 11 part.val (put 16 a.val (put 21 d.val 0xAC008000)))))
  | .vredsum d a m t => put 4 t.code (put 8 m.val (put 16 a.val (put 21 d.val 0xB0000000)))
  | .vredmin d a m t => put 4 t.code (put 8 m.val (put 16 a.val (put 21 d.val 0xB0000001)))
  | .vredmax d a m t => put 4 t.code (put 8 m.val (put 16 a.val (put 21 d.val 0xB0000002)))
  | .vscanIncl d a m t => put 4 t.code (put 8 m.val (put 16 a.val (put 21 d.val 0xB0000003)))
  | .vscanExcl d a m t => put 4 t.code (put 8 m.val (put 16 a.val (put 21 d.val 0xB0000803)))
  | .vscanCompact d a m t => put 4 t.code (put 8 m.val (put 16 a.val (put 21 d.val 0xB0001003)))
  | .vperm d a b m t => put 4 t.code (put 8 m.val (put 11 b.val (put 16 a.val (put 21 d.val 0xB4000000))))
  | .vbcast d a m t => put 4 t.code (put 8 m.val (put 16 a.val (put 21 d.val 0xB4000001)))
  | .vslide d a b m t => put 4 t.code (put 8 m.val (put 11 b.val (put 16 a.val (put 21 d.val 0xB4000002))))
  | .vzip d a b t => put 4 t.code (put 11 b.val (put 16 a.val (put 21 d.val 0xB4000003)))
  | .vunzip d a b t => put 4 t.code (put 11 b.val (put 16 a.val (put 21 d.val 0xB4000004)))
  | .vmovx d a b t => put 4 t.code (put 11 b.val (put 16 a.val (put 21 d.val 0xB4000005)))
  | .vmovv d a b t => put 4 t.code (put 11 b.val (put 16 a.val (put 21 d.val 0xB4000006)))
  | .vaddx d a b m t => put 4 t.code (put 8 m.val (put 11 b.val (put 16 a.val (put 21 d.val 0xB8000000))))
  | .vsubx d a b m t => put 4 t.code (put 8 m.val (put 11 b.val (put 16 a.val (put 21 d.val 0xB8000001))))
  | .vmulx d a b m t => put 4 t.code (put 8 m.val (put 11 b.val (put 16 a.val (put 21 d.val 0xB8000002))))
  | .vfmax d a b m t => put 4 t.code (put 8 m.val (put 11 b.val (put 16 a.val (put 21 d.val 0xB8000003))))
  | .vminx d a b m t => put 4 t.code (put 8 m.val (put 11 b.val (put 16 a.val (put 21 d.val 0xB8000004))))
  | .vmaxx d a b m t => put 4 t.code (put 8 m.val (put 11 b.val (put 16 a.val (put 21 d.val 0xB8000005))))
  | .mgw a n => put 0 n.val (put 11 a.val 0xC0010000)
  | .mgr d n => put 0 n.val (put 11 d.val 0xC0020000)
  | .mclaim a => put 11 a.val 0xC0030000
  | .mrel a => put 11 a.val 0xC0040000
  | .mmac a b g => put 0 g.val (put 6 b.val (put 11 a.val 0xC0050000))
  | .mcommit => 0xC0060000
  | .mwaitb a => put 11 a.val 0xC0070000
  | .mread a v c => put 0 c.val (put 6 v.val (put 11 a.val 0xC0080000))
  | .mwrite a v c => put 0 c.val (put 6 v.val (put 11 a.val 0xC0090000))
  | .mzero a b => put 6 b.val (put 11 a.val 0xC00A0000)
  | .mcmdMmac a b => put 6 b.val (put 11 a.val 0xC00B0000)
  | .mcmdCommit a b => put 6 b.val (put 11 a.val 0xC00B0001)
  | .mcmdZero a b => put 6 b.val (put 11 a.val 0xC00B0002)
  | .mcapw a b e => put 0 e.val (put 6 b.val (put 11 a.val 0xC00C0000))
  | .shw a b n => put 0 n.val (put 6 b.val (put 11 a.val 0xC0410000))
  | .shseal n => put 0 n.val 0xC0420000
  | .shld a n => put 0 n.val (put 11 a.val 0xC0430000)
  | .cpin a b int n => put 0 n.val (put 4 (boolCode int) (put 6 b.val (put 11 a.val 0xC0440000)))
  | .cpoutGet a b int n => put 0 n.val (put 4 (boolCode int) (put 6 b.val (put 11 a.val 0xC0450000)))
  | .cpoutPut a b int n => put 0 n.val (put 4 (boolCode int) (put 6 b.val (put 11 a.val 0xC0450020)))
  | .cpush a b int n => put 0 n.val (put 4 (boolCode int) (put 6 b.val (put 11 a.val 0xC0460000)))
  | .cpushRelease a => put 11 a.val 0xC0460020
  | .chsub d b int k => put 0 k.val (put 4 (boolCode int) (put 6 b.val (put 11 d.val 0xC0810000)))
  | .chpoll d b => put 6 b.val (put 11 d.val 0xC0820000)
  | .xsched a b k => put 0 k.val (put 6 b.val (put 11 a.val 0xC0C10000))
  | .xsend a b => put 6 b.val (put 11 a.val 0xC0C20000)
  | .kick a b => put 6 b.val (put 11 a.val 0xC1010000)
  | .cancel a => put 11 a.val 0xC1020000
  | .waitl a d => put 6 d.val (put 11 a.val 0xC1030000)
  | _ => 0

end Sys2Proof
end

