-- ==== Sys2Proof/Machine/Float.lean ====
section
/-!
DEFINITION. Floating values as exact dyadic numbers and their rounding into the formats of R230 and R231,
with the flags of R246. Every arithmetic result is formed exactly and rounded once.
-/
namespace Sys2Proof.Machine

/-! ## Flags -/

/-- The flags of FSTAT (R246): NV, DZ, OF, UF, NX from bit 4 down. -/
abbrev Flags := BitVec 5

/-- Invalid (R246). -/
def flagNV : Flags := 16
/-- Division by zero (R246). -/
def flagDZ : Flags := 8
/-- Overflow and inexact: they come together (R244). -/
def flagOF : Flags := 5
/-- Underflow (R246). -/
def flagUF : Flags := 2
/-- Inexact (R246). -/
def flagNX : Flags := 1

/-! ## Values -/

/-- A floating value: the one NaN of R232, an infinity, or (−1)^neg × m × 2^e; a zero keeps its sign. -/
inductive FVal where
  | nan
  | inf (neg : Bool)
  | fin (neg : Bool) (m : Nat) (e : Int)
  deriving DecidableEq, Repr, Inhabited

/-- ±0. -/
def fzero (neg : Bool) : FVal := .fin neg 0 0

/-- An integer as a floating value; 0 is +0. -/
def fofInt (i : Int) : FVal := .fin (decide (i < 0)) i.natAbs 0

/-- The signed integer n with value = n × 2^e0, for a finite value whose exponent is at least `e0`. -/
def fscaled (e0 : Int) : FVal → Int
  | .fin neg m e => let n : Int := ((m * 2 ^ (e - e0).toNat : Nat) : Int); if neg then -n else n
  | _ => 0

/-- The exponent of a finite value's integer. -/
def fexp : FVal → Int
  | .fin _ _ e => e
  | _ => 0

/-- The value changes sign; a NaN stays. -/
def fneg : FVal → FVal
  | .nan => .nan
  | .inf n => .inf (!n)
  | .fin n m e => .fin (!n) m e

/-- A NaN. -/
def FVal.isNan : FVal → Bool
  | .nan => true
  | _ => false

/-- ±0. -/
def FVal.isZero : FVal → Bool
  | .fin _ m _ => m == 0
  | _ => false

/-- Neither an infinity nor a NaN. -/
def FVal.isFin : FVal → Bool
  | .fin _ _ _ => true
  | _ => false

/-- The sign bit of a value; a NaN's is clear (R231). -/
def FVal.sign : FVal → Bool
  | .nan => false
  | .inf n => n
  | .fin n _ _ => n

/-- a < b for values that are not NaN; −0 is not below +0. -/
def flt : FVal → FVal → Bool
  | .nan, _ | _, .nan => false
  | .inf n, .inf n' => n && !n'
  | .inf n, .fin _ _ _ => n
  | .fin _ _ _, .inf n' => !n'
  | a@(.fin _ _ _), b@(.fin _ _ _) =>
    let e0 := min (fexp a) (fexp b)
    decide (fscaled e0 a < fscaled e0 b)

/-- a = b for values that are not NaN; −0 equals +0. -/
def feq (a b : FVal) : Bool := !a.isNan && !b.isNan && !flt a b && !flt b a

/-! ## Exact arithmetic with the special values of IEEE 754-2019 and R232 -/

/-- The exact sum, and NV for ∞ − ∞. An exact zero sum of values that are not both −0 is +0 (R254). -/
def fadd : FVal → FVal → FVal × Flags
  | .nan, _ | _, .nan => (.nan, 0)
  | .inf n, .inf n' => if n = n' then (.inf n, 0) else (.nan, flagNV)
  | .inf n, .fin _ _ _ => (.inf n, 0)
  | .fin _ _ _, .inf n => (.inf n, 0)
  | a@(.fin na ma _), b@(.fin nb mb _) =>
    if ma = 0 ∧ mb = 0 then (fzero (na && nb), 0) else
    let e0 := min (fexp a) (fexp b)
    let s := fscaled e0 a + fscaled e0 b
    (.fin (decide (s < 0)) s.natAbs e0, 0)

/-- The exact difference. -/
def fsub (a b : FVal) : FVal × Flags := fadd a (fneg b)

/-- The exact product, and NV for 0 × ∞. -/
def fmul : FVal → FVal → FVal × Flags
  | .nan, _ | _, .nan => (.nan, 0)
  | .inf n, .inf n' => (.inf (n != n'), 0)
  | .inf n, .fin n' m _ | .fin n' m _, .inf n => if m = 0 then (.nan, flagNV) else (.inf (n != n'), 0)
  | .fin n m e, .fin n' m' e' => (.fin (n != n') (m * m') (e + e'), 0)

/-- a × b + d exactly. NV is raised only where no input is a NaN (R232). -/
def ffma (a b d : FVal) : FVal × Flags :=
  if a.isNan || b.isNan || d.isNan then (.nan, 0) else
  let (p, f) := fmul a b
  let (s, g) := fadd p d
  (s, f ||| g)

/-- The lesser value with −0 below +0; a NaN if either is (R254). -/
def fmin (a b : FVal) : FVal :=
  if a.isNan || b.isNan then .nan
  else if flt a b then a else if flt b a then b else if a.sign then a else b

/-- The greater value with −0 below +0; a NaN if either is (R254). -/
def fmax (a b : FVal) : FVal :=
  if a.isNan || b.isNan then .nan
  else if flt a b then b else if flt b a then a else if a.sign then b else a

/-! ## Formats -/

/-- A floating format (R230, R231): bits of mantissa and exponent, bias, the code of the largest finite
magnitude, the code of infinity if there is one, and the canonical NaN with the flags its making raises. -/
structure FFmt where
  mbits : Nat
  ebits : Nat
  bias  : Nat
  top   : Nat
  inf   : Option Nat
  nan   : Nat
  nanFlags : BitVec 5 := 0
  deriving DecidableEq, Repr, Inhabited

/-- FP32 (R230). -/
def fmtF32 : FFmt := { mbits := 23, ebits := 8, bias := 127, top := 0x7F7FFFFF, inf := some 0x7F800000, nan := 0x7FC00000 }
/-- FP16 (R230). -/
def fmtF16 : FFmt := { mbits := 10, ebits := 5, bias := 15, top := 0x7BFF, inf := some 0x7C00, nan := 0x7E00 }
/-- BF16 (R230). -/
def fmtBF16 : FFmt := { mbits := 7, ebits := 8, bias := 127, top := 0x7F7F, inf := some 0x7F80, nan := 0x7FC0 }
/-- H19 (R230, R233). -/
def fmtH19 : FFmt := { mbits := 10, ebits := 8, bias := 127, top := 0x3FBFF, inf := some 0x3FC00, nan := 0x3FE00 }
/-- E4M3 (R230, R237). -/
def fmtE4M3 : FFmt := { mbits := 3, ebits := 4, bias := 7, top := 0x7E, inf := none, nan := 0x7F }
/-- E5M2 (R230). -/
def fmtE5M2 : FFmt := { mbits := 2, ebits := 5, bias := 15, top := 0x7B, inf := some 0x7C, nan := 0x7E }
/-- E2M1 (R230); a NaN becomes +0 with NV (R237). -/
def fmtE2M1 : FFmt := { mbits := 1, ebits := 2, bias := 1, top := 7, inf := none, nan := 0, nanFlags := 16 }

/-- The value of a code (R230, R231). -/
def fdecode (f : FFmt) (c : Nat) : FVal :=
  let neg := c.testBit (f.mbits + f.ebits)
  let mag := c % 2 ^ (f.mbits + f.ebits)
  if mag > f.top then (if f.inf = some mag then .inf neg else .nan) else
  let e := mag / 2 ^ f.mbits
  let m := mag % 2 ^ f.mbits
  if e = 0 then .fin neg m (1 - (f.bias : Int) - f.mbits)
  else .fin neg (2 ^ f.mbits + m) ((e : Int) - f.bias - f.mbits)

/-- The value of an E8M0 scale: `none` for the NaN code, else the exponent of the power of two (R230). -/
def e8m0 (c : Nat) : Option Int := if c = 255 then none else some ((c : Int) - 127)

/-! ## Rounding (R243, R244, R246) -/

/-- m × 2^e rounded to a multiple of 2^q: the multiple and whether it differs. -/
def roundAt (mode : RMode) (neg : Bool) (m : Nat) (e q : Int) : Nat × Bool :=
  if q ≤ e then (m * 2 ^ (e - q).toNat, false) else
  let s := (q - e).toNat
  let hi := m / 2 ^ s
  let lo := m % 2 ^ s
  if lo = 0 then (hi, false) else
  let up := match mode with
    | .rne => decide (2 * lo > 2 ^ s) || (decide (2 * lo = 2 ^ s) && hi % 2 == 1)
    | .rtz => false
    | .rup => !neg
    | .rdn => neg
  (if up then hi + 1 else hi, true)

/-- Sign bit and magnitude put together. -/
def fpack (f : FFmt) (neg : Bool) (mag : Nat) : Nat := (if neg then 2 ^ (f.mbits + f.ebits) else 0) + mag

/-- What an overflow delivers: R244 for formats with infinities, R237 for the others. -/
def foverflow (f : FFmt) (mode : RMode) (neg : Bool) : Nat :=
  match f.inf with
  | none => fpack f neg f.top
  | some i =>
    match mode, neg with
    | .rne, n => fpack f n i
    | .rtz, n => fpack f n f.top
    | .rup, false => i
    | .rup, true => fpack f true f.top
    | .rdn, false => f.top
    | .rdn, true => fpack f true i

/-- A finite non-zero value rounded into a format, with its flags. Tininess is judged after rounding to the
format's precision with an unbounded exponent (R246). -/
def froundFin (f : FFmt) (mode : RMode) (neg : Bool) (m : Nat) (e : Int) : Nat × Flags :=
  let msb : Int := e + m.log2
  let emin : Int := 1 - (f.bias : Int)
  let qmin : Int := emin - f.mbits
  let q : Int := max msb emin - f.mbits
  let (r, nx) := roundAt mode neg m e q
  let mag := (q - qmin).toNat * 2 ^ f.mbits + r
  if mag > f.top then (foverflow f mode neg, flagOF) else
  let (ru, _) := roundAt mode neg m e (msb - f.mbits)
  let tiny := decide (msb < emin - 1) || (decide (msb = emin - 1) && decide (ru < 2 ^ (f.mbits + 1)))
  (fpack f neg mag, if nx then (if tiny then flagUF ||| flagNX else flagNX) else 0)

/-- A value rounded into a format (R232, R237, R243, R244). -/
def fround (f : FFmt) (mode : RMode) : FVal → Nat × Flags
  | .nan => (f.nan, f.nanFlags)
  | .inf neg =>
    match f.inf with
    | some i => (fpack f neg i, 0)
    | none => (fpack f neg f.top, flagOF)
  | .fin neg m e => if m = 0 then (fpack f neg 0, 0) else froundFin f mode neg m e

/-- A value known to lie strictly between m × 2^e and (m + 1) × 2^e, rounded. `m` must reach below the last
place of the format, so that no rounding boundary lies strictly between the two. -/
def froundBetween (f : FFmt) (mode : RMode) (neg : Bool) (m : Nat) (e : Int) : Nat × Flags :=
  froundFin f mode neg (2 * m + 1) (e - 1)

/-- An exact result and the flags of its making, rounded RNE. -/
def frne (f : FFmt) (r : FVal × Flags) : Nat × Flags :=
  let (c, g) := fround f .rne r.1
  (c, r.2 ||| g)

/-- FP32 RNE of a value, as a value, with flags. -/
def rne32 (r : FVal × Flags) : FVal × Flags :=
  let (c, g) := frne fmtF32 r
  (fdecode fmtF32 c, g)

/-! ## Integers (R239) -/

/-- A value rounded to an integer by a mode: the integer and whether it differs. -/
def froundInt (mode : RMode) (neg : Bool) (m : Nat) (e : Int) : Int × Bool :=
  let (r, nx) := roundAt mode neg m e 0
  (if neg then -(r : Int) else r, nx)

/-- Conversion of a floating value into the integers from `lo` to `hi` (R239). A saturated result raises NV, and NX because it differs from the
exact value (R237, R246; assumption log 5). -/
def fToInt (mode : RMode) (lo hi : Int) : FVal → Int × Flags
  | .nan => (0, flagNV)
  | .inf neg => (if neg then lo else hi, flagNV ||| flagNX)
  | .fin neg m e =>
    let (i, nx) := froundInt mode neg m e
    if i < lo then (lo, flagNV ||| flagNX) else if i > hi then (hi, flagNV ||| flagNX) else (i, if nx then flagNX else 0)

/-- Saturation of an integer to `lo` … `hi`, with NV (R263) and NX (R246). -/
def satInt (lo hi i : Int) : Int × Flags :=
  if i < lo then (lo, flagNV ||| flagNX) else if i > hi then (hi, flagNV ||| flagNX) else (i, 0)

/-! ## Division and roots -/

/-- The quotient of two finite non-zero values, rounded: R256. -/
def fdivFin (f : FFmt) (na : Bool) (ma : Nat) (ea : Int) (nb : Bool) (mb : Nat) (eb : Int) : Nat × Flags :=
  let sh := 64 + mb.log2
  let q := ma * 2 ^ sh / mb
  let neg := na != nb
  if q * mb = ma * 2 ^ sh then froundFin f .rne neg q (ea - eb - sh)
  else froundBetween f .rne neg q (ea - eb - sh)

/-- a / b (R256, R257). -/
def fdiv (f : FFmt) : FVal → FVal → Nat × Flags
  | .nan, _ | _, .nan => (f.nan, 0)
  | .inf _, .inf _ => (f.nan, flagNV)
  | .inf n, .fin n' _ _ => fround f .rne (.inf (n != n'))
  | .fin n _ _, .inf n' => fround f .rne (fzero (n != n'))
  | .fin n m e, .fin n' m' e' =>
    if m' = 0 then
      if m = 0 then (f.nan, flagNV)
      else let (c, _) := fround f .rne (.inf (n != n')); (c, flagDZ)
    else if m = 0 then fround f .rne (fzero (n != n'))
    else fdivFin f n m e n' m' e'

/-- The integer square root, bit by bit from 2^k down: `r` is the root so far. -/
def isqrtGo (n : Nat) : Nat → Nat → Nat
  | 0, r => if (r + 1) * (r + 1) ≤ n then r + 1 else r
  | k + 1, r => let r' := r + 2 ^ (k + 1); isqrtGo n k (if r' * r' ≤ n then r' else r)

/-- The greatest r with r × r ≤ n. -/
def isqrt (n : Nat) : Nat := isqrtGo n (n.log2 / 2 + 1) 0

/-- The square root of m × 2^e as r × 2^e' with r of more than 60 bits, and whether it is exact. -/
def fsqrtParts (m : Nat) (e : Int) : Nat × Int × Bool :=
  let sh : Nat := if e % 2 = 0 then 160 else 161
  let n := m * 2 ^ sh
  let r := isqrt n
  (r, (e - sh) / 2, r * r == n)

/-- √a (R256, R257). -/
def fsqrt (f : FFmt) : FVal → Nat × Flags
  | .nan => (f.nan, 0)
  | .inf neg => if neg then (f.nan, flagNV) else fround f .rne (.inf false)
  | .fin neg m e =>
    if m = 0 then fround f .rne (fzero neg)
    else if neg then (f.nan, flagNV)
    else
      let (r, e', exact) := fsqrtParts m e
      if exact then froundFin f .rne false r e' else froundBetween f .rne false r e'

/-- 1 / √a (R256, R257): the square root of 1 / a, with 1 / a held to more places than any result needs. -/
def frsqrt (f : FFmt) : FVal → Nat × Flags
  | .nan => (f.nan, 0)
  | .inf neg => if neg then (f.nan, flagNV) else fround f .rne (fzero false)
  | .fin neg m e =>
    if m = 0 then let (c, _) := fround f .rne (.inf neg); (c, flagDZ)
    else if neg then (f.nan, flagNV)
    else
      -- with k even, 2^(2k) / m × 2^(-e - 2k) under the root, rounded down twice
      let odd : Nat := if e % 2 = 0 then 0 else 1
      let num := 2 ^ (320 + odd)
      let r := isqrt (num / m)
      let e' : Int := (-e - 320 - odd) / 2
      if r * r * m = num then froundFin f .rne false r e' else froundBetween f .rne false r e'

end Sys2Proof.Machine
end

