-- ==== Sys2Proof/Machine/Formats.lean ====
section
/-!
DEFINITION. The element formats (R124, R230 to R242): integers, decode-table codes and their encoding search,
microscaled and seam elements, and the lane types of vector registers.
-/
namespace Sys2Proof.Machine

/-- A decode table: 256 H19 patterns (R176, R234). -/
abbrev C8Tab := Vector (BitVec 19) 256

/-! ## Integers -/

/-- The signed value of a pattern of `w` bits. -/
def signedOf (w n : Nat) : Int :=
  let n : Nat := n % 2 ^ w
  if n < 2 ^ (w - 1) then (n : Int) else (n : Int) - ((2 ^ w : Nat) : Int)

/-- The pattern of `w` bits of an integer, modulo 2^w. -/
def intBits (w : Nat) (i : Int) : Nat := (i % ((2 ^ w : Nat) : Int)).toNat

/-- The least and greatest integer of a signed or unsigned format of `w` bits (R239). -/
def intRange (signed : Bool) (w : Nat) : Int × Int :=
  if signed then (-((2 ^ (w - 1) : Nat) : Int), ((2 ^ (w - 1) : Nat) : Int) - 1)
  else (0, ((2 ^ w : Nat) : Int) - 1)

/-! ## Decode tables -/

/-- The place of an H19 value in ascending order, −0 below +0; none for the NaN (R235). -/
def h19Key (p : BitVec 19) : Option Int :=
  let mag : Nat := p.toNat % 2 ^ 18
  if mag > 0x3FC00 then none else some (if p.toNat ≥ 2 ^ 18 then -1 - (mag : Int) else (mag : Int))

/-- The value of a place. -/
def h19Val (k : Int) : FVal :=
  if k < 0 then fdecode fmtH19 (2 ^ 18 + (-1 - k).toNat) else fdecode fmtH19 k.toNat

/-- The place of an infinity. -/
def infKey (neg : Bool) : Int := if neg then -1 - 0x3FC00 else 0x3FC00

/-- Of the table's values that `p` admits, the greatest (`up`) or least place, with the lowest code that holds
it (R235). `c` is the code of the first entry. -/
def c8Pick (p : Int → Bool) (up : Bool) : List (BitVec 19) → Nat → Option (Int × Nat) → Option (Int × Nat)
  | [], _, best => best
  | h :: t, c, best =>
    let best' := match h19Key h, best with
      | none, b => b
      | some k, none => if p k then some (k, c) else none
      | some k, some (k', c') =>
        if p k && (if up then decide (k > k') else decide (k < k')) then some (k, c) else some (k', c')
    c8Pick p up t (c + 1) best'

/-- The lowest code of a NaN entry. -/
def c8Nan : List (BitVec 19) → Nat → Option Nat
  | [], _ => none
  | h :: t, c => if (h19Key h).isNone then some c else c8Nan t (c + 1)

/-- The distinct places below `k`: the rank of `k` in the view (R235). `seen` are the places met. -/
def c8Rank (k : Int) : List (BitVec 19) → List Int → Nat
  | [], seen => seen.length
  | h :: t, seen =>
    match h19Key h with
    | none => c8Rank k t seen
    | some k' => if k' < k && !(seen.contains k') then c8Rank k t (k' :: seen) else c8Rank k t seen

/-- Is the place that of a finite value? -/
def finKey (k : Int) : Bool := decide (infKey true < k) && decide (k < infKey false)

/-- The lowest code of a place, if the table holds it. -/
def c8Code (tab : List (BitVec 19)) (k : Int) : Option Nat := (c8Pick (fun k' => decide (k' = k)) true tab 0 none).map (·.2)

/-- The choice between the neighbours of a value between them: R236 for RNE, R243 for the others. Under RTZ
the neighbour nearer to zero is taken, and of two as near the one on zero's side of x (assumption log 6). -/
def c8Between (tab : List (BitVec 19)) (mode : RMode) (x : FVal) (lo hi : Int × Nat) : Nat :=
  let l := h19Val lo.1
  let h := h19Val hi.1
  let al : FVal := if l.sign then fneg l else l
  let ah : FVal := if h.sign then fneg h else h
  let nearest : Nat :=
    let dl := (fsub x l).1
    let dh := (fsub h x).1
    if flt dl dh then lo.2 else if flt dh dl then hi.2
    else if c8Rank lo.1 tab [] % 2 = 0 then lo.2 else hi.2
  match mode with
  | .rne => nearest
  | .rup => hi.2
  | .rdn => lo.2
  | .rtz =>
    if flt al ah then lo.2 else if flt ah al then hi.2
    else if x.isZero then nearest
    else if x.sign then hi.2 else lo.2

/-- The search among finite places, and the saturation beyond them (R236, R243). -/
def c8Search (tab : List (BitVec 19)) (mode : RMode) (x : FVal) : Nat × Flags :=
  let pinf := c8Code tab (infKey false)
  let ninf := c8Code tab (infKey true)
  match c8Pick finKey true tab 0 none, c8Pick finKey false tab 0 none with
  | some (kmax, cmax), some (kmin, cmin) =>
    if flt (h19Val kmax) x then
      ((if mode = .rne ∨ mode = .rup then pinf else none).getD cmax, flagOF)
    else if flt x (h19Val kmin) then
      ((if mode = .rne ∨ mode = .rdn then ninf else none).getD cmin, flagOF)
    else
      match c8Pick (fun k => finKey k && !flt x (h19Val k)) true tab 0 none,
            c8Pick (fun k => finKey k && !flt (h19Val k) x) false tab 0 none with
      | some lo, some hi =>
        if feq x (h19Val lo.1) then (lo.2, 0) else (c8Between tab mode x lo hi, flagNX)
      | _, _ => (0, 0)
  | _, _ =>
    -- only infinities: R236's result in every mode
    let own := if x.sign then ninf else pinf
    let other := if x.sign then pinf else ninf
    ((own.orElse fun _ => other).getD 0, flagOF)

/-- The encoding of a value into a C8 code (R236, R243). -/
def c8Encode (tab : C8Tab) (mode : RMode) (x : FVal) : Nat × Flags :=
  let t := tab.toList
  if x.isNan then
    match c8Nan t 0 with
    | some c => (c, 0)
    | none => (0, flagNV)
  else if (c8Pick (fun _ => true) true t 0 none).isNone then (0, flagNV)
  else
    match x with
    | .inf neg =>
      match c8Code t (infKey neg) with
      | some c => (c, 0)
      | none => c8Search t mode x
    | .fin neg 0 _ =>
      let own := c8Code t (if neg then -1 else 0)
      let other := c8Code t (if neg then 0 else -1)
      match own.orElse fun _ => other with
      | some c => (c, 0)
      | none => c8Search t mode x
    | _ => c8Search t mode x

/-- The value of a C8 code (R234). -/
def c8Decode (tab : C8Tab) (c : Nat) : FVal := fdecode fmtH19 ((tab.toList.getD (c % 256) 0).toNat)

/-- The contents DTLD gives a table from sources 1 to 3 of R176: every value is exact in H19. -/
def c8From (f : Nat → FVal) : C8Tab := Vector.ofFn fun i => BitVec.ofNat 19 (fround fmtH19 .rne (f i.val)).1

/-! ## Element formats of fat pointers (R124) -/

/-- Bits of an element of a format without blocks; `raw` counts 8 (R283). -/
def elemBits (code : Nat) : Nat :=
  if code = 1 ∨ code = 6 ∨ code = 10 then 32
  else if code = 2 ∨ code = 3 ∨ code = 5 ∨ code = 9 then 16
  else if code = 7 then 64
  else 8

/-- MXFP4 and MXFP8. -/
def isMx (code : Nat) : Bool := code == 15 || code == 16 || code == 17

/-- SEAM10, SEAM15 and SEAM20. -/
def isSeam (code : Nat) : Bool := code == 18 || code == 19 || code == 20

/-- A format code that R124 assigns. -/
def fmtOk (code : Nat) : Bool := decide (code ≤ 20)

/-- The block-length field fits the format (R194). -/
def blkOk (code blk : Nat) : Bool :=
  if isMx code then blk == 5 else if isSeam code then blk == 0 || decide (6 ≤ blk) else blk == 0

/-- The weights of a seam block by its block-length code (R194). -/
def seamN (blk : Nat) : Nat := if blk = 0 then 65536 else 2 ^ blk

/-- The signed integer formats S8 to S64 among the codes. -/
def codeSigned (code : Nat) : Bool := decide (4 ≤ code) && decide (code ≤ 7)

/-- The floating format of a code that has one. -/
def codeFmt (code : Nat) : FFmt :=
  if code = 2 then fmtF16 else if code = 3 then fmtBF16 else if code = 13 then fmtE4M3
  else if code = 14 then fmtE5M2 else fmtF32

/-- The value of an element of a format without blocks, codes 1 to 14 (R195, R233, R234, R239). -/
def elemVal (ta tb : C8Tab) (code bits : Nat) : FVal :=
  if 4 ≤ code ∧ code ≤ 7 then fofInt (signedOf (elemBits code) bits)
  else if 8 ≤ code ∧ code ≤ 10 then fofInt ((bits % 2 ^ elemBits code : Nat) : Int)
  else if code = 11 then c8Decode ta bits
  else if code = 12 then c8Decode tb bits
  else fdecode (codeFmt code) bits

/-- A value converted into a format without blocks, codes 1 to 14 (R237, R239, R236). -/
def elemEnc (ta tb : C8Tab) (code : Nat) (mode : RMode) (x : FVal) : Nat × Flags :=
  if 4 ≤ code ∧ code ≤ 10 then
    let (lo, hi) := intRange (codeSigned code) (elemBits code)
    let (i, f) := fToInt mode lo hi x
    (intBits (elemBits code) i, f)
  else if code = 11 then c8Encode ta mode x
  else if code = 12 then c8Encode tb mode x
  else fround (codeFmt code) mode x

/-! ## Microscaled blocks (R238) -/

/-- Bytes of an MX block. -/
def mxBlock (code : Nat) : Nat := if code = 15 then 17 else 33

/-- The format of an MX element. -/
def mxFmt (code : Nat) : FFmt := if code = 15 then fmtE2M1 else if code = 16 then fmtE4M3 else fmtE5M2

/-- Where element `j` lies from the pointer's address: its byte, its bit within the byte, and the byte of its
block's scale (R238). -/
def mxPlace (code j : Nat) : Nat × Nat × Nat :=
  let b := j / 32 * mxBlock code
  let k := j % 32
  if code = 15 then (b + k / 2, 4 * (k % 2), b + 16) else (b + k, 0, b + 32)

/-- The exact value of an MX element of a block whose scale code is given (R238). -/
def mxVal (code elem scale : Nat) : FVal :=
  match e8m0 scale with
  | none => .nan
  | some s =>
    match fdecode (mxFmt code) elem with
    | .fin n m e => .fin n m (e + s)
    | v => v

/-- A value encoded into an element of an MX block whose scale code is given, with flags (R196, R237). -/
def mxEncode (code scale : Nat) (mode : RMode) (x : FVal) : Nat × Flags :=
  match e8m0 scale with
  | none => let (c, f) := fround (mxFmt code) mode x; (c, f ||| flagNV)
  | some s =>
    let y := match x with
      | .fin n m e => FVal.fin n m (e - s)
      | v => v
    fround (mxFmt code) mode y

/-- The element bits that STF writes into an MX block, with flags (R196). -/
def mxEnc (code scale : Nat) (x : FVal) : Nat × Flags := mxEncode code scale .rne x

/-! ## Seam blocks (R224, R240, R241) -/

/-- The pair (s, v) of a seam format (R240). -/
def seamSV (code : Nat) : Nat × Nat := if code = 18 then (1, 1) else if code = 19 then (3, 2) else (2, 1)

/-- Stream bits of a block of `n` weights. -/
def seamBits (code n : Nat) : Nat := n * (seamSV code).1 / (seamSV code).2

/-- Bytes of a block record (R224). -/
def seamRecord (code n : Nat) : Nat := 16 * ((seamBits code n / 8 + 2 + 15) / 16)

/-- Bit `n` of a stream, the most significant of each byte first (R224). -/
def streamBit (byte : Nat → Nat) (n : Nat) : Nat := byte (n / 8) / 2 ^ (7 - n % 8) % 2

/-- The 16-bit window from bit `start`, wrapping at `b` bits; `k` bits are still to come (R224). -/
def seamWindow (byte : Nat → Nat) (b start : Nat) : Nat → Nat → Nat
  | 0, acc => acc
  | k + 1, acc => seamWindow byte b start k (2 * acc + streamBit byte ((start + (15 - k)) % b))

/-- Eight times f0 (`p` = 0) or f1 (`p` = 1) of a window (R224, R241). -/
def seamF8 (p w : Nat) : Int :=
  let h := if p = 0 then (w * 40503 + 14973) % 65536 else (w * 22421 + 7741) % 65536
  ((h / 4096 + h / 256 % 16 + h / 16 % 16 + h % 16 : Nat) : Int) - 30

/-- Eight times the value function of weight `k` of a block of `n` weights (R224). -/
def seamWeight8 (code n : Nat) (byte : Nat → Nat) (k : Nat) : Int :=
  let (s, v) := seamSV code
  seamF8 (k % v) (seamWindow byte (seamBits code n) (k / v * s) 16 0)

/-- The value f × scale of a weight, with a BF16 scale (R227). -/
def seamVal (f8 : Int) (scale : Nat) : FVal × Flags :=
  match fdecode fmtBF16 scale with
  | .nan => (.nan, 0)
  | .inf n => if f8 = 0 then (.nan, flagNV) else (.inf (n != decide (f8 < 0)), 0)
  | .fin n m e => (.fin (n != decide (f8 < 0)) (m * f8.natAbs) (e - 3), 0)

/-! ## Lanes of vector registers (R250) -/

/-- Lane `i` of `w` bits. -/
def lane (w : Nat) (v : Vec) (i : Nat) : Nat := v.toNat / 2 ^ (w * i) % 2 ^ w

/-- Lanes 0 to n − 1. -/
def lanesFrom (w : Nat) (x : Nat) : Nat → List Nat
  | 0 => []
  | n + 1 => x % 2 ^ w :: lanesFrom w (x / 2 ^ w) n

/-- The lanes of a register at a type. -/
def lanesOf (t : VT) (v : Vec) : List Nat := lanesFrom t.width v.toNat t.lanes

/-- The number whose lanes are listed, the lowest first. -/
def packLanes (w : Nat) : List Nat → Nat
  | [] => 0
  | a :: l => a % 2 ^ w + 2 ^ w * packLanes w l

/-- The register whose lanes are listed; lanes not listed are 0. -/
def vecOf (w : Nat) (l : List Nat) : Vec := BitVec.ofNat 512 (packLanes w l)

/-- The format code of R124 that holds the same values as a lane type. -/
def vtCode : VT → Nat
  | .f32 => 1 | .f16 => 2 | .bf16 => 3 | .s8 => 4 | .s16 => 5 | .s32 => 6 | .s64 => 7
  | .z8 => 8 | .z16 => 9 | .z32 => 10 | .c8a => 11 | .c8b => 12 | .e4m3 => 13 | .e5m2 => 14

/-- The floating format of a lane type of class F. -/
def vtFmt (t : VT) : FFmt := codeFmt (vtCode t)

end Sys2Proof.Machine
end

