-- ==== Sys2Proof/Config.lean ====
section
/-!
DEFINITION. The free values: what the manual leaves open and the machine needs. None has a body, so nothing
can be proved of its value, and a statement that mentions one holds for every value of it.
-/
namespace Sys2Proof.Config

/-- Which core issues, which happening comes, or how many cycles pass, when the state's own schedule is
empty. The manual fixes no such order (assumption log 1). -/
opaque nextMove : Nat → Move

/-- The SHA-384 digest that measures an image (R408, R409). The manual names the function and does not
define it (assumption log 2). -/
opaque sha384 : List Byte → BitVec 384

/-- The signature with the package's identity key that ATTEST returns (R409). The manual names the scheme
and gives no key (assumption log 2). -/
opaque slhSign : Nat → List Byte → List Byte

/-- Which of two neighbouring results a special function (R256) delivers where the model's enclosure of the
exact value holds a rounding boundary: by function number, lane width and operand bits (assumption log 3). -/
opaque specialTie : Nat → Nat → Nat → Bool

/-- Which entry a full bench TLB (R361) gives up for a new one: the manual names no replacement order
(assumption log 4). -/
opaque tlbVictim : Nat → Nat

/-- The E8M0 scale that a TRANSCODE gives block `b` of an MX destination, by the count of moves made: the manual says that
the scale comes from the conversion and does not say how (R292, R237; assumption log 19). -/
opaque mxScale : Nat → Nat → Byte

/-- The fused minimum of an image's security version in each package (R408): it is fixed at manufacture. -/
opaque fusedMin : Nat → Nat

/-- The physical address of each package's ASID root table, which its boot ROM fixes (R357; assumption log 34). -/
opaque asidTable : Nat → Nat

/-- The bytes of each package's boot ROM, which measurement register 0 holds the digest of (R409): they are fixed at manufacture
(assumption log 91). -/
opaque bootRom : Nat → List (BitVec 8)

/-- The supply voltage of each compute die of a package, which its process monitors set at boot (R414): the manual gives no function from their
readings (assumption log 107). -/
opaque supply : Nat → Nat → Nat

/-- The byte that a classifier rule (R403) compares at an offset beyond a frame's end: the manual does not say (assumption log 29). -/
opaque pastFrame : Nat → BitVec 8

/-- The tick of a frame whose time divided by the binding's divisor is 2^64 or more (R91): a tick has 64 bits, and the manual does not
say which one such a frame has (assumption log 30). -/
opaque lateTick : Nat → BitVec 64

end Sys2Proof.Config
end

