-- ==== Sys2Proof/Machine/Map.lean ====
section
/-!
DEFINITION. Finite maps from natural numbers, as lists of pairs: `find?` and `put` for tables of records, and
`get` and `set` for memories, where every key holds a value and one value, the default, is never listed.
-/
namespace Sys2Proof.Machine

/-- A finite map: (key, value) pairs. -/
abbrev Map (α : Type) := List (Nat × α)

/-- The value listed under a key. -/
def mapFind (k : Nat) : Map α → Option α
  | [] => none
  | (k', v) :: m => if k' = k then some v else mapFind k m

/-- The map without a key. -/
def mapErase (k : Nat) : Map α → Map α
  | [] => []
  | (k', v) :: m => if k' = k then mapErase k m else (k', v) :: mapErase k m

/-- A new key placed in rising order. -/
def mapInsert (k : Nat) (v : α) : Map α → Map α
  | [] => [(k, v)]
  | (k', v') :: m => if k < k' then (k, v) :: (k', v') :: m else (k', v') :: mapInsert k v m

/-- The map with `v` under `k`. -/
def mapPut (k : Nat) (v : α) (m : Map α) : Map α := mapInsert k v (mapErase k m)

/-- The value at a key, `d` where none is listed. -/
def mapGet (d : α) (m : Map α) (k : Nat) : α := (mapFind k m).getD d

/-- The map that reads `v` at `k`; the default `d` is never listed. -/
def mapSet [DecidableEq α] (d : α) (m : Map α) (k : Nat) (v : α) : Map α :=
  if v = d then mapErase k m else mapPut k v m

/-- Keys rise strictly and no listed value is the default. -/
def mapWf [DecidableEq α] (d : α) : Map α → Bool
  | [] => true
  | (k, v) :: m => v != d && (match m with | [] => true | (k', _) :: _ => decide (k < k')) && mapWf d m

/-- Keys rise strictly. -/
def mapRising : Map α → Bool
  | [] => true
  | (k, _) :: m => (match m with | [] => true | (k', _) :: _ => decide (k < k')) && mapRising m

/-- One byte of a memory whose unlisted bytes read as zero. -/
def memByte (m : Map Byte) (a : Nat) : Byte := mapGet 0 m a

/-- The `n` bytes from `a`, at rising addresses. -/
def memBytes (m : Map Byte) (a : Nat) : Nat → List Byte
  | 0 => []
  | n + 1 => memByte m a :: memBytes m (a + 1) n

/-- The bytes stored at rising addresses from `a`. -/
def memStore (m : Map Byte) (a : Nat) : List Byte → Map Byte
  | [] => m
  | b :: bs => memStore (mapSet 0 m a b) (a + 1) bs

/-- Memory is in its canonical form: addresses strictly rising, no zero byte listed. -/
def Memory.wf (m : Map Byte) : Bool := mapWf 0 m

/-! ## Time (R413) -/

/-- The least common multiple of 40 to 80: at throttle step k a cycle lasts 1 / (25 × (80 − k)) µs, which is a whole number of
the unit 1 / (25 × `timeUnit`) µs of time. -/
def timeUnit : Nat := 32433859254793982911622772305630400

/-- A time of `n` µs. -/
def micros (n : Nat) : Nat := n * 25 * timeUnit

end Sys2Proof.Machine
end

