-- ==== Sys2Proof/Machine/State.lean ====
section
/-!
DEFINITION. The state of one coherence domain (R8): its cores and the tasks bound to them, memory, the token
and cache state of its lines, benches, quarry cores, regions and keys, launches and the levels above them,
ports, packages, tenants and clients. All of it is plain data.
-/
namespace Sys2Proof.Machine

/-! ## Causes -/

/-- The causes of R371. -/
inductive CauseCode where
  | illegalInstruction | privilege | protect | addressWrap | pageFault | windowNack | memUe | seamWrite
  | strataAhead | strataBehind | strataOrder | shape | slotBusy | matrixHazard | capability | slotLate
  | gangDiverge | detViolation | detConflict
  deriving DecidableEq, Repr, Inhabited

/-- A cause and its record fields (R371, R375, R381). `level` is the table level of PT_FORMAT, `entry` the
replay-queue entry of READDUP_WRITE. `body` marks a cause of a repetition body that is delivered later (R164). -/
structure Cause where
  code    : CauseCode
  sub     : Nat := 0
  addr    : Word := 0
  party   : Nat := 0
  lane    : Nat := 0
  engine  : Nat := 0
  counter : Nat := 0
  async   : Bool := false
  remote  : Bool := false
  parked  : Bool := false
  body    : Bool := false
  level   : Nat := 0
  entry   : Nat := 0
  deriving DecidableEq, Repr, Inhabited

/-- The trap record of R381, before it is laid out in the context area; `body` says that the cause froze a repetition
body (R164), and `came` is the domain cycle in which it was made (R344). -/
structure TrapRecord where
  cause  : Cause
  body   : Bool
  nested : Bool
  resume : Word
  lid    : Nat
  asid   : Nat
  pkg    : Nat
  launch : Word
  cycle  : Word
  came   : Nat
  deriving DecidableEq, Repr, Inhabited

/-! ## A task -/

/-- The states of a tile task (R34); `none` is a logical core with no task. -/
inductive TaskSt where
  | none | granted | running | suspended | preempted | faulted | ended | lost
  deriving DecidableEq, Repr, Inhabited

/-- What a task is handling (R372, R376, R378). -/
inductive Handling where
  | none | upcall | interrupt
  deriving DecidableEq, Repr, Inhabited

/-- A shape record: its eight doubles and whether it is sealed (R283). -/
structure ShapeRec where
  d      : Vector Word 8 := Vector.replicate 8 0
  sealed : Bool := false
  deriving DecidableEq, Repr, Inhabited

/-- Who reads a stamped line (R398). -/
inductive Reader where
  | none | one (lid : Nat) | many
  deriving DecidableEq, Repr, Inhabited

/-- The phase stamp of a line or accumulator row (R398). -/
structure PhaseStamp where
  launch : Nat
  phase  : Nat
  writer : Option Nat
  reader : Reader
  op     : Option Nat
  deriving DecidableEq, Repr, Inhabited

/-- An operand slot (R99) with its scale store of 512 entries and the block length of the seam operand it was last
filled with (R226; assumption log 14). -/
structure Slot where
  claimed : Bool := false
  block   : Nat := 64
  data    : Map Byte := []
  scales  : Map (BitVec 16) := []
  bad     : List Nat := []
  deriving DecidableEq, Repr, Inhabited

/-- An entry of the capability table (R280). -/
structure Cap where
  token  : Nat := 0
  sender : Nat := 0
  deriving DecidableEq, Repr, Inhabited

/-- A strata key: a region and a key number of it (R67). -/
structure KeyId where
  rid : Nat
  k   : Nat
  deriving DecidableEq, Repr, Inhabited

/-- What a task waits for while it is RUNNING. `stall` is an instruction that issues again and whose wait
completes before an interrupt is taken; `home` is the same, for tokens of a line (R348), and
`queued` for its turn at the line's home (R115, R323); `mig` waits for
MIG_REWALK (R365); `exit` is the drain of EXIT (R168); `slot` an XSEND before its slot
(R295); `await` is the condition of a SUSPENDED task (R167); `strata` is the wait
record of R80: a load in its home's wait table, or in backoff since a cycle; `idle`, `term` (TERMWAIT) and `level` (WAITL, with its
handle, the number of kicks that its graph had accepted, and the completion word once the level has ended) are waits that an
interrupt abandons (R273, R378). -/
inductive Wait where
  | none
  | stall
  | home (l : Line) (h : Holder) (write : Bool)
  | queued (l : Line) (h : Holder)
  | mig (since : Nat)
  | idle
  | exit
  | slot
  | term (d : Reg)
  | line (n : Nat) (d : Reg)
  | strata (key : KeyId) (t : Nat) (v st : Reg) (inTable : Bool) (delay since : Nat)
  | remote
  | notice
  | await (n : R16) (target : BitVec 32)
  | level (h : Word) (n : Nat) (word : Option Word)
  deriving DecidableEq, Repr, Inhabited

/-- The repetition buffer with REPSTATE and REPCNT (R113, R162, R164, R174). `fresh` says that REP has not completed in every member of the
gang yet (R42), `shadow` that a handler's REP filled it, so that its body
writes the shadow bank (R271, R376), and `wait` is the wait of the body word that is to issue. While a body word is performed (`inBody` of
the task) the two waits have changed places. -/
structure RepBuf where
  running : Bool := false
  frozen  : Bool := false
  words   : List Nat := []
  nextw   : Nat := 0
  rep     : Nat := 0
  total   : Nat := 0
  sd      : Nat := 0
  sa      : Nat := 0
  sb      : Nat := 0
  captured : Vector Word 32 := Vector.replicate 32 0
  fresh   : Bool := false
  shadow  : Bool := false
  wait    : Wait := .none
  deriving DecidableEq, Repr, Inhabited

/-- A matrix step (R102, R279): its slots, its geometry pair as it stood at issue, the leader's columns, and the other
participants of a bench step. A step that is done stays until its batch completes, with the flags it raised. -/
structure MStep where
  seq     : Nat
  a       : Nat
  b       : Nat
  g       : Nat
  geo     : Word
  fmt     : Word
  cols    : Nat
  parts   : List Nat
  batch   : Option Nat
  started : Bool
  done    : Bool
  flags   : BitVec 5
  deriving DecidableEq, Repr, Inhabited

/-- A bench step of another leader in this core's queue (R279), by the leader and its number there; `seq` is its
place in this queue. -/
structure Guest where
  leader : Nat
  step   : Nat
  seq    : Nat
  slot   : Nat
  row0   : Nat
  rows   : Nat
  deriving DecidableEq, Repr, Inhabited

/-- What a copy moves (R100, R287). -/
inductive CopyKind where
  | cpin | get | put
  deriving DecidableEq, Repr, Inhabited

/-- A copy in the copy queue (R286): it keeps the record, box and operands of its issue (R285). -/
structure Copy where
  seq     : Nat
  kind    : CopyKind
  shape   : ShapeRec
  origin  : List Word
  extent  : List Word
  buf     : Word
  slot    : Nat
  ctr     : Nat
  int     : Bool
  waiting : Option Nat
  saved   : Bool
  deriving DecidableEq, Repr, Inhabited

/-- What a store writes: whole bytes, or the nibble from bit `nib` of one byte (an MXFP4 element, R196). -/
structure StoreData where
  bytes : List Byte
  nib   : Option Nat := none
  deriving DecidableEq, Repr, Inhabited

/-- A store parked in the replay queue (R191, R340), by the page that it waits for. Of an MX element, `mx` is the pointer to its block's
scale and the FP32 pattern from which the replay makes the element (R196). -/
structure Parked where
  page   : Nat
  ptr    : Word
  data   : StoreData
  hint   : Hint
  strong : Bool
  readdup : Bool
  mx     : Option (Word × Nat) := none
  deriving DecidableEq, Repr, Inhabited

/-- The operations of R204. -/
inductive AmoOp where
  | add | and | or | xor | min | max | minu | maxu | swap | cas | fadd
  deriving DecidableEq, Repr, Inhabited

/-- A reduction of `z` bytes that the old home of a moving page has answered MOVED (R208, R365), with the cycle in which it was last
translated. -/
structure MovedOp where
  ptr   : Word
  op    : AmoOp
  z     : Nat
  b     : Nat
  since : Nat
  deriving DecidableEq, Repr, Inhabited

/-- One entry of an exchange table (R294). -/
structure XEntry where
  o     : Nat
  dest  : Nat
  lines : Nat
  deriving DecidableEq, Repr, Inhabited

/-- A send whose lines have not all left (R295, R339): its source and its place at the receiver, the cycle in which its first line leaves,
its lines and how many have left, and whether the receiver has taken all of them. -/
structure XOut where
  src   : Word
  off   : Nat
  dest  : Nat
  first : Nat
  lines : Nat
  next  : Nat
  good  : Bool
  deriving DecidableEq, Repr, Inhabited

/-- An armed exchange phase (R294, R295, R303): the entries not yet sent, `zero`, the domain cycle of phase cycle 0 once
known, an XSEND that waits for its slot (`pending`), the send under way (`out`) and the cycle in which its last line leaves
(`leaving`), the last reserved phase cycle, and whether it has passed (`passed`). -/
structure XPhase where
  line    : Nat
  entries : List XEntry
  ctr     : Nat
  areaOff : Nat
  areaLen : Nat
  zero    : Option Nat
  pending : Option (Word × Nat)
  leaving : Option Nat
  out     : Option XOut
  lastCycle : Nat
  passed  : Bool
  deriving DecidableEq, Repr, Inhabited

/-- Where a load leaves its value. -/
inductive LoadDst where
  | sx (d : Reg) (bits : Nat)
  | zx (d : Reg)
  | vec (d : Reg)
  deriving DecidableEq, Repr, Inhabited

/-- The whole state of a task (R30, R31, R172, R383). `gang` is TSTAT.GANG, `gangDone` says that the task has
completed the gang's current instruction (R42); `begun` that its first instruction has issued (R172); `arrived` holds
notices of pages that came while the task was saved (R385); `area` is its context area, a package and an address (R383); `drainFrom` is the cycle of its grant, or the time of its
trap or the end of its turn. Of the matrix engine's queue, `mlocal` and `mremote` say that a local issue and a remote command have been
refused, `mnext` that a local one comes next where both wait, `malt` that an admission has settled so, and `mlast` is the cycle and sender of the last remote command (R282); `xlast` is that
of the last write from outside into the scratchpad (R305, R326), and `wlast` the cycle in which the windows last admitted a peer (R326). -/
structure Task where
  st       : TaskSt := .none
  launch   : Nat := 0
  handle   : Word := 0
  index    : Nat := 0
  determinate : Bool := false
  termdetect  : Bool := false
  pc       : Word := 0
  x        : Vector Word 32 := Vector.replicate 32 0
  xs       : Vector Word 8 := Vector.replicate 8 0
  handling : Handling := .none
  v        : Vector Vec 32 := Vector.replicate 32 0
  k        : Vector Word 8 := Vector.replicate 8 0
  q        : Vector Vec 8 := Vector.replicate 8 0
  c        : Vector (BitVec 32) 16 := Vector.replicate 16 0
  sh       : Vector ShapeRec 16 := Vector.replicate 16 {}
  mg       : Vector Word 16 := Vector.replicate 16 0
  fstat    : BitVec 5 := 0
  gang     : Nat := 0
  gangDone : Bool := false
  fusing   : Nat := 0
  termdone : Bool := false
  rngwrap  : Bool := false
  cycle    : Word := 0
  tile     : Word := 0
  upmask   : Word := 0
  upvec    : Word := 0
  uivec    : Word := 0
  upepc    : Word := 0
  upcause  : Word := 0
  upaddr   : Word := 0
  upinfo   : Word := 0
  uiepc    : Word := 0
  uictr    : BitVec 16 := 0
  rep      : RepBuf := {}
  inBody   : Bool := false
  rngc     : Vector Word 8 := Vector.replicate 8 0
  win      : Vector Word 4 := Vector.replicate 4 0
  notices  : List Word := []
  arrived  : List Word := []
  requests : List Nat := []
  dta      : Vector (BitVec 19) 256
  dtb      : Vector (BitVec 19) 256
  scratch  : Map Byte := []
  scratchBad : List Nat := []
  accBad   : List Nat := []
  slots    : Vector Slot 8 := Vector.replicate 8 {}
  acc      : Map (BitVec 32) := []
  accStamp : Map PhaseStamp := []
  caps     : Vector Cap 8 := Vector.replicate 8 {}
  mseq     : Nat := 0
  mlocal   : Bool := false
  mremote  : Bool := false
  mnext    : Bool := false
  malt     : Bool := false
  mlast    : Option (Nat × Nat) := none
  steps    : List MStep := []
  guests   : List Guest := []
  batches  : Nat := 0
  commits  : List (Nat × Nat) := []
  cseq     : Nat := 0
  copies   : List Copy := []
  replay   : List Parked := []
  held     : List Cause := []
  asyncs   : List Cause := []
  wait     : Wait := .none
  lease    : Option (Line × Nat) := none
  xphase   : Option XPhase := none
  xlast    : Option (Nat × Nat) := none
  wlast    : Option Nat := none
  dphase   : Nat := 0
  sent     : Bool := false
  ran      : Nat := 0
  slice    : Nat := 0
  draining : Option TaskSt := none
  drainFrom : Nat := 0
  trap     : Option TrapRecord := none
  area     : Option (Nat × Nat) := none
  reported : Bool := false
  begun    : Bool := false
  deriving DecidableEq, Repr

/-! ## A core -/

/-- The three kinds of core (R179). -/
inductive CoreKind where
  | compute | quarry | supervisor
  deriving DecidableEq, Repr, Inhabited

/-- Where a core lies (R3, R179): `unit` is 0 to 3 for a compute die, 4 to 11 for an HBM4E stack, 12 for the
abutment die; `bench` is the physical bench of a compute core on its die, `row` and `col` as PHYSCOORD. -/
structure CorePlace where
  pkg   : Nat := 0
  unit  : Nat := 0
  bench : Nat := 0
  row   : Nat := 0
  col   : Nat := 0
  deriving DecidableEq, Repr, Inhabited

/-- A line of the L1 data cache (R314): its virtual tag VA[47:6] and ASID, the size of the leaf through which it is cached (R363),
the physical line, its bytes, the cycle of its fill and its sticky mark (R317). `priv` marks a line of a PRIVATE page (R315), and `bad` one
that holds an error that cannot be corrected (R412). -/
structure L1Line where
  tag    : Nat
  asid   : Nat
  size   : Nat
  line   : Line
  bytes  : List Byte
  filled : Nat
  sticky : Bool
  priv   : Bool
  bad    : Bool := false
  deriving DecidableEq, Repr, Inhabited

/-- A line of the instruction cache; `bad` says that it holds an error that cannot be corrected (R412). -/
structure ILine where
  tag   : Nat
  asid  : Nat
  bytes : List Byte
  bad   : Bool := false
  deriving DecidableEq, Repr, Inhabited

/-- A push record of a quarry core (R289): the task that issued it, the consumers that hold it (`mask`) and those whose
bytes have not landed (`todo`), and the cycle from which a consumer's refused write is tried again (`retry`). -/
structure Push where
  launch : Nat
  index  : Nat
  tag    : Nat
  bench  : Nat
  mask   : Nat
  todo   : Nat
  toScratch : Bool
  slot   : Nat
  offset : Nat
  span   : Nat
  ctr    : Nat
  int    : Bool
  shape  : ShapeRec
  origin : List Word
  extent : List Word
  data   : Option (List Byte)
  waiting : Option Nat
  retry   : Map Nat
  deriving DecidableEq, Repr, Inhabited

/-- A logical core: the task bound to it, the tasks pre-empted on it (most recent first, R390), and what
belongs to the core rather than to a task. A quarry core adds its push records, a supervisor core its own
registers (R179). `moved` lists its reductions that a moving page has turned away (R208). `freed` is the cycle in which the core's last task ended or left it (R37, R389). `vacated` says that the last task to leave it was pre-empted for a launch of a higher level (R390). `turn` orders the turns of cores that share a physical core (R391). A quarry core's wait table (R81) is the set of wait records that name a key whose home it is. -/
structure Core where
  id     : CoreId
  kind   : CoreKind
  place  : CorePlace := {}
  task   : Task
  saved  : List Task := []
  l1     : Map (List L1Line) := []
  icache : List ILine := []
  pushes : List Push := []
  asid   : Word := 0
  ptbase : Word := 0
  moved  : List MovedOp := []
  freed  : Nat := 0
  vacated : Bool := false
  turn   : Nat := 0
  deriving DecidableEq, Repr

/-! ## Lines, tokens and messages -/

/-- Tokens of a line at one holder (R347, R348, R399): how many, whether the owner token is among them, whether valid data
has come with them, and the holder's stamp. -/
structure Tokens where
  holder : Holder
  count  : Nat
  owner  : Bool
  data   : Bool
  stamp  : Option PhaseStamp
  deriving DecidableEq, Repr, Inhabited

/-- What waits at a line's home: an access that its core issues anew, a store (R332), or a reduction of `z` bytes (R206). -/
inductive HomeOp where
  | access
  | store (d : StoreData)
  | reduce (op : AmoOp) (z b : Nat)
  deriving DecidableEq, Repr, Inhabited

/-- A request that waits at a line's home behind a pin, a lease or earlier requests, or for the line's tokens (R115, R188, R206, R323, R332,
R348). `home` is where it waits, `size` the size of the leaf that translated it (R180), `came` the cycle of its arrival, and `behind` says
that an engine had the line pinned there then (R188, R339). `strong` tells of a strong store or a reduction (R222), and `lane` is the
lane of a scatter (R199). -/
structure HomeReq where
  who    : CoreId
  home   : Holder
  offset : Nat
  ptr    : Word
  size   : Nat
  op     : HomeOp
  hint   : Hint
  came   : Nat
  behind : Bool
  strong : Bool := false
  lane   : Nat := 0
  deriving DecidableEq, Repr, Inhabited

/-- Who pins a destination line (R188, R318): a copy of a core, by its number. -/
structure Pin where
  who : CoreId
  seq : Nat
  deriving DecidableEq, Repr, Inhabited

/-- What the domain keeps for a line of physical memory: its tokens at the memory home and at other holders (R347), the dirty
flag of the owner token, generation and poison bit, pins with the holder at which each stands, lease, waiting accesses, and the memory home's stamp. `active` is the
holder for which a persistent request is active and `told` lists the holders that ACTIVE has reached (R352). Of a recreation
(R355), `collecting` lists the holders that have not answered, `ownerBack` says that the owner token was returned, and
`lostClean` that the loss logs show it lost clean. `wants` lists the cores whose engines wait at a holder for the line (R350, R352). -/
structure LineState where
  homeCount : Nat := 16
  homeOwner : Bool := true
  others  : List Tokens := []
  dirty   : Bool := false
  gen     : Nat := 0
  poison  : Bool := false
  pins    : List (Pin × Holder) := []
  lease   : Option CoreId := none
  queue   : List HomeReq := []
  stamp   : Option PhaseStamp := none
  active  : Option Holder := none
  told    : List Holder := []
  collecting : Option (List Holder) := none
  lostClean  : Bool := false
  ownerBack  : Bool := false
  wants   : List (CoreId × Holder) := []
  deriving DecidableEq, Repr, Inhabited

/-- Messages in flight. Their order is not fixed (R324): a happening names the one that arrives. -/
inductive Msg where
  /-- a causality release on its way to the member's home (R86) -/
  | release (who : CoreId) (key : KeyId) (t : Nat)
  /-- an MCMD that its target has not yet answered (R281) -/
  | mcmd (sender target : CoreId) (cap : Nat) (kind : Nat) (operand : Nat)
  /-- an exchange line (R296), how many lines of its send follow it, and whether the receiver has taken all before it -/
  | xline (sender target : CoreId) (off : Nat) (bytes : List Byte) (left : Nat) (good : Bool)
  /-- a space-2 access that waits at its owner (R313); `acq` says that it is a strong load -/
  | remote (sender : CoreId) (owner : Nat) (ptr : Word) (size : Nat) (store : Option (List Byte)) (dst : LoadDst) (acq : Bool)
  /-- a span arrival message on its way to the parent line (R216) -/
  | spanArrive (childBench : BenchId) (childLine : Nat) (parentBench : BenchId) (parentLine : Nat) (pkgs : List Nat)
  /-- a span fire message to a line of a launch, with the domain cycle of the root's firing (R216, R297) -/
  | spanFire (bench : BenchId) (line : Nat) (launch : Option Nat) (cycle : Nat) (lead : Nat)
  /-- heartbeats and their acknowledgements (R60); dies by rank (R58) -/
  | heartbeat (launch src dst : Nat) (heard : List Nat)
  | heartbeatAck (launch src dst : Nat)
  /-- the start of a launch across packages (R400) -/
  | start (launch pkg : Nat)
  | startAnswer (launch pkg : Nat)
  /-- transient requests and token transfers (R349) -/
  | transient (l : Line) (pkg die : Nat) (write : Bool) (target : Holder)
  | tokens (l : Line) (src target : Holder) (count : Nat) (owner dirty data : Bool) (gen : Nat) (stamp : Option PhaseStamp)
  /-- persistent requests and the arbiter's messages (R352) -/
  | persistent (l : Line) (pkg die : Nat)
  | active (l : Line) (pkg die : Nat) (target : Holder)
  | done (l : Line) (pkg die : Nat)
  | inactive (l : Line) (target : Holder)
  /-- loss logs and recreation (R354, R355) -/
  | lossLog (l : Line) (gen count : Nat) (owner dirty : Bool)
  | collect (l : Line) (gen : Nat) (target : Holder)
  deriving DecidableEq, Repr

/-- An attempt of a die to gather a line's tokens (R350). -/
structure Attempt where
  pkg   : Nat
  die   : Nat
  line  : Line
  write : Bool
  since : Nat
  fails : Nat
  persistent : Bool
  retryAt : Option Nat
  deriving DecidableEq, Repr, Inhabited

/-- A persistent request in an arbiter's queue, with the cycle of its arrival (R352). -/
structure PersReq where
  pkg  : Nat
  die  : Nat
  line : Line
  came : Nat
  active : Bool
  deriving DecidableEq, Repr, Inhabited

/-- A line of an L2 set: physical line and sticky mark (R316, R317). -/
structure L2Way where
  line   : Line
  sticky : Bool
  deriving DecidableEq, Repr, Inhabited

/-! ## Translation -/

/-- The page kinds of R359. -/
inductive PageKind where
  | priv | readonly | shared | nearmem | strata | readdup
  deriving DecidableEq, Repr, Inhabited

/-- A leaf of the page tables as a TLB holds it (R361). -/
structure Leaf where
  kind : PageKind
  tier : Bool
  x    : Bool
  w    : Bool
  pkg  : Nat
  addr : Nat
  size : Nat
  deriving DecidableEq, Repr, Inhabited

/-- A TLB entry (R361); `bad` says that it holds an error that cannot be corrected (R412). -/
structure TlbEntry where
  asid : Nat
  va   : Nat
  leaf : Leaf
  bad  : Bool := false
  deriving DecidableEq, Repr, Inhabited

/-! ## Benches -/

/-- The kinds of an event line (R212). -/
inductive LineKind where
  | off | event | barrier | mutex | span
  deriving DecidableEq, Repr, Inhabited

/-- An event line (R212): the fields of LINECFG and the state it holds. `held` is the launch that holds the
line; `next` counts arrivals of the next round and `later` lists its waiting loads (R216); `counted` lists the
child lines whose messages the round has counted, `pkgs` the packages that they lie in. Of the waiting loads, the last `together` arrived
in cycle `came` (R27). -/
structure EvLine where
  kind     : LineKind := .off
  parentB  : Nat := 0
  parentL  : Nat := 0
  root     : Bool := false
  children : Nat := 0
  arrivals : Nat := 0
  pending  : Bool := false
  count    : Nat := 0
  next     : Nat := 0
  childCount : Nat := 0
  counted  : List (BenchId × Nat) := []
  complete : Bool := false
  round    : BitVec 32 := 0
  holder   : Option Nat := none
  waiters  : List Nat := []
  came     : Nat := 0
  together : Nat := 0
  later    : List Nat := []
  pkgs     : List Nat := []
  held     : Option Nat := none
  deriving DecidableEq, Repr, Inhabited

/-- The states of a chisel context (R293). -/
inductive ChState where
  | queued | running | parked
  deriving DecidableEq, Repr, Inhabited

/-- A chisel context (R291): its task, the command record as it was copied in (`cmd`), and where it was read; the next element or block of
its command, and the flags raised so far (R293). -/
structure ChCtx where
  who    : CoreId
  launch : Nat
  index  : Nat
  st     : ChState
  cmd    : Vector Word 8
  at_    : Word
  ctr    : Nat
  int    : Bool
  page   : Option Nat
  step   : Nat := 0
  flags  : BitVec 5 := 0
  deriving DecidableEq, Repr

/-- A logical bench: event lines and chisel contexts (R4, R291), and the context that the chisel served last (R293). -/
structure Bench where
  lines  : Vector EvLine 32 := Vector.replicate 32 {}
  chisel : Vector (Option ChCtx) 16 := Vector.replicate 16 none
  served : Nat := 15
  sublast  : Option (Nat × Nat) := none
  steplast : Option (Nat × Nat) := none
  deriving DecidableEq, Repr

/-! ## Regions and strata keys -/

/-- The element formats of a strata region (R66). -/
inductive StrataFmt where
  | f32 | bf16 | f16 | s32
  deriving DecidableEq, Repr, Inhabited

/-- How a value between two states is formed (R66). -/
inductive StrataMode where
  | linear | hold | nearest
  deriving DecidableEq, Repr, Inhabited

/-- STATE of R70. -/
inductive KeySt where
  | open_ | closed | retiring
  deriving DecidableEq, Repr, Inhabited

/-- OWNER and WRITER of R70. -/
inductive KeyOwner where
  | none
  | core (lid : Nat)
  | stream (port stream : Nat)
  deriving DecidableEq, Repr, Inhabited

/-- A key slot (R69, R70): record i is a time and a payload. -/
structure Key where
  st     : KeySt := .open_
  owner  : KeyOwner := .none
  count  : Nat := 0
  newest : Nat := 0
  recs   : Map (Nat × Vec) := []
  stamp  : Option PhaseStamp := none
  deriving DecidableEq, Repr, Inhabited

/-- A region (R66, R67, R142). `home` is the quarry core of its strata keys, and `homes` those of its 64 KiB pages that have
been migrated (R72, R320, R365). -/
structure Region where
  tenant : Nat
  kind   : PageKind
  base   : Nat
  size   : Nat
  page   : Nat
  tier   : Nat
  format : StrataFmt
  payload : Nat
  retain : Nat
  mode   : StrataMode
  extrap : Nat
  reach  : Nat
  nkeys  : Nat
  home   : CoreId
  homes  : Map CoreId
  keys   : Map Key
  released : Bool
  deriving DecidableEq, Repr

/-! ## Launches, graphs, phases and jobs -/

/-- The states of a launch (R57). -/
inductive LaunchSt where
  | defined | armed | queued | running | draining | ended
  deriving DecidableEq, Repr, Inhabited

/-- What a dispatcher knows of one die serving a launch (R58, R60), by rank: when it last sent heartbeats, and of every
other die the cycle of the last heartbeat received (`heard`), of that or an appearance in a heard set (`seen`), and of
the last acknowledgement (`acked`). -/
structure DieView where
  rank   : Nat
  fenced : Bool
  failed : Bool
  beat   : Nat
  heard  : Map Nat
  seen   : Map Nat
  acked  : Map Nat
  deriving DecidableEq, Repr, Inhabited

/-- A granted index: its logical core, the die's rank, and whether its task is reported complete (R59). -/
structure GrantRec where
  index : Nat
  lid   : Nat
  rank  : Nat
  done  : Bool
  lost  : Bool
  deriving DecidableEq, Repr, Inhabited

/-- The termination token of a launch (R65): the core that holds it and its mark; `round` is set once the
initiator has started a round and stayed in TERMWAIT. -/
structure TermToken where
  at_    : Nat
  marked : Bool
  inRound : Bool
  stayed : Bool
  deriving DecidableEq, Repr, Inhabited

/-- A launch (R51, R57, R58 to R62). `status` is the highest mark so far; `order` its entry into its level's queue
(R387); `taken` says that a dispatcher has taken it (R147, R400); `pending` lists grants that the deputy has not acknowledged (R59); `stopped` says that no further index is granted
(R45, R61); `sentBy` the cores whose ended tasks left
their sent bit set (R63). -/
structure Launch where
  tenant : Nat
  graph  : Nat
  st     : LaunchSt
  status : Nat
  counter : Nat
  entry  : Word
  gx     : Nat
  gy     : Nat
  gz     : Nat
  noreissue : Bool
  determinate : Bool
  termdetect : Bool
  prio   : Nat
  f      : Nat
  n      : Nat
  paramOff : Nat
  stackBase : Word
  stackSize : Nat
  upvec  : Word
  uivec  : Word
  regions : List Nat
  lines  : List (Nat × LineKind × Nat)
  bindings : List Word
  preds  : List Nat
  level  : Nat
  since  : Nat
  order  : Nat
  nextIdx : Nat
  lostIdx : List Nat
  grants : List GrantRec
  pending : List (Nat × Nat)
  stopped : Bool
  dies   : List DieView
  keystone : Option Nat
  deputy : Option Nat
  taken  : Bool
  waitingPkgs : List Nat
  startedAt : Nat
  sentBy : List Nat
  token  : Option TermToken
  finished : Bool
  deriving DecidableEq, Repr

/-- A kick that waits or runs (R54, R55): its number, the phase it was accepted for, and its patches. -/
structure Kick where
  seq     : Nat
  phase   : Nat
  patches : List (Nat × Word)
  deriving DecidableEq, Repr, Inhabited

/-- A graph (R50, R56): its launches, its parameter area, the kicks that wait, the replay that runs, and how many kicks
it has accepted. -/
structure Graph where
  tenant : Nat
  job    : Nat
  nodes  : List Nat
  area   : Nat
  areaSize : Nat
  kicks  : List Kick
  running : Option Kick
  accepted : Nat
  counter : Nat
  status : Nat
  cancelled : Bool
  last   : Option (Nat × Nat) := none
  deriving DecidableEq, Repr

/-- A phase (R49): `pending` counts the replays accepted for it that have not ended. -/
structure Phase where
  tenant : Nat
  job    : Nat
  graphs : List Nat
  closed : Bool
  cancelled : Bool
  started : Bool
  ended  : Bool
  pending : Nat
  counter : Nat
  status : Nat
  deriving DecidableEq, Repr

/-- A job (R49). -/
structure Job where
  tenant : Nat
  phases : List Nat
  closed : Bool
  cancelled : Bool
  ended  : Bool
  counter : Nat
  status : Nat
  deriving DecidableEq, Repr

/-! ## Ports, packages, tenants, clients -/

/-- A port: its classifier rules and counters (R402, R403). -/
structure Port where
  rules  : Map Rule := []
  errors : Nat := 0
  last   : Stamp := { s := 0, n := 0, f := 0 }
  deriving DecidableEq, Repr, Inhabited

/-- An ingress stream (R403, R405, R406): its tenant, its queue's address, size and slot size, the count of bytes that ingress has
written (`tail`), its drop counter, the flag for the next record, and whether its queue has stopped; and its strata binding with
its counter of raised frames (R90, R91). -/
structure Stream where
  tenant : Nat := 0
  ring   : Nat := 0
  size   : Nat := 0
  slot   : Nat := 0
  tail   : Nat := 0
  drops  : Nat := 0
  dropped : Bool := false
  stopped : Bool := false
  key    : Option (KeyId × Binding) := none
  raised : Nat := 0
  exhausted : Bool := false
  deriving DecidableEq, Repr, Inhabited

/-- The notifications a supervisor core waits for (R182). -/
inductive Notif where
  | trap (who : CoreId)
  | client (conn : Nat)
  | health
  | message
  | page (who : CoreId) (page : Nat)
  deriving DecidableEq, Repr, Inhabited

/-- A health record (R414). -/
structure HealthRec where
  maxTemp : Int
  droops  : Nat
  k       : Nat
  power   : Nat
  corrected : Nat
  deriving DecidableEq, Repr, Inhabited

/-- Images loaded into the standby half (R410, R411): the image, the time of the request, the connection that it came from, and whether the
half has reported ready. -/
structure Standby where
  img   : Image
  since : Nat
  conn  : Nat
  ready : Bool := false
  deriving DecidableEq, Repr, Inhabited

/-- What waits for the service of a package during a switchover (R411): a core's KICK, CANCEL or WAITL, a core's trap, or a request for a
page. -/
inductive Waiter where
  | call (who : CoreId)
  | trap (who : CoreId)
  | page (who : CoreId) (page : Nat)
  deriving DecidableEq, Repr, Inhabited

/-- A package: boot (R408), measurement registers and security versions (R409), the version of the firmware ABI in use (R410, R416), the
halves of its supervisor cores (R411), the version of each of its external viaduct links by port (R416, R417), the supply voltages of its compute dies and
the last readings of their process monitors (R414), and what its supervisor has latched (R182). `asidTable` is the address of its ASID root table,
which BOOT sets (R357). Of its health (R414): the greatest temperature of the last poll, whether every sensor was below 100 °C, droop events and
the time of the last, module power, the times of the last poll and record, the rises of k that are owed, the errors corrected since boot
(R412), and the records. `paused` is the time at which the active half stopped for a switchover, and `held` lists what
waits for the service since then (R411). `ptp` is what the package's IEEE 1588 clock reads beyond the domain's time, in units of 2^−16 ns (R404). -/
structure Package where
  up      : Bool := false
  haltStep : Nat := 0
  stopped : Bool := false
  measures : Vector (BitVec 384) 8 := Vector.replicate 8 0
  versions : List Nat := []
  abi     : Nat × Nat := (1, 0)
  active  : Nat := 0
  standby : Option Standby := none
  links   : Map (Nat × Nat) := []
  supply  : List Nat := []
  process : List (List Nat) := []
  maxTemp : Int := 0
  cool    : Bool := true
  droops  : Nat := 0
  lastDroop : Option Nat := none
  power   : Nat := 0
  polled  : Option Nat := none
  recorded : Option Nat := none
  rises   : Nat := 0
  records : List HealthRec := []
  asidTable : Nat := 0
  notifs  : List Notif := []
  corrected : Nat := 0
  paused  : Option Nat := none
  held    : List Waiter := []
  ptp     : Nat := 0
  deriving DecidableEq, Repr

/-- A tenant, as the supervisor has set it up. -/
abbrev Tenant := Sys2Proof.Tenancy

/-- An answer of the resident service to a client request (R407). `waiting` is a WAIT that has not been answered, with the
number of kicks that a graph had accepted. -/
inductive Answer where
  | version (major minor : Nat)
  | handle (h : Word)
  | refused
  | result (code : Nat)
  | word (w : Word)
  | attested (regs : List (BitVec 384)) (versions : List Nat) (nonce signature : List Byte)
  | updated (ok : Bool)
  | done
  | waiting (h : Word) (n : Nat)
  deriving DecidableEq, Repr

/-- A client connection (R407, R416): its tenant, and the package whose service it has reached. -/
structure Client where
  tenant  : Nat := 0
  pkg     : Nat := 0
  version : Option (Nat × Nat) := none
  answers : List Answer := []
  deriving DecidableEq, Repr

/-! ## The state -/

/-- The state of the domain. `core` is the core whose instruction is being performed, `others` every other logical core, quarry core
and supervisor core. `agenda` is the schedule: what comes next, as plain data. `now` is the domain cycle count (R297), `time` the
time that has passed, in the unit of `micros`, and `k` the throttle step with the time of its last change (R413). `locals` lists the quarry-local frames (R320): the key of the first
byte, the size, and the quarry number. `homed` tells, for each quarry core that is the home of strata keys, the cycle of the last event performed
there and its logical core id (R72). `moving` lists the frames of the pages that migrate, by package, first byte and size (R365). -/
structure State where
  core    : Core
  others  : Map Core
  agenda  : List Move
  moves   : Nat
  now     : Nat
  time    : Nat
  k       : Nat
  stepped : Nat
  mem     : List Host.Cell
  lines   : Map LineState
  l2      : Map (List L2Way)
  net     : List Msg
  attempts : List Attempt
  arbiters : Map (List PersReq)
  tlbs    : Map (List TlbEntry)
  benches : Map Bench
  regions : Map Region
  launches : Map Launch
  graphs  : Map Graph
  phases  : Map Phase
  jobs    : Map Job
  ports   : Map Port
  streams : Map Stream
  pkgs    : Map Package
  tenants : Map Tenant
  clients : Map Client
  traps   : List CoreId
  moving  : List (Nat × Nat × Nat)
  locals  : List (Nat × Nat × Nat)
  homed   : Map (Nat × Nat)
  failed  : List Nat
  downLinks : List Nat
  serial  : Nat
  deriving DecidableEq, Repr

/-! ## Why a step stops -/

/-- Why the machine stops. -/
inductive Fault where
  /-- Raised by `step` once boot has failed or the module has shut down (R408, R414): the package halts, and
  the manual gives no further step. Safe: the hardware does nothing more either. -/
  | halted
  deriving DecidableEq, Repr, Inhabited

/-- Why a move has no meaning. -/
inductive Refusal where
  /-- Raised by `exec` for a row that has no meaning in the model. Safe. -/
  | notModelled (mnemonic : String)
  deriving DecidableEq, Repr, Inhabited

/-! ## Reset -/

/-- The H19 pattern of an integer of magnitude at most 256 (R230): used for the `int8` decode table. -/
def h19OfNat (n : Nat) : Nat :=
  if n = 0 then 0 else
    let e := n.log2
    (127 + e) * 1024 + (n * 1024 / 2 ^ e - 1024)

/-- The `int8` contents of a decode table (R176, R234): code c holds c as an S8 value. -/
def int8Table : Vector (BitVec 19) 256 :=
  Vector.ofFn fun i =>
    if i.val < 128 then BitVec.ofNat 19 (h19OfNat i.val)
    else BitVec.ofNat 19 (2 ^ 18 + h19OfNat (256 - i.val))

/-- A task's state where binding has set nothing (R31): empty, with the `int8` decode tables of R234. -/
def Task.empty : Task := { dta := int8Table, dtb := int8Table }

/-- A compute core with no task. -/
def Core.idle (id : CoreId) (kind : CoreKind) : Core := { id := id, kind := kind, task := Task.empty }

/-- The domain right after reset: no task bound, memory with nothing listed, every token at its memory home,
no tenant, no client, every package before boot (R31, R347, R408). -/
def State.reset : State where
  core := { Core.idle { tenant := 0, lid := 0 } .supervisor with place := { unit := 12 } }
  others := []
  agenda := []
  moves := 0
  now := 0
  time := 0
  k := 0
  stepped := 0
  mem := []
  lines := []
  l2 := []
  net := []
  attempts := []
  arbiters := []
  tlbs := []
  benches := []
  regions := []
  launches := []
  graphs := []
  phases := []
  jobs := []
  ports := []
  streams := []
  pkgs := []
  tenants := []
  clients := []
  traps := []
  moving := []
  locals := []
  homed := []
  failed := []
  downLinks := []
  serial := 1

end Sys2Proof.Machine
end

