-- ==== Sys2Proof/Machine/Ops.lean ====
section
/-!
DEFINITION. The named operations over registers, the program counter, gangs and cores, and the delivery of
causes: taking an upcall, a trap or an interrupt, and returning from one (R372 to R381).
-/
namespace Sys2Proof.Machine

/-- What a meaning answers. -/
abbrev Out := Host.Outcome State Fault Refusal

/-- The answer of an access or check: a value, a cause, or a wait after which the instruction issues anew. -/
inductive Try (α : Type) where
  | ok (a : α)
  | cause (c : Cause)
  | wait (w : Wait)
  deriving Repr

/-- The first answer, and on a value the next one. -/
def Try.bind (r : Try α) (f : α → Try β) : Try β :=
  match r with
  | .ok a => f a
  | .cause c => .cause c
  | .wait w => .wait w

/-! ## Cores and tasks -/

/-- The key of a core in `State.others`: a number for each pair, rising with the logical core id within a tenant. -/
def coreKey (c : CoreId) : Nat :=
  if c.tenant < c.lid then c.lid * c.lid + c.tenant else c.tenant * c.tenant + c.tenant + c.lid

/-- The task of the current core. -/
def State.task (s : State) : Task := s.core.task

/-- Another logical core of the same physical core (R38). -/
def samePlace (a b : Core) : Bool :=
  a.id != b.id && a.kind == b.kind && a.place == b.place

/-- The state with another task on the current core. -/
def State.withTask (s : State) (t : Task) : State := { s with core := { s.core with task := t } }

/-- The current task changed by `f`. -/
def State.modTask (s : State) (f : Task → Task) : State := s.withTask (f s.task)

/-- A core of the domain. -/
def State.findCore (s : State) (c : CoreId) : Option Core :=
  if s.core.id = c then some s.core else mapFind (coreKey c) s.others

/-- The state with core `c` current. A core the domain does not hold changes nothing. -/
def switchTo (c : CoreId) (s : State) : State :=
  if s.core.id = c then s else
  match mapFind (coreKey c) s.others with
  | none => s
  | some k => { s with core := k, others := mapPut (coreKey s.core.id) s.core (mapErase (coreKey c) s.others) }

/-- `f` done on core `c`, after which the current core is current again. -/
def onCore (c : CoreId) (f : State → State) (s : State) : State :=
  if s.core.id = c then f s else
  match mapFind (coreKey c) s.others with
  | none => s
  | some _ => switchTo s.core.id (f (switchTo c s))

/-- A task of core `c` changed, wherever the core is. -/
def modTaskOf (c : CoreId) (f : Task → Task) (s : State) : State := onCore c (fun s => s.modTask f) s

/-- Every core of the domain: the current one first. -/
def State.cores (s : State) : List Core := s.core :: s.others.map (·.2)

/-- `f` done on each listed core in turn. -/
def onCores (f : State → State) : List CoreId → State → State
  | [], s => s
  | c :: cs, s => onCores f cs (onCore c f s)

/-- The current core is free from now on for another task (R37, R389). -/
def freeCore (s : State) : State := { s with core := { s.core with freed := s.now } }

/-- Is the current core a compute core? -/
def State.isCompute (s : State) : Bool := s.core.kind == .compute

/-! ## Registers (R130) -/

/-- A scalar register: x0 reads as 0, a repetition body reads what REP captured (R113), and a handler's x24 to
x31 name the shadow bank (R376). -/
def Task.rx (t : Task) (r : Reg) : Word :=
  if r = 0 then 0
  else if t.inBody then t.rep.captured[r]
  else if h : t.handling ≠ .none ∧ 24 ≤ r.val then t.xs[r.val - 24]
  else t.x[r]

/-- The current instruction names the shadow bank: that of a handler, or a body word that a handler's REP captured (R271, R376). -/
def Task.shadowed (t : Task) : Bool := if t.inBody then t.rep.shadow else t.handling != .none

/-- A scalar register written: x0 discards it, and a handler's x24 to x31 name the shadow bank (R376). -/
def Task.wx (t : Task) (r : Reg) (v : Word) : Task :=
  if r = 0 then t
  else if h : t.shadowed = true ∧ 24 ≤ r.val then { t with xs := t.xs.set (r.val - 24) v }
  else { t with x := t.x.set r.val v }

/-- A mask register; k0 names all lanes (R130, R259). -/
def Task.rk (t : Task) (k : KReg) : Word := if k = 0 then BitVec.allOnes 64 else t.k[k]

/-- A mask register written; k0 is not writable (R130). -/
def Task.wk (t : Task) (k : KReg) (v : Word) : Task := if k = 0 then t else { t with k := t.k.set k.val v }

/-- A vector register written. -/
def Task.wv (t : Task) (r : Reg) (v : Vec) : Task := { t with v := t.v.set r.val v }

/-- Flags ORed into FSTAT (R246). -/
def Task.orFlags (t : Task) (f : Flags) : Task := { t with fstat := t.fstat ||| f }

/-- A scalar register of the current core. -/
def State.rx (s : State) (r : Reg) : Word := s.task.rx r

/-- A scalar register of the current core written. -/
def State.wx (s : State) (r : Reg) (v : Word) : State := s.withTask (s.task.wx r v)

/-- A vector register of the current core. -/
def State.rv (s : State) (r : Reg) : Vec := s.task.v[r]

/-- A vector register of the current core written. -/
def State.wv (s : State) (r : Reg) (v : Vec) : State := s.withTask (s.task.wv r v)

/-- The register `n` places after `r`, modulo 32. -/
def regPlus (r : Reg) (n : Nat) : Reg := Fin.ofNat 32 (r.val + n)

/-! ## The logical grid (R35, R212) -/

/-- A physical bench lies in a rectangle of its package (R3, R393). -/
def Place.inRect (p : Place) (r : Rect) : Bool :=
  let c := p.die % 2 * 16 + p.bench % 16
  let w := p.die / 2 * 16 + p.bench / 16
  decide (p.die < 4) && decide (p.bench < 256) && decide (r.col ≤ c) && decide (c < r.col + r.cols) && decide (r.row ≤ w)
    && decide (w < r.row + r.rows)

/-- A tenant's record. -/
def State.tenant (s : State) (t : Nat) : Tenant := mapGet default s.tenants t

/-- The width of the current core's tenant's logical grid. -/
def State.wl (s : State) : Nat := (s.tenant s.core.id.tenant).wl

/-- The position of a logical core within its logical bench (R35). -/
def benchPos (wl lid : Nat) : Nat := lid / wl % 4 * 2 + lid % wl % 2

/-- The logical bench of a logical core (R212). -/
def benchOf (wl lid : Nat) : Nat := lid / wl / 4 * (wl / 2) + lid % wl / 2

/-- The position at which a logical core sits in its bench's physical bench: its own, or that of the core that it shares (R35, R38). -/
def Tenancy.seat (t : Tenant) (lid : Nat) : Nat := (mapFind lid t.seats).getD (benchPos t.wl lid)

/-- The logical core at a position of a logical bench. -/
def lidAt (wl bench pos : Nat) : Nat :=
  (bench / (wl / 2) * 4 + pos / 2) * wl + bench % (wl / 2) * 2 + pos % 2

/-- The logical bench of the current core. -/
def State.bench (s : State) : BenchId :=
  { tenant := s.core.id.tenant, bench := benchOf s.wl s.core.id.lid }

/-! ## Gangs (R39 to R43) -/

/-- The cores of the aligned group of `g` positions that holds the current core (R39). -/
def State.group (s : State) (g : Nat) : List CoreId :=
  let wl := s.wl
  let p0 := benchPos wl s.core.id.lid / g * g
  (List.range g).map fun i => { tenant := s.core.id.tenant, lid := lidAt wl s.bench.bench (p0 + i) }

/-- The members of the current core's gang. -/
def State.gangMembers (s : State) : List CoreId :=
  if s.task.gang = 0 then [] else s.group (2 ^ s.task.gang)

/-- A task of a launch that is in a gang. -/
def Task.inGang (launch : Nat) (t : Task) : Bool := t.gang != 0 && t.launch == launch

/-- A member's task has completed the gang's current instruction, or has left the gang. It may be saved. -/
def State.memberDone (s : State) (c : CoreId) : Bool :=
  match s.findCore c with
  | none => true
  | some k =>
    match k.saved.find? (Task.inGang s.task.launch) with
    | some t => t.gangDone
    | none => k.task.gang == 0 || k.task.gangDone

/-- The tasks of a launch on the current core that are in a gang changed. -/
def modGang (launch : Nat) (f : Task → Task) (s : State) : State :=
  let g (t : Task) : Task := if t.inGang launch then f t else t
  { s with core := { s.core with task := g s.core.task, saved := s.core.saved.map g } }

/-- A member may go on behind the gang's instruction: every member has completed it (R42). -/
def Task.goAhead (t : Task) : Task := { t with gangDone := false, rep := { t.rep with fresh := false } }

/-- The gang of the current core dissolves: every member keeps its own program counter (R42, R43). -/
def splitGang (s : State) : State :=
  if s.task.gang = 0 then s else
  onCores (modGang s.task.launch fun t => { t.goAhead with gang := 0 }) s.gangMembers s

/-- The current task has completed the gang's current instruction; once every member has, the next may issue
(R42). -/
def gangMark (s : State) : State :=
  if s.task.gang = 0 ∨ s.task.inBody = true then s else
  let s := s.modTask fun t => { t with gangDone := true }
  if s.gangMembers.all s.memberDone then
    onCores (modGang s.task.launch Task.goAhead) s.gangMembers s
  else s

/-! ## Completing an instruction -/

/-- The repetition buffer moves past the word it has issued (R113, R162). -/
def RepBuf.advance (r : RepBuf) : RepBuf :=
  if r.nextw + 1 < r.words.length then { r with nextw := r.nextw + 1 }
  else if r.rep + 1 < r.total then { r with nextw := 0, rep := r.rep + 1 }
  else { r with nextw := 0, rep := r.total, running := false }

/-- The task moves past the instruction it has completed; a body word moves the buffer, not the program
counter. -/
def Task.advance (t : Task) : Task :=
  if t.inBody then { t with rep := t.rep.advance, wait := .none }
  else { t with pc := t.pc + 4, wait := .none }

/-- The current instruction has completed, and the next one follows it. -/
def adv (s : State) : State := gangMark (s.modTask Task.advance)

/-- The current instruction has completed, and the next one is fetched from `target`. -/
def advTo (target : Word) (s : State) : State :=
  gangMark (s.modTask fun t => { t with pc := target, wait := .none })

/-- A wait in which the instruction issues anew rather than being completed by a happening. -/
def Wait.reissues : Wait → Bool
  | .none | .stall | .home _ _ _ | .queued _ _ | .idle | .exit | .level _ _ _ => true
  | _ => false

/-- The current instruction waits and issues again. -/
def waitAs (w : Wait) (s : State) : State := s.modTask fun t => { t with wait := w }

/-- A scalar result. -/
def setX (d : Reg) (v : Word) (s : State) : State := adv (s.wx d v)

/-- A vector result with its flags. -/
def setV (d : Reg) (v : Vec) (f : Flags) (s : State) : State := adv ((s.wv d v).modTask (·.orFlags f))

/-! ## Lines and leases -/

/-- The key of a line. -/
def lineKey (l : Line) : Nat := l.pkg * 2 ^ 46 + l.idx

/-- What the domain keeps for a line. -/
def State.line (s : State) (l : Line) : LineState := mapGet {} s.lines (lineKey l)

/-- A line's record changed. -/
def State.setLine (s : State) (l : Line) (v : LineState) : State :=
  { s with lines := mapSet {} s.lines (lineKey l) v }

/-- The current core's lease ends (R115, R211). -/
def endLease (s : State) : State :=
  match s.task.lease with
  | none => s
  | some (l, _) =>
    let ls := s.line l
    let s := if ls.lease = some s.core.id then s.setLine l { ls with lease := none } else s
    s.modTask fun t => { t with lease := none }

/-! ## Counters (R218, R219, R274) -/

/-- The condition of WAITC and AWAIT (R219). -/
def ctrReached (c : BitVec 32) (b : Word) : Bool := decide ((c - b.setWidth 32).toNat < 2 ^ 31)

/-- A completion raises a counter by 1, and sets its bit of UIPEND where INT was set (R274). -/
def Task.bump (ctr : Nat) (int : Bool) (t : Task) : Task :=
  let n : R16 := Fin.ofNat 16 ctr
  { t with
    c := t.c.set n.val (t.c[n] + 1)
    uictr := if int then t.uictr ||| BitVec.ofNat 16 (2 ^ n.val) else t.uictr }

/-! ## Termination detection (R63 to R65, R169) -/

/-- A launch. -/
def State.launch? (s : State) (n : Nat) : Option Launch := mapFind n s.launches

/-- A launch changed. -/
def State.modLaunch (s : State) (n : Nat) (f : Launch → Launch) : State :=
  match s.launch? n with
  | none => s
  | some l => { s with launches := mapPut n (f l) s.launches }

/-- The current core leaves TERMWAIT before the launch is found finished: an initiator has not stayed in it since it started
the round (R65). -/
def leftTerm (s : State) : State :=
  s.modLaunch s.task.launch fun l =>
    if s.core.id.lid = l.f then { l with token := l.token.map fun k => { k with stayed := false } } else l

/-- A message of termination detection reaches core `c` from a task of launch `from_`: its TERMWAIT returns 0
(R64). A message of another launch is none. -/
def arrival (from_ : Nat) (c : CoreId) (s : State) : State :=
  onCore c (fun s =>
    match s.task.wait with
    | .term d => if s.task.launch = from_ ∧ s.task.st = .running then setX d 0 (leftTerm s) else s
    | _ => s) s

/-! ## Supervisors -/

/-- A package. -/
def State.pkg (s : State) (p : Nat) : Package := mapGet {} s.pkgs p

/-- A package changed. -/
def State.modPkg (s : State) (p : Nat) (f : Package → Package) : State :=
  { s with pkgs := mapSet {} s.pkgs p (f (s.pkg p)) }

/-- The service of a package has stopped for a switchover (R411). -/
def State.paused (s : State) (p : Nat) : Bool := (s.pkg p).paused.isSome

/-- The service of the current core's package has stopped. -/
def State.pausedHere (s : State) : Bool := s.paused s.core.place.pkg

/-- What the service of a package does, which waits while it has stopped (R411). -/
def served (p : Nat) (f : State → State) (s : State) : State := if s.paused p then s else f s

/-- What the service does at the current core. -/
def servedHere (f : State → State) (s : State) : State := served s.core.place.pkg f s

/-- What a notification leaves waiting for a service that has stopped (R411). -/
def Notif.waiter : Notif → List Waiter
  | .trap c => [.trap c]
  | .page c p => [.page c p]
  | _ => []

/-- A notification for the supervisor cores of a package, latched until WFI takes it (R182); a trap or a page request waits in its turn where
the service has stopped (R411). -/
def notify (p : Nat) (n : Notif) (s : State) : State :=
  s.modPkg p fun k => { k with notifs := k.notifs ++ [n], held := if k.paused.isSome then k.held ++ n.waiter else k.held }

/-! ## Bytes of memory -/

/-- The key in `State.mem` of a physical address of a package. -/
def memKey (pkg pa : Nat) : Nat := pkg * 2 ^ 52 + pa

/-- The number whose bytes are listed, the lowest first (R11). -/
def leOf : List Byte → Nat
  | [] => 0
  | b :: bs => b.toNat + 256 * leOf bs

/-- The `n` bytes of a number, the lowest first (R11). -/
def bytesOf (v : Nat) : Nat → List Byte
  | 0 => []
  | n + 1 => BitVec.ofNat 8 v :: bytesOf (v / 256) n

/-- `n` bytes of physical memory. -/
def State.readPhys (s : State) (pkg pa n : Nat) : List Byte := memBytes s.mem (memKey pkg pa) n

/-- Bytes written to physical memory. -/
def State.writePhys (s : State) (pkg pa : Nat) (bs : List Byte) : State :=
  { s with mem := memStore s.mem (memKey pkg pa) bs }

/-- A double of physical memory. -/
def State.physD (s : State) (pkg pa : Nat) : Nat := leOf (s.readPhys pkg pa 8)

/-- The lines that a rewrite of `n` bytes covers whole are poisoned no more (R356). -/
def State.rewritten (s : State) (pkg pa n : Nat) : State :=
  { s with lines := s.lines.filterMap fun (k, ls) =>
      let ls' : LineState :=
        if pkg * 2 ^ 46 + (pa + 63) / 64 ≤ k ∧ k < pkg * 2 ^ 46 + (pa + n) / 64 then { ls with poison := false } else ls
      if ls' = {} then none else some (k, ls') }

/-- Physical bytes cleared. -/
def State.zeroPhys (s : State) (pkg pa n : Nat) : State :=
  let a := memKey pkg pa
  { s.rewritten pkg pa n with mem := s.mem.filter fun (k, _) => decide (k < a) || decide (a + n ≤ k) }

/-! ## Causes (R371 to R381) -/

/-- The code of a cause (R371). -/
def CauseCode.num : CauseCode → Nat
  | .illegalInstruction => 1 | .privilege => 2 | .protect => 3 | .addressWrap => 4 | .pageFault => 5
  | .windowNack => 6 | .memUe => 7 | .seamWrite => 8 | .strataAhead => 9 | .strataBehind => 10
  | .strataOrder => 11 | .shape => 12 | .slotBusy => 13 | .matrixHazard => 14 | .capability => 15
  | .slotLate => 16 | .gangDiverge => 17 | .detViolation => 18 | .detConflict => 19

/-- Causes that always trap: PRIVILEGE and PROTECT with subcodes 8, 9 and 10 (R371, R372). -/
def Cause.alwaysTrap (c : Cause) : Bool :=
  c.code == .privilege || (c.code == .protect && (c.sub == 8 || c.sub == 9 || c.sub == 10))

/-- Causes that always upcall: PAGE_FAULT and the strata causes (R371, R372). -/
def Cause.alwaysUpcall (c : Cause) : Bool :=
  c.code == .pageFault || c.code == .strataAhead || c.code == .strataBehind || c.code == .strataOrder

/-- PROTECT with a subcode of R373. -/
def protect (sub : Nat) (addr : Word := 0) : Cause := { code := .protect, sub := sub, addr := addr }

/-- UPCAUSE (R375). -/
def Cause.upcause (c : Cause) : Word := BitVec.ofNat 64 (c.sub % 256 * 256 + c.code.num)

/-- UPINFO (R375). -/
def Cause.upinfo (c : Cause) : Word :=
  BitVec.ofNat 64 (c.party % 65536 * 2 ^ 48 + c.lane % 256 * 2 ^ 40 + c.engine % 16 * 2 ^ 36
    + c.counter % 16 * 2 ^ 32 + (if c.async then 2 ^ 31 else 0) + (if c.remote then 2 ^ 30 else 0)
    + c.sub % 256 * 2 ^ 18)

/-- Does a cause of a task trap rather than upcall (R372)? -/
def Task.traps (t : Task) (c : Cause) : Bool :=
  if t.handling ≠ .none then true
  else if c.alwaysTrap then true
  else if c.alwaysUpcall then t.upvec == 0
  else !(t.upmask.getLsbD c.code.num && t.upvec != 0)

/-- The entry of an upcall (R376): `resume` goes to UPEPC, the record to the registers and the shadow bank. -/
def Task.enterUpcall (t : Task) (c : Cause) (resume : Word) : Task :=
  { t with
    upepc := resume, upcause := c.upcause, upaddr := c.addr, upinfo := c.upinfo
    xs := (((t.xs.set 0 c.upcause).set 1 c.addr).set 2 c.upinfo).set 3 resume
    handling := .upcall
    pc := t.upvec
    wait := .none }

/-- The return from an upcall (R177): the main bank again, and fetch from UPEPC. A frozen body is reopened. -/
def Task.leaveUpcall (t : Task) : Task :=
  { t with
    handling := .none, pc := t.upepc, wait := .none
    rep := if t.rep.frozen then { t.rep with frozen := false, running := true } else t.rep }

/-- UIPEND (R377). -/
def Task.uipend (t : Task) : Word :=
  BitVec.ofNat 64 (t.uictr.toNat + if t.notices.isEmpty then 0 else 65536)

/-- The entry of a completion interrupt (R378). -/
def Task.enterInterrupt (t : Task) : Task :=
  { t with
    uiepc := t.pc
    xs := (((t.xs.set 0 t.uipend).set 1 0).set 2 0).set 3 0
    handling := .interrupt
    pc := t.uivec
    wait := .none }

/-- The return from a completion interrupt (R177). -/
def Task.leaveInterrupt (t : Task) : Task := { t with handling := .none, pc := t.uiepc, wait := .none }

/-- The trap record of a cause (R381). -/
def trapRecord (s : State) (c : Cause) (resume : Word) (body : Bool) : TrapRecord :=
  { cause := c, body := body, nested := decide (s.task.handling ≠ .none), resume := resume, lid := s.core.id.lid
    asid := (s.tenant s.core.id.tenant).asid, pkg := s.core.place.pkg, launch := s.task.handle, cycle := s.task.cycle, came := s.now }

/-- The eight doubles of a trap record (R381). -/
def TrapRecord.words (r : TrapRecord) : List Word :=
  let b (x : Bool) (n : Nat) : Nat := if x then 2 ^ n else 0
  let readdup := r.cause.code == .protect && r.cause.sub == 8
  [BitVec.ofNat 64 (r.cause.code.num + r.cause.sub % 256 * 256 + b r.nested 16 + b r.cause.async 17
      + b r.cause.parked 18 + r.cause.level % 4 * 2 ^ 19),
   r.resume, r.cause.addr,
   r.cause.upinfo ||| BitVec.ofNat 64 (if readdup then r.cause.entry % 16 * 2 ^ 26 else 0),
   BitVec.ofNat 64 (r.lid % 2 ^ 32 + r.asid % 65536 * 2 ^ 32 + r.pkg % 4 * 2 ^ 48),
   r.launch, r.cycle, 0]

/-- The memory home may write a line now: its 16 tokens are there, and nothing holds it (R115, R188, R332, R348, R355). -/
def LineState.restful (ls : LineState) : Bool :=
  ls.homeCount == 16 && ls.pins.isEmpty && ls.lease.isNone && ls.queue.isEmpty && ls.collecting.isNone

/-- A trap record written at the start of the current task's context area (R381). Where the line is not at its memory home, the record waits
there for it, as a store does (R348). -/
def writeRecord (r : TrapRecord) (s : State) : State :=
  match s.task.area with
  | none => s
  | some (p, a) =>
    let l : Line := { pkg := p, idx := a / 64 }
    let ls := s.line l
    let bs := r.words.flatMap fun w => bytesOf w.toNat 8
    if ls.restful then (s.rewritten p a 64).writePhys p a bs
    else
      let q : HomeReq :=
        { who := s.core.id, home := .home, offset := 0, ptr := 0, size := 65536, op := .store { bytes := bs }, hint := .dflt, came := s.now
          behind := !ls.pins.isEmpty }
      s.setLine l { ls with queue := ls.queue ++ [q] }

/-- A trap (R381): issue stops, leases end, the task is FAULTED with its record, which its context area holds, and a supervisor is told. -/
def trap (c : Cause) (resume : Word) (body : Bool) (s : State) : State :=
  let r := trapRecord s c resume body
  let s := writeRecord r (endLease s)
  let s := s.modTask fun t => { t with st := .faulted, trap := some r, pc := resume, wait := .none, draining := none, drainFrom := s.time }
  notify s.core.place.pkg (.trap s.core.id) { s with traps := s.traps ++ [s.core.id] }

/-- A body word's cause freezes the buffer (R164). The scalar instruction that waits beside it has its wait again. -/
def Task.freeze (t : Task) : Task :=
  if t.inBody then { t with inBody := false, wait := t.rep.wait, rep := { t.rep with running := false, frozen := true, wait := .none } } else t

/-- A cause delivered with its resume address (R372). A 17th outstanding page request raises no cause: the
core waits for a notice and the instruction issues anew (R379). A body word's cause freezes the buffer, and is delivered once the scalar
instruction that has issued beside it completes (R164). -/
def deliver (c : Cause) (resume : Word) (s : State) : State :=
  if c.code = .pageFault ∧ s.task.traps c = false ∧ s.task.requests.length ≥ 16 then
    waitAs .notice s
  else if s.task.inBody && !s.task.rep.wait.reissues then
    (splitGang s).modTask fun t => { t.freeze with asyncs := t.asyncs ++ [{ c with body := true }] }
  else
    let s := splitGang s
    let body := s.task.inBody || c.body
    let s := s.modTask Task.freeze
    if s.task.traps c then trap c resume body s
    else if c.code = .pageFault then
      let page := c.addr.toNat % 2 ^ 48 / 65536 * 65536
      let s := s.modTask fun t => { t.enterUpcall c resume with requests := t.requests ++ [page] }
      notify s.core.place.pkg (.page s.core.id page) s
    else s.modTask fun t => t.enterUpcall c resume

/-- A precise cause: the resume address is the instruction's own (R376), or the next scalar instruction for a
body word (R164). -/
def raise (c : Cause) (s : State) : State := deliver c s.task.pc s

/-- ILLEGAL_INSTRUCTION. -/
def illegal (s : State) : State := raise { code := .illegalInstruction } s

/-- GANG_DIVERGE in each listed core (R40, R41). -/
def divergeAll (cs : List CoreId) (s : State) : State := onCores (raise { code := .gangDiverge }) cs (splitGang s)

end Sys2Proof.Machine
end

