-- ==== Sys2Proof/Machine/Mem.lean ====
section
/-!
DEFINITION. Memory at its homes: bytes, scratchpad positions (R307), tokens (R347 to R351), the recency order of
L1 and L2 sets (R314 to R318), phase stamps (R398), the reverse map (R363), and translation (R357 to R361).
-/
namespace Sys2Proof.Machine

/-! ## Lines -/

/-- The line of a physical address. -/
def lineOf (pkg pa : Nat) : Line := { pkg := pkg, idx := pa / 64 }

/-! ## Scratchpads (R307) -/

/-- Where offset `o` lies under span code `k`, counted row by row without swizzle. -/
def swizzle (k o : Nat) : Nat :=
  let row := o / 128
  let bank := if k = 0 then o / 8 % 16 else (o / 8 % 16) ^^^ (o / 2 ^ (k + 3) % 16)
  row * 128 + bank * 8 + o % 8

/-- `n` scratchpad bytes from offset `o` under span code `k`. -/
def spRead (t : Task) (k o : Nat) : Nat → List Byte
  | 0 => []
  | n + 1 => memByte t.scratch (swizzle k o) :: spRead t k (o + 1) n

/-- Scratchpad bytes written from offset `o` under span code `k`. -/
def spWrite (k : Nat) : Nat → List Byte → Map Byte → Map Byte
  | _, [], m => m
  | o, b :: bs, m => spWrite k (o + 1) bs (mapSet 0 m (swizzle k o) b)

/-- Some of `n` scratchpad bytes from offset `o` lie in a word that holds an uncorrectable error (R412). -/
def spUe (t : Task) (k o n : Nat) : Bool :=
  !t.scratchBad.isEmpty && (List.range n).any fun i => t.scratchBad.contains (swizzle k (o + i) / 8)

/-- A store of `n` bytes from offset `o` must merge with a word that holds an uncorrectable error: it writes less than the word (R184, R412). -/
def spSpoils (t : Task) (k o n : Nat) (nib : Bool) : Bool :=
  !t.scratchBad.isEmpty && (List.range n).any fun i =>
    t.scratchBad.contains (swizzle k (o + i) / 8) && (nib || decide ((o + i) / 8 * 8 < o) || decide (o + n < (o + i) / 8 * 8 + 8))

/-- The words that a store of `n` bytes writes whole hold no error any more. -/
def spHeal (t : Task) (k o n : Nat) : List Nat :=
  if t.scratchBad.isEmpty then []
  else t.scratchBad.filter fun w => !(List.range n).any fun i =>
    swizzle k (o + i) / 8 == w && decide (o ≤ (o + i) / 8 * 8) && decide ((o + i) / 8 * 8 + 8 ≤ o + n)

/-! ## Dies and holders -/

/-- The compute die whose L2 serves a core: its own, the one beside a quarry core's stack, none for a
supervisor core (R316, R327, R392). Stacks 2 d and 2 d + 1 lie beside compute die d: R2 says only that two lie beside each (DESIGN CHOICE,
assumption log 115). -/
def CorePlace.die (p : CorePlace) : Option Nat :=
  if p.unit < 4 then some p.unit else if p.unit < 12 then some ((p.unit - 4) / 2) else none

/-- The rank of a die among the dies of a domain (R58). -/
def dieRank (pkg die : Nat) : Nat := 4 * pkg + die

/-- The token holder through which the cached accesses of a place go: the L2 of its die (R316). The abutment die has none, and a supervisor
core takes that of the first compute die of its package that has not failed (R347; DESIGN CHOICE, assumption log 7). -/
def State.holderAt (s : State) (p : CorePlace) : Holder :=
  match p.die with
  | some d => .die p.pkg d
  | none => match (List.range 4).find? fun d => !s.failed.contains (dieRank p.pkg d) with
    | some d => .die p.pkg d
    | none => .home

/-- The token holder through which the current core's cached accesses go. -/
def State.holder (s : State) : Holder := s.holderAt s.core.place

/-- The tokens of a holder other than the memory home. -/
def heldBy (h : Holder) : List Tokens → Option Tokens
  | [] => none
  | t :: ts => if t.holder = h then some t else heldBy h ts

/-- What a holder has of a line. The memory home's data is the memory's own (R349). -/
def LineState.at_ (ls : LineState) (h : Holder) : Tokens :=
  if h = .home then { holder := .home, count := ls.homeCount, owner := ls.homeOwner, data := true, stamp := ls.stamp }
  else (heldBy h ls.others).getD { holder := h, count := 0, owner := false, data := false, stamp := none }

/-- What a holder has of a line, set. A holder of no token drops its copy and its stamp (R349, R399). -/
def LineState.put (ls : LineState) (t : Tokens) : LineState :=
  if t.holder = .home then
    { ls with homeCount := t.count, homeOwner := t.owner, stamp := if t.count = 0 then none else t.stamp }
  else
    let rest := ls.others.filter fun u => u.holder ≠ t.holder
    { ls with others := if t.count = 0 then rest else rest ++ [t] }

/-- A holder's stamp set. -/
def LineState.setStamp (ls : LineState) (h : Holder) (st : Option PhaseStamp) : LineState :=
  ls.put { ls.at_ h with stamp := st }

/-- The tokens held, not counting those in flight. -/
def LineState.held (ls : LineState) : Nat := ls.homeCount + (ls.others.map (·.count)).sum

/-- Two stamps of one line merged: the later phase, and within one phase both records (R399). Of two launches, the later one's
stamp stands (DESIGN CHOICE, assumption log 24). -/
def stampMerge (a b : Option PhaseStamp) : Option PhaseStamp :=
  match a, b with
  | none, x => x
  | x, none => x
  | some a, some b =>
    if a.launch ≠ b.launch then some (if a.launch < b.launch then b else a)
    else if a.phase > b.phase then some a
    else if b.phase > a.phase then some b
    else some { a with
      writer := a.writer.orElse fun _ => b.writer
      op := a.op.orElse fun _ => b.op
      reader := match a.reader, b.reader with
        | .none, r => r
        | r, .none => r
        | .one x, .one y => if x = y then .one x else .many
        | _, _ => .many }

/-- Every token of the line brought to the memory home, with the owner's data and every stamp. -/
def LineState.recall (ls : LineState) : LineState :=
  { ls with
    homeCount := 16, homeOwner := true, others := [], dirty := false
    stamp := ls.others.foldl (fun st t => stampMerge st t.stamp) ls.stamp }

/-- What a read needs at a holder (R348): a token and valid data. -/
def LineState.gatherRead (ls : LineState) (h : Holder) : Option LineState :=
  let t := ls.at_ h
  if decide (1 ≤ t.count) && t.data then some ls else none

/-- What a write needs at a holder (R348): all 16 tokens and valid data. -/
def LineState.gatherWrite (ls : LineState) (h : Holder) : Option LineState :=
  let t := ls.at_ h
  if t.count == 16 && t.data then some ls else none

/-- An engine has the line pinned at the holder (R188, R353). -/
def LineState.pinned (ls : LineState) (h : Holder) : Bool := ls.pins.any fun p => p.2 == h

/-- A transfer has the line pinned. -/
def LineState.pinnedBy (ls : LineState) (me : Pin) : Bool := ls.pins.any fun p => p.1 == me

/-- The wait is for the line: for tokens of it, or for its turn at its home. -/
def Wait.isFor (l : Line) : Wait → Bool
  | .home m _ _ | .queued m _ => m == l
  | _ => false

/-- The wait is for the line at a holder. -/
def Wait.isAt (l : Line) (h : Holder) : Wait → Bool
  | .home m g _ | .queued m g => m == l && g == h
  | _ => false

/-- The request is an access that its core issues anew, not one that goes on without it. -/
def HomeReq.again (e : HomeReq) : Bool := e.op == .access

/-- A request of a core that no longer waits in a line's queue. -/
def State.stale (s : State) (l : Line) (e : HomeReq) : Bool :=
  e.again && match s.findCore e.who with
    | some k => !(k.task.wait.isFor l || k.task.rep.wait.isFor l)
    | none => true

/-- The requests that wait at a line's home, in their order. -/
def State.waiting (s : State) (l : Line) : List HomeReq := (s.line l).queue.filter fun e => !s.stale l e

/-- The core's own count has not reached the last cycle of its lease on the line: an access that it issues now is part of the lease (R115). -/
def State.inLease (s : State) (l : Line) : Bool := s.task.lease.any fun r => r.1 == l && decide (s.now + 1 < r.2)

/-- The core whose lease holds a line: one whose count has run out holds it no more (R115). -/
def State.leaseOf (s : State) (l : Line) : Option CoreId :=
  (s.line l).lease.filter fun c => match s.findCore c with
    | some k => k.task.lease.any fun r => r.1 == l && decide (s.now < r.2)
    | none => false

/-- A queue admits a core's access: nothing waits, or the access itself is the first (R115, R323). -/
def firstIn (who : CoreId) : List HomeReq → Bool
  | [] => true
  | e :: _ => e.who == who && e.again

/-- A pin does not hold back a core's access that had reached the line's home before it (R188, R339). -/
def aheadOfPin (who : CoreId) (h : Holder) (q : List HomeReq) : Bool := q.any fun e => e.who == who && e.again && e.home == h && !e.behind

/-- May the current core's access go to the line at its home now? A pin (R188), another core's lease (R115), requests that
arrived at the same home before it (R323, R332, R350) or a recreation (R355) holds it back. An access that is part of the core's own lease
passes over the requests of the others; in the last cycle of the lease it queues like any other. -/
def State.lineFree (s : State) (l : Line) (h : Holder) : Bool :=
  let ls := s.line l
  let who := s.core.id
  let first := firstIn who ((s.waiting l).filter fun e => e.home == h)
  (!ls.pinned h || aheadOfPin who h ls.queue) && ls.collecting.isNone
    && (match s.leaseOf l with
        | some c => c == who && (first || (s.inLease l && !(ls.queue.any fun e => e.who == who && !e.again)))
        | none => first)

/-- The core's access is performed: it waits in the queue no more. -/
def LineState.served (who : CoreId) (ls : LineState) : LineState :=
  { ls with queue := ls.queue.filter fun e => !(e.who == who && e.again) }

/-- A request placed behind those that arrived before it; requests of one cycle stand in ascending tenant id, then in ascending logical
core id, and those of one core in its own order (R323, R332). -/
def placeReq (r : HomeReq) : List HomeReq → List HomeReq
  | [] => [r]
  | e :: es =>
    if e.came = r.came ∧ e.behind = r.behind ∧ (r.who.tenant < e.who.tenant ∨ (r.who.tenant = e.who.tenant ∧ r.who.lid < e.who.lid)) then
      r :: e :: es
    else e :: placeReq r es

/-- A request of the current core joins a line's queue at a home. -/
def joinQueue (l : Line) (h : Holder) (offset : Nat) (p : Word) (size : Nat) (op : HomeOp) (hint : Hint) (strong : Bool) (lane : Nat)
    (s : State) : State :=
  let ls := s.line l
  let r : HomeReq :=
    { who := s.core.id, home := h, offset := offset, ptr := p, size := size, op := op, hint := hint, came := s.now, behind := ls.pinned h
      strong := strong, lane := lane }
  s.setLine l { ls with queue := placeReq r ls.queue }

/-- The current core's access joins a line's queue at a home. -/
def enqueue (l : Line) (h : Holder) (s : State) : State :=
  let ls := s.line l
  if s.task.wait.isFor l && ls.queue.any fun e => e.who == s.core.id && e.again && e.home == h then s
  else joinQueue l h 0 0 0 .access .dflt false 0 (s.setLine l (ls.served s.core.id))

/-! ## Recency (R317) -/

/-- The last element that `p` admits, removed: the least recent. -/
def dropLast (p : α → Bool) (l : List α) : Option (α × List α) :=
  match l.reverse.findIdx? p with
  | none => none
  | some i =>
    let j := l.length - 1 - i
    match l[j]? with
    | none => none
    | some a => some (a, l.eraseIdx j)

/-- Of more than two marked elements, the least recent loses its mark. -/
def demote (sticky : α → Bool) (unmark : α → α) (l : List α) : List α :=
  if (l.filter sticky).length ≤ 2 then l else
  match l.reverse.findIdx? sticky with
  | none => l
  | some i => l.modify (l.length - 1 - i) unmark

/-- An access to a set of `ways`, most recent first: the set after it and the line that leaves. `hit` finds the
line, `new` is the line to allocate. `none` when no line may leave (R318). -/
def recency (ways : Nat) (h : Hint) (pinned sticky : α → Bool) (mark : Bool → α → α) (hit : α → Bool) (new : α)
    (set : List α) : Option (List α × Option α) :=
  match set.findIdx? hit with
  | some i =>
    match set[i]? with
    | none => some (set, none)
    | some a =>
      match h with
      | .dflt => some (a :: set.eraseIdx i, none)
      | .stk => some (demote sticky (mark false) (mark true a :: set.eraseIdx i), none)
      | .str | .byp => some (set, none)
  | none =>
    if h = .byp then some (set, none) else
    let room : Option (List α × Option α) :=
      if set.length < ways then some (set, none) else
      match dropLast (fun a => !pinned a && !sticky a) set with
      | some (v, rest) => some (rest, some v)
      | none =>
        match dropLast (fun a => !pinned a) set with
        | some (v, rest) => some (rest, some v)
        | none => none
    room.map fun (rest, v) =>
      match h with
      | .dflt | .byp => (mark false new :: rest, v)
      | .str => (rest ++ [mark false new], v)
      | .stk => (demote sticky (mark false) (mark true new :: rest), v)

/-! ## The L2 (R316, R318, R351) -/

/-- The home slice of a physical address within a die. -/
def l2Slice (pa : Nat) : Nat :=
  let f (i : Nat) : Nat := pa / 2 ^ i % 64
  f 6 ^^^ f 12 ^^^ f 18 ^^^ f 24 ^^^ f 30 ^^^ f 36 ^^^ f 42 ^^^ (pa / 2 ^ 48 % 16)

/-- The key of the set that a line takes in a die's L2. -/
def l2Key (pkg die : Nat) (l : Line) : Nat :=
  ((pkg * 4 + die) * 64 + l2Slice (l.idx * 64)) * 4096 + l.idx % 4096

/-- A holder's copy of a line dropped: it leaves the die's L2 (R349, R351, R355). -/
def dropCopy (l : Line) (h : Holder) (s : State) : State :=
  match h with
  | .die pkg die =>
    if 4 ≤ die then s else
    let set := mapGet [] s.l2 (l2Key pkg die l)
    if set.any (·.line = l) then { s with l2 := mapSet [] s.l2 (l2Key pkg die l) (set.filter fun w => w.line ≠ l) } else s
  | .home => s

/-- No die keeps a copy of a line whose tokens are all at its memory home. -/
def dropCopies (l : Line) (s : State) : State :=
  if s.l2.isEmpty || !(s.line l).others.isEmpty then s
  else (List.range 16).foldl (fun s i => dropCopy l (.die (i / 4) (i % 4)) s) s

/-- The generation of the tokens that a holder has: one that COLLECT has not reached has those of before the recreation (R355). -/
def LineState.genAt (ls : LineState) (h : Holder) : Nat :=
  match ls.collecting with
  | some hs => if hs.contains h then (ls.gen + 15) % 16 else ls.gen
  | none => ls.gen

/-- All tokens of a holder sent to another, with the owner's data; its copy is dropped (R349, R351). -/
def sendAll (l : Line) (src dst : Holder) (s : State) : State :=
  let ls := s.line l
  let t := ls.at_ src
  if t.count = 0 ∨ src = dst then s else
  let s := dropCopy l src (s.setLine l (ls.put { t with count := 0, owner := false, data := false, stamp := none }))
  { s with net := s.net ++ [.tokens l src dst t.count t.owner (t.owner && ls.dirty) t.owner (ls.genAt src) t.stamp] }

/-- The line leaves the die's L2, and the die's tokens go to the memory home (R351). -/
def dropTokens (pkg die : Nat) (l : Line) (s : State) : State := sendAll l (.die pkg die) .home s

/-- A pin of a line released: a request that waited at its home is behind a pin no more, once none stands there. -/
def LineState.unpin (me : Pin) (ls : LineState) : LineState :=
  let pins := ls.pins.filter fun p => p.1 ≠ me
  { ls with pins := pins, queue := ls.queue.map fun e => { e with behind := e.behind && pins.any fun p => p.2 == e.home } }

/-- An access of a die to a line in its L2, with the line it evicts; none when every way is pinned (R317, R318). A transfer `me` that writes
may take the way of a line of its own, which it has written and pins no more. -/
def touchFor (me : Option Pin) (pkg die : Nat) (l : Line) (h : Hint) (s : State) : Option State :=
  let set := mapGet [] s.l2 (l2Key pkg die l)
  let pinned (w : L2Way) : Bool := (s.line w.line).pins.any fun p => p.2 == .die pkg die && some p.1 != me
  match recency 16 h pinned (·.sticky) (fun b w => { w with sticky := b }) (fun w => w.line = l)
      { line := l, sticky := false } set with
  | none => none
  | some (set', v) =>
    let s := { s with l2 := mapSet [] s.l2 (l2Key pkg die l) set' }
    some (match v, me with
      | none, _ => s
      | some w, none => dropTokens pkg die w.line s
      | some w, some p => dropTokens pkg die w.line (if (s.line w.line).pinnedBy p then s.setLine w.line ((s.line w.line).unpin p) else s))

/-- An access of a core to a line in its die's L2. -/
def touchL2 (pkg die : Nat) (l : Line) (h : Hint) (s : State) : Option State := touchFor none pkg die l h s

/-- A line is removed from a die's L2 with its tokens. -/
def purgeL2 (pkg die : Nat) (l : Line) (s : State) : State :=
  let set := mapGet [] s.l2 (l2Key pkg die l)
  dropTokens pkg die l { s with l2 := mapSet [] s.l2 (l2Key pkg die l) (set.filter fun w => w.line ≠ l) }

/-! ## Attempts (R349, R350) -/

/-- The packages of the domain that have come up. -/
def State.packages (s : State) : List Nat := s.pkgs.map (·.1)

/-- Every compute die of the domain that has not failed (R58). -/
def State.dies (s : State) : List (Nat × Nat) :=
  (s.packages.flatMap fun p => (List.range 4).map fun d => (p, d)).filter fun d => !s.failed.contains (dieRank d.1 d.2)

/-- The migration agent on a package's abutment die: as a holder it is numbered die 4 (R347, R365). -/
def agentOf (pkg : Nat) : Holder := .die pkg 4

/-- The holders of a line's tokens that may answer for it: every die that has not failed, the memory home, and while a page moves the
migration agents (R347). -/
def State.holders (s : State) : List Holder :=
  .home :: (s.dies.map fun d => Holder.die d.1 d.2) ++ if s.moving.isEmpty then [] else s.packages.map agentOf

/-- The holder that requests by a die's number: the memory home of a line, where NEARMEM and STRATA lines are accessed (R319), asks as number 5
of the line's package (DESIGN CHOICE, assumption log 7). -/
def reqHolder (pkg die : Nat) : Holder := if die = 5 then .home else .die pkg die

/-- A holder's transient requests for a line, to every other die and the memory home (R349). -/
def sendTransients (pkg die : Nat) (l : Line) (write : Bool) (s : State) : State :=
  { s with net := s.net ++ (s.holders.filter fun t => t ≠ reqHolder pkg die).map fun t => Msg.transient l pkg die write t }

/-- A die asks for tokens of a line (R349). A line it already asks for is not asked for again (R350). -/
def startAttempt (pkg die : Nat) (l : Line) (write : Bool) (s : State) : State :=
  if s.attempts.any fun a => a.pkg == pkg && a.die == die && a.line == l then s else
  sendTransients pkg die l write
    { s with attempts := s.attempts ++
        [{ pkg := pkg, die := die, line := l, write := write, since := s.now, fails := 0, persistent := false, retryAt := none }] }

/-- A holder asks for tokens of a line that an access at it needs (R348). -/
def askFor (l : Line) (h : Holder) (write : Bool) (s : State) : State :=
  match h with
  | .die p d => startAttempt p d l write s
  | .home => startAttempt l.pkg 5 l write s

/-- A cause or wait of the current instruction, or its effect. A wait for tokens asks for them (R348, R350); an instruction of
several accesses that meets an owner who is away issues anew. -/
def settle (r : Try State) (s : State) : State :=
  match r with
  | .ok s' => s'
  | .cause c => raise c s
  | .wait w =>
    match w with
    | .home l h write => askFor l h write (waitAs w (enqueue l h s))
    | .queued l h => waitAs w (enqueue l h s)
    | .remote => waitAs .stall s
    | _ => waitAs w s

/-! ## Phase stamps (R398) -/

/-- How an access enters the stamps: a read, a write, both (R209), or a reduction with its op. -/
inductive StampUse where
  | read
  | write
  | update
  | reduce (op : Nat)
  deriving DecidableEq, Repr, Inhabited

/-- DET_CONFLICT with a subcode and the other party, at an address (R375, R398). -/
def detConflict (p : Word) (sub party : Nat) : Cause := { code := .detConflict, sub := sub, addr := p, party := party }

/-- A reader field as PARTY names it. -/
def Reader.party : Reader → Nat
  | .none => 0
  | .one l => l
  | .many => 65535

/-- The reader field admits core `c`. -/
def Reader.only (c : Nat) : Reader → Bool
  | .none => true
  | .one l => l == c
  | .many => false

/-- The use reads. -/
def StampUse.reads : StampUse → Bool
  | .read | .update => true
  | _ => false

/-- The use writes. -/
def StampUse.writes : StampUse → Bool
  | .read => false
  | _ => true

/-- The op that a reduction carries. -/
def StampUse.op : StampUse → Option Nat
  | .reduce op => some op
  | _ => none

/-- A reader field after a read by core `c`. -/
def Reader.add (c : Nat) : Reader → Reader
  | .none => .one c
  | .one l => if l = c then .one l else .many
  | .many => .many

/-- The stamp after an access is recorded. -/
def PhaseStamp.record (st : PhaseStamp) (c : Nat) (u : StampUse) : PhaseStamp :=
  let st := if u.reads then { st with reader := st.reader.add c } else st
  if u.writes then { st with writer := some c, op := u.op } else st

/-- An access of core `c` of a launch at phase `q` checked against a stamp, and the stamp after it. -/
def stampCheck (p : Word) (launch q c : Nat) (u : StampUse) (st : Option PhaseStamp) : Try PhaseStamp :=
  let fresh : PhaseStamp := { launch := launch, phase := q, writer := none, reader := .none, op := none }
  match st with
  | none => .ok (fresh.record c u)
  | some st =>
    let otherWriter := st.writer.isSome && st.writer != some c
    if st.launch ≠ launch ∨ q > st.phase then .ok (fresh.record c u)
    else if q < st.phase then .cause (detConflict p 3 (st.writer.getD 0))
    else if u.reads && otherWriter then .cause (detConflict p 0 (st.writer.getD 0))
    else if u.writes && !st.reader.only c then .cause (detConflict p 1 st.reader.party)
    else if u.writes && otherWriter && !(u.op.isSome && st.op == u.op) then .cause (detConflict p 2 (st.writer.getD 0))
    else .ok (st.record c u)

/-- The uses of an access checked one after another at a line by the current task; outside a DETERMINATE launch
nothing is checked or recorded. -/
def stampUses (t : Task) (lid : Nat) (p : Word) : List StampUse → Option PhaseStamp → Try (Option PhaseStamp)
  | [], st => .ok st
  | u :: us, st =>
    if t.determinate then
      (stampCheck p t.launch t.dphase lid u st).bind fun st' => stampUses t lid p us (some st')
    else .ok st

/-! ## The L1 (R314, R315, R363, R334) -/

/-- The address-space identifier of the current core (R179, R357). -/
def State.asid (s : State) : Nat :=
  if s.core.kind = .supervisor then s.core.asid.toNat % 65536 else (s.tenant s.core.id.tenant).asid

/-- The key of an L1 set of 128. -/
def l1Key (va : Nat) : Nat := va / 64 % 128

/-- The L1 line that serves a virtual address: a PRIVATE line serves for 2,048 cycles (R334). -/
def l1Find (k : Core) (asid now va : Nat) : Option L1Line :=
  (mapGet [] k.l1 (l1Key va)).find? fun e =>
    e.tag == va / 64 && e.asid == asid && (!e.priv || decide (now < e.filled + 2048))

/-- L1 lines that `p` admits are removed. -/
def l1Remove (p : L1Line → Bool) (k : Core) : Core :=
  { k with l1 := k.l1.filterMap fun (i, set) =>
      let set' := set.filter fun e => !p e
      if set'.isEmpty then none else some (i, set') }

/-- An acquire removes every PRIVATE line from the core's L1 (R315). -/
def acquire (s : State) : State := { s with core := l1Remove (·.priv) s.core }

/-- The two cores lie in one physical bench. -/
def sameBench (a b : Core) : Bool :=
  a.kind == .compute && b.kind == .compute && a.place.pkg == b.place.pkg && a.place.unit == b.place.unit
    && a.place.bench == b.place.bench

/-- Copies of physical line `l` under another virtual tag than (asid, tag) leave every L1 of the bench
(R363). -/
def reverseMap (l : Line) (asid tag : Nat) (s : State) : State :=
  let f := l1Remove fun e => e.line == l && !(e.tag == tag && e.asid == asid)
  { s with
    others := s.others.map fun (i, k) => (i, if sameBench s.core k then f k else k)
    core := f s.core }

/-- A fill of the current core's L1 (R317, R363). -/
def l1Fill (h : Hint) (e : L1Line) (va : Nat) (s : State) : State :=
  let s := reverseMap e.line e.asid e.tag s
  let set := mapGet [] s.core.l1 (l1Key va)
  match recency 4 h (fun _ => false) (·.sticky) (fun b w => { w with sticky := b })
      (fun w => w.tag = e.tag ∧ w.asid = e.asid) e (set.filter fun w => !(w.tag == e.tag && w.asid == e.asid)) with
  | none => s
  | some (set', _) => { s with core := { s.core with l1 := mapSet [] s.core.l1 (l1Key va) set' } }

/-- A hit moves the L1 line by its hint (R317). -/
def l1Hit (h : Hint) (e : L1Line) (va : Nat) (s : State) : State :=
  match recency 4 h (fun _ => false) (·.sticky) (fun b w => { w with sticky := b })
      (fun w => w.tag = e.tag ∧ w.asid = e.asid) e (mapGet [] s.core.l1 (l1Key va)) with
  | none => s
  | some (set', _) => { s with core := { s.core with l1 := mapSet [] s.core.l1 (l1Key va) set' } }

/-- Bytes put into a line's bytes at an offset. -/
def patchBytes (line : List Byte) (off : Nat) (bs : List Byte) : List Byte :=
  line.take off ++ bs ++ line.drop (off + bs.length)

/-- A store updates the core's own L1 copy, if one is present (R314); `f` gives the new bytes at the address from the `n` old ones. -/
def l1Store (asid va n : Nat) (f : List Byte → List Byte) (k : Core) : Core :=
  match mapFind (l1Key va) k.l1 with
  | none => k
  | some set =>
    { k with l1 := mapPut (l1Key va) (set.map fun e =>
        if e.tag = va / 64 ∧ e.asid = asid then { e with bytes := patchBytes e.bytes (va % 64) (f ((e.bytes.drop (va % 64)).take n)) } else e) k.l1 }

/-- A store that hits the L1 moves the line by its hint (R317). -/
def l1StoreHit (h : Hint) (va : Nat) (s : State) : State :=
  match l1Find s.core s.asid s.now va with
  | some e => l1Hit h e va s
  | none => s

/-! ## Translation (R357 to R361) -/

/-- The kind codes of R359. -/
def pageKindOf : Nat → Option PageKind
  | 0 => some .priv | 1 => some .readonly | 2 => some .shared | 3 => some .nearmem | 4 => some .strata
  | 5 => some .readdup | _ => none

/-- Bits `lo` to `lo + w − 1` of an entry. -/
def bitsAt (e lo w : Nat) : Nat := e / 2 ^ lo % 2 ^ w

/-- The bytes that a leaf maps at a level (R358). -/
def levelSize (level : Nat) : Nat := if level = 1 then 2 ^ 30 else if level = 2 then 2 ^ 21 else 2 ^ 16

/-- A physical address of the tier's range (R320). -/
def inTier (tier : Bool) (pa : Nat) : Bool :=
  if tier then decide (2 ^ 40 ≤ pa) && decide (pa < 2 ^ 41) else decide (pa < 2 ^ 39)

/-- The attribute combinations of R360. -/
def leafOk (k : PageKind) (x w tier : Bool) (level : Nat) : Bool :=
  match k with
  | .priv | .shared => !x
  | .readonly => !w
  | .nearmem => !x && !tier && level == 3
  | .strata => !x && !w && !tier && level == 3
  | .readdup => !x && !w

/-- What a table entry is at a level (R359, R360). -/
inductive Entry where
  | absent
  | bad
  | table (pkg addr : Nat)
  | leaf (l : Leaf) (mig : Bool)
  deriving DecidableEq, Repr, Inhabited

/-- A table entry read at a level (R359, R360). -/
def entryAt (level e : Nat) : Entry :=
  let pkg := bitsAt e 54 2
  let addr := e % 2 ^ 52
  let tier := e.testBit 59
  if !e.testBit 63 then .absent
  else if e.testBit 52 then .bad
  else if e.testBit 58 then
    match pageKindOf (bitsAt e 60 3) with
    | none => .bad
    | some k =>
      if leafOk k (e.testBit 57) (e.testBit 56) tier level && addr % levelSize level == 0 && inTier tier addr then
        .leaf { kind := k, tier := tier, x := e.testBit 57, w := e.testBit 56, pkg := pkg, addr := addr, size := levelSize level }
          (e.testBit 53)
      else .bad
  else if level = 3 ∨ bitsAt e 60 3 ≠ 0 ∨ tier ∨ addr % (if level = 1 then 4096 else 256) ≠ 0 then .bad
  else .table pkg addr

/-- The result of a translation. A walk may have to wait for the line of an entry, and may meet a poisoned one (R356, R361). -/
inductive Xl where
  | leaf (l : Leaf)
  | fault
  | ptFormat (level : Nat)
  | mig
  | wait (w : Wait)
  | ue
  deriving DecidableEq, Repr, Inhabited

/-- The index of a virtual address at a level (R358). -/
def levelIndex (level va : Nat) : Nat :=
  if level = 1 then va / 2 ^ 30 % 2 ^ 18 else if level = 2 then va / 2 ^ 21 % 512 else va / 2 ^ 16 % 32

/-- The walk from a table of a level on (R358); `n` levels are left. `stop` tells what keeps an entry from being read. -/
def walkFrom (stop : Nat → Nat → Option Xl) (s : State) (va : Nat) : Nat → Nat → Nat → Nat → Xl
  | 0, _, _, _ => .fault
  | n + 1, level, pkg, table =>
    let a := table + 8 * levelIndex level va
    match stop pkg a with
    | some x => x
    | none =>
      match entryAt level (s.physD pkg a) with
      | .absent => .fault
      | .bad => .ptFormat level
      | .leaf l mig => if mig then .mig else .leaf l
      | .table p t => walkFrom stop s va n (level + 1) p t

/-- A walk from a root entry (R357, R358). A VALID root with a reserved bit set, or whose ROOT is no multiple of 2 MiB, is refused as a
malformed entry of level 1 (R19; DESIGN CHOICE, assumption log 55). -/
def walkRoot (stop : Nat → Nat → Option Xl) (s : State) (root va : Nat) : Xl :=
  if !root.testBit 63 then .fault
  else if bitsAt root 56 7 ≠ 0 ∨ bitsAt root 52 2 ≠ 0 ∨ root % 2 ^ 21 ≠ 0 then .ptFormat 1
  else walkFrom stop s va 3 1 (bitsAt root 54 2) (root % 2 ^ 52)

/-- A walk by the supervisor's software, which reads its own tables. -/
def walkSoft (s : State) (root va : Nat) : Xl := walkRoot (fun _ _ => none) s root va

/-- Where the current core's root entry lies in memory; a supervisor core has PTBASE (R179, R357). -/
def State.rootAddr (s : State) : Option (Nat × Nat) :=
  if s.core.kind = .supervisor then none
  else some (s.core.place.pkg, (s.pkg s.core.place.pkg).asidTable + 8 * s.asid)

/-- The root entry that the current core's walks start from (R179, R357, R361). -/
def State.rootEntry (s : State) : Nat :=
  match s.rootAddr with
  | some (p, a) => s.physD p a
  | none => s.core.ptbase.toNat

/-- What keeps the current core's walker from an entry: it reads at the entry's L2 home slice, with a token (R348, R356, R361). -/
def State.walkStop (s : State) (pkg a : Nat) : Option Xl :=
  let l := lineOf pkg a
  let h := s.holder
  if !s.lineFree l h then some (.wait (.queued l h))
  else if ((s.line l).gatherRead h).isNone then some (.wait (.home l h false))
  else if (s.line l).poison then some .ue else none

/-- The current core's walk. -/
def State.walk (s : State) (va : Nat) : Xl :=
  match s.rootAddr.bind fun r => s.walkStop r.1 r.2 with
  | some x => x
  | none => walkRoot s.walkStop s s.rootEntry va

/-- The TLB that serves a place: one for each bench, quarry core and supervisor core (R361, R322). -/
def CorePlace.tlb (p : CorePlace) : Nat :=
  (p.pkg * 16 + p.unit) * 65536 + if p.unit < 4 then p.bench else p.col

/-- The TLB entry for an address, if held. -/
def tlbEntry (s : State) (va : Nat) : Option TlbEntry :=
  (mapGet [] s.tlbs s.core.place.tlb).find? fun e => e.asid == s.asid && e.va == va / e.leaf.size * e.leaf.size

/-- The leaf that the TLB holds for an address, if it does. -/
def tlbFind (s : State) (va : Nat) : Option Leaf := (tlbEntry s va).map (·.leaf)

/-- The translation of a virtual address for the current core: the TLB, or a walk on a miss. An entry that holds an error that cannot be
corrected is MEM_UE (R412). -/
def translate (s : State) (va : Nat) : Xl :=
  match tlbEntry s va with
  | some e => if e.bad then .ue else .leaf e.leaf
  | none => s.walk va

/-- What the current core's tables say of a virtual address, whatever the walker would have to wait for. -/
def State.mapped (s : State) (va : Nat) : Xl :=
  match tlbFind s va with
  | some l => .leaf l
  | none => walkSoft s s.rootEntry va

/-- The TLB holds a leaf that a walk has found (R361). -/
def noteTlb (va : Nat) (l : Leaf) (s : State) : State :=
  match tlbFind s va with
  | some _ => s
  | none =>
    let key := s.core.place.tlb
    let es := mapGet [] s.tlbs key
    let es := if es.length < 2048 then es else es.eraseIdx (Config.tlbVictim s.moves % 2048)
    { s with tlbs := mapSet [] s.tlbs key (es ++ [{ asid := s.asid, va := va / l.size * l.size, leaf := l }]) }

/-- The physical address of a virtual address under its leaf (R358). -/
def Leaf.pa (l : Leaf) (va : Nat) : Nat := l.addr + va % l.size

/-- MEM_UE at an address (R356). -/
def memUe (p : Word) : Cause := { code := .memUe, addr := p }

/-- A translation, or its cause (R360, R379) or the wait of a migrating page (R365). `addr` is the pointer that
the cause's record names. -/
def xlate (s : State) (va : Nat) (addr : Word) : Try Leaf :=
  match translate s va with
  | .leaf l => .ok l
  | .fault => .cause { code := .pageFault, addr := addr }
  | .ptFormat level => .cause { code := .protect, sub := 9, addr := addr, level := level }
  | .mig => .wait (.mig s.now)
  | .wait w => .wait w
  | .ue => .cause (memUe addr)

end Sys2Proof.Machine
end

