-- ==== Sys2Proof/Machine/Shape.lean ====
section
/-!
DEFINITION. Fat pointers (R124, R156), shape records (R283, R284) and the boxes that copies and tensor accesses
take from them (R100, R201, R226, R278, R287).
-/
namespace Sys2Proof.Machine

/-! ## Fat pointers (R124, R156) -/

/-- The format code of a fat pointer. -/
def pFmt (p : Word) : Nat := p.toNat / 2 ^ 59
/-- The block-length code of a fat pointer. -/
def pBlk (p : Word) : Nat := p.toNat / 2 ^ 55 % 16
/-- The span code of a fat pointer. -/
def pSpan (p : Word) : Nat := p.toNat / 2 ^ 52 % 8
/-- The space of a fat pointer. -/
def pSpace (p : Word) : Nat := p.toNat / 2 ^ 48 % 16
/-- The address field of a fat pointer. -/
def pAddr (p : Word) : Nat := p.toNat % 2 ^ 48

/-- The pointer holds no reserved format, span or space code (R124). -/
def ptrOk (p : Word) : Bool := fmtOk (pFmt p) && decide (pSpan p ≤ 6) && decide (pSpace p ≤ 3)

/-- The pointer with another address. -/
def ptrAt (p : Word) (n : Nat) : Word := BitVec.ofNat 64 (p.toNat / 2 ^ 48 * 2 ^ 48 + n % 2 ^ 48)

/-- The pointer with an exact address, or ADDRESS_WRAP with the base pointer as its address (R183; DEDUCED, assumption log 116). -/
def ptrTo (p : Word) (n : Int) : Try Word :=
  if n < 0 ∨ n ≥ ((2 ^ 48 : Nat) : Int) then .cause { code := .addressWrap, addr := p } else .ok (ptrAt p n.toNat)

/-! ## Shape records (R283) -/

/-- The base pointer. -/
def ShapeRec.base (r : ShapeRec) : Word := r.d[0]
/-- The rank. -/
def ShapeRec.rank (r : ShapeRec) : Nat := bitsAt r.d[7].toNat 28 3
/-- The clip mode: edge rather than fill. -/
def ShapeRec.edge (r : ShapeRec) : Bool := r.d[7].toNat.testBit 31
/-- The fill field. -/
def ShapeRec.fill (r : ShapeRec) : Nat := bitsAt r.d[7].toNat 32 32

/-- The extent of dimension `i`. -/
def ShapeRec.ext (r : ShapeRec) (i : Nat) : Nat :=
  match i with
  | 0 => bitsAt r.d[1].toNat 0 32
  | 1 => bitsAt r.d[1].toNat 32 32
  | 2 => bitsAt r.d[2].toNat 0 32
  | 3 => bitsAt r.d[2].toNat 32 32
  | 4 => bitsAt r.d[3].toNat 0 32
  | 5 => bitsAt r.d[3].toNat 32 32
  | 6 => bitsAt r.d[4].toNat 0 32
  | _ => 0

/-- The stored stride of dimension `i` ≥ 1, in units of u. -/
def ShapeRec.str (r : ShapeRec) (i : Nat) : Nat :=
  match i with
  | 1 => bitsAt r.d[4].toNat 32 28
  | 2 => bitsAt r.d[5].toNat 0 28
  | 3 => bitsAt r.d[5].toNat 28 28
  | 4 => bitsAt r.d[6].toNat 0 28
  | 5 => bitsAt r.d[6].toNat 28 28
  | 6 => bitsAt r.d[7].toNat 0 28
  | _ => 0

/-- The format code of a record. -/
def ShapeRec.fmt (r : ShapeRec) : Nat := pFmt r.base

/-- Bytes of an element of a format without blocks; `raw` counts 1 (R283). -/
def elemBytes (code : Nat) : Nat := elemBits code / 8

/-- A format without blocks. -/
def isPlain (code : Nat) : Bool := !isMx code && !isSeam code

/-- The weights of one block of a seam record: its block code's, which SHSEAL has checked (R225). -/
def ShapeRec.blockN (r : ShapeRec) : Nat := seamN (pBlk r.base)

/-- The bytes that one step along dimension 0 covers: an element, an MX block, or a whole seam record. -/
def ShapeRec.unit (r : ShapeRec) : Nat :=
  if isMx r.fmt then mxBlock r.fmt
  else if isSeam r.fmt then seamRecord r.fmt r.blockN
  else elemBytes r.fmt

/-- The unit of a stride (R283). -/
def ShapeRec.u (r : ShapeRec) : Nat := if isPlain r.fmt then elemBytes r.fmt else 1

/-- The dimensions of a record. -/
def ShapeRec.dims (r : ShapeRec) : List Nat := List.range r.rank

/-- Checks 2 of R284. -/
def ShapeRec.ranksOk (r : ShapeRec) : Bool :=
  decide (1 ≤ r.rank) &&
  (List.range 7).all (fun d => if d < r.rank then r.ext d != 0 else r.ext d == 0) &&
  (List.range 7).all (fun d => d == 0 || (if d < r.rank then r.str d != 0 else r.str d == 0))

/-- The checks of SHSEAL and SHLD (R284, R225). -/
def ShapeRec.ok (r : ShapeRec) : Bool :=
  let code := r.fmt
  let b := r.base
  ptrOk b && decide (pSpace b ≤ 2) && r.ranksOk &&
  (if isPlain code then
     pAddr b % elemBytes code == 0 && (decide (r.rank < 2) || decide (r.str 1 * r.u ≥ r.ext 0 * elemBytes code))
   else if isMx code then
     r.ext 0 % 32 == 0 && (decide (r.rank < 2) || decide (r.str 1 ≥ r.ext 0 / 32 * mxBlock code))
   else
     decide (2 ≤ r.rank) && blkOk code (pBlk b) && r.ext 0 == r.blockN
       && (List.range 7).all (fun d => d == 0 || decide (r.rank ≤ d) || decide (r.str d ≥ r.unit))
       && pAddr b % 16 == 0) &&
  (if isPlain code then decide (4 ≤ elemBytes code) || decide (r.fill < 2 ^ (8 * elemBytes code)) else r.fill == 0) &&
  bitsAt r.d[4].toNat 60 4 == 0 && bitsAt r.d[5].toNat 56 8 == 0 && bitsAt r.d[6].toNat 56 8 == 0

/-- The fill value as `e` bytes: sign-extended from bit 31 for e = 8 (R283). -/
def ShapeRec.fillBytes (r : ShapeRec) : List Byte :=
  let e := elemBytes r.fmt
  bytesOf (if e = 8 then intBits 64 (signedOf 32 r.fill) else r.fill) e

/-! ## Boxes -/

/-- The positions of a box, dimension 0 innermost: (origin, extent) pairs, dimension 0 first. -/
def boxCoords : List (Int × Nat) → List (List Int)
  | [] => [[]]
  | (o, n) :: rest => (boxCoords rest).flatMap fun tail => (List.range n).map fun (i : Nat) => (o + (i : Int)) :: tail

/-- Is a position inside the extents, from dimension `d` on? -/
def ShapeRec.inside (r : ShapeRec) : Nat → List Int → Bool
  | _, [] => true
  | d, q :: qs => decide (0 ≤ q) && decide (q < (r.ext d : Int)) && r.inside (d + 1) qs

/-- A position clamped into the extents (R201, R287). -/
def ShapeRec.clamp (r : ShapeRec) : Nat → List Int → List Int
  | _, [] => []
  | d, q :: qs => max 0 (min q ((r.ext d : Int) - 1)) :: r.clamp (d + 1) qs

/-- The byte offset of a position of dimensions `d` on: dimension 0 steps by `unit` bytes. -/
def ShapeRec.offset (r : ShapeRec) : Nat → List Int → Int
  | _, [] => 0
  | d, q :: qs =>
    q * (if d = 0 then (r.unit : Int) else ((r.str d * r.u : Nat) : Int)) + r.offset (d + 1) qs

/-- The exact address of a position. -/
def ShapeRec.addrOf (r : ShapeRec) (q : List Int) : Int := (pAddr r.base : Int) + r.offset 0 q

/-- The box in units: elements, MX blocks, or whole seam blocks. -/
def ShapeRec.unitBox (r : ShapeRec) (origin : List Int) (extent : List Nat) : List (Int × Nat) :=
  match origin.zip extent with
  | [] => []
  | (o, n) :: rest =>
    (if isMx r.fmt then (o / 32, n / 32) else if isSeam r.fmt then (0, 1) else (o, n)) :: rest

/-- How many units a box holds. -/
def boxSize : List (Int × Nat) → Nat
  | [] => 1
  | (_, n) :: rest => n * boxSize rest

/-- A box's position in block units lies inside the record (R226, R278): plain boxes may lie anywhere. A box with an extent of 0 is admitted
and holds nothing, on which the manual is silent (R100; DESIGN CHOICE, assumption log 102). -/
def ShapeRec.boxOk (r : ShapeRec) (origin : List Int) (extent : List Nat) : Bool :=
  if isPlain r.fmt then true
  else
    let inExt := (List.range r.rank).all fun d =>
      decide (0 ≤ origin.getD d 0) && decide (origin.getD d 0 + (extent.getD d 0 : Int) ≤ (r.ext d : Int))
    if isMx r.fmt then origin.getD 0 0 % 32 == 0 && extent.getD 0 0 % 32 == 0 && inExt
    else origin.getD 0 0 == 0 && extent.getD 0 0 == r.blockN && inExt

/-- Where a unit of a box lies: an address, or a place outside the extents. -/
inductive BoxPlace where
  | at_ (addr : Int)
  | outside
  deriving DecidableEq, Repr, Inhabited

/-- The unit at a position when it is read: clamped where `edge` holds, else outside. CPIN and CPUSH fill
outside the extents (R100), CPOUT get follows CLIP (R287; assumption log 8). -/
def ShapeRec.readUnit (r : ShapeRec) (edge : Bool) (q : List Int) : BoxPlace :=
  if !isPlain r.fmt ∨ r.inside 0 q then .at_ (r.addrOf q)
  else if edge then .at_ (r.addrOf (r.clamp 0 q)) else .outside

/-- The unit at a position when it is written: outside the extents nothing is written (R287). -/
def ShapeRec.writeUnit (r : ShapeRec) (q : List Int) : BoxPlace :=
  if !isPlain r.fmt ∨ r.inside 0 q then .at_ (r.addrOf q) else .outside

/-- A copy's origin as signed numbers. -/
def Copy.origins (c : Copy) : List Int := c.origin.map (·.toInt)

/-- A copy's extents. -/
def Copy.extents (c : Copy) : List Nat := c.extent.map (·.toNat)

/-- A copy's positions in its units. -/
def Copy.coords (c : Copy) : List (List Int) := boxCoords (c.shape.unitBox c.origins c.extents)

/-- The bytes that a copy moves, before any split into data and scales. -/
def Copy.bytes (c : Copy) : Nat := boxSize (c.shape.unitBox c.origins c.extents) * c.shape.unit

/-- The destination pieces of a copy outside the operand slots: pointers and lengths (R286, R287). -/
def Copy.dests (c : Copy) : List (Word × Nat) :=
  match c.kind with
  | .cpin => []
  | .get => if c.bytes = 0 then [] else [(c.buf, c.bytes)]
  | .put => c.coords.filterMap fun q =>
      match c.shape.writeUnit q with
      | .at_ a => some (ptrAt c.shape.base a.toNat, c.shape.unit)
      | .outside => none

/-- The scratchpad that a pointer of core `c` names: its own in space 1, and in space 2 that of the core it names (R185, R309). -/
def scratchOwner (c : CoreId) (p : Word) : Option CoreId :=
  match pSpace p with
  | 1 => some c
  | 2 => some { tenant := c.tenant, lid := pAddr p / 2 ^ 17 }
  | _ => none

/-- Does a piece that core `c` writes cover a position of the scratchpad of `owner`? -/
def pieceCovers (c owner : CoreId) (p : Word) (n pos : Nat) : Bool :=
  scratchOwner c p == some owner && (List.range n).any fun i => swizzle (pSpan p) (pAddr p % 2 ^ 17 + i) == pos

/-- A copy in flight, of any core, writes one of `n` scratchpad bytes of `owner` from an offset (R288). -/
def State.scratchBusy (s : State) (owner : CoreId) (k o n : Nat) : Bool :=
  s.cores.any fun c => (c.task :: c.saved).any fun t => t.copies.any fun d => d.dests.any fun (p, len) =>
    (List.range n).any fun i => pieceCovers c.id owner p len (swizzle k (o + i))

end Sys2Proof.Machine
end

