-- ==== Sys2Proof/Machine/Operands.lean ====
section
/-!
DEFINITION. Operand forms of memory instructions: how an address is formed (R183, R193, R198), the checks of R184
in their order, and one access performed in its space: at the core's scratchpad, at another core's windows, or
at the line's home (R185 to R192, R309 to R315, R330).
-/
namespace Sys2Proof.Machine

/-! ## The checks of R184 -/

/-- The classes of access that spaces and page kinds tell apart (R185, R187). -/
inductive AccCls where
  | load
  | store
  | atomic
  | lease
  | engineRead
  | engineWrite
  deriving DecidableEq, Repr, Inhabited

/-- Does the class write memory? -/
def AccCls.writes : AccCls → Bool
  | .store | .atomic | .engineWrite => true
  | _ => false

/-- Does a space admit the class (R185)? Space 3 admits none of these classes: the event forms have their own
check. -/
def spaceAdmits (cls : AccCls) (space : Nat) : Bool :=
  match space with
  | 0 => true
  | 1 => cls != .lease
  | 2 => cls != .lease && cls != .atomic
  | _ => false

/-- The address lies inside its space (R185): space 0 admits every 48-bit address. -/
def inSpace (space addr : Nat) : Bool :=
  match space with
  | 0 => true
  | 1 => decide (addr < 2 ^ 17)
  | 2 => decide (addr < 2 ^ 33)
  | _ => false

/-- Checks 3 to 5 of R184 for an access whose address field is formed. `align` is its natural alignment, and
`raw` says that it is an element form, which a `raw` pointer does not admit (R195, R196). -/
def checkPtr (cls : AccCls) (p : Word) (align : Nat) (elem : Bool) : Try Unit :=
  if !ptrOk p then .cause (protect 0 p)
  else if cls.writes && isSeam (pFmt p) then .cause { code := .seamWrite, addr := p }
  else if !spaceAdmits cls (pSpace p) || !inSpace (pSpace p) (pAddr p) then .cause (protect 0 p)
  else if elem && (pFmt p == 0 || !blkOk (pFmt p) (pBlk p)) then .cause (protect 0 p)
  else if pAddr p % align ≠ 0 then .cause (protect 1 p)
  else .ok ()

/-- The page kind and rights of a leaf for a class (R187, R360). A write to a READDUP page is READDUP_WRITE,
an engine's is KIND (R340). -/
def kindCheck (cls : AccCls) (l : Leaf) (p : Word) : Try Unit :=
  match l.kind, cls with
  | .strata, _ => .cause (protect 2 p)
  | .shared, .lease | .nearmem, .lease => .ok ()
  | _, .lease => .cause (protect 2 p)
  | _, .load | _, .engineRead => .ok ()
  | .readonly, _ => .cause (protect 2 p)
  | .readdup, .engineWrite => .cause (protect 2 p)
  | .readdup, _ => .cause (protect 8 p)
  | _, _ => if l.w then .ok () else .cause (protect 3 p)

/-- Where an access goes. -/
inductive Loc where
  | scratch (off span : Nat)
  | remote (owner off span : Nat)
  | phys (leaf : Leaf) (va : Nat)
  deriving DecidableEq, Repr, Inhabited

/-- Checks 3 to 6 of R184: where an access through a pointer goes, or its cause. -/
def locate (s : State) (cls : AccCls) (p : Word) (align : Nat) (elem : Bool) : Try Loc :=
  (checkPtr cls p align elem).bind fun _ =>
  match pSpace p with
  | 0 => (xlate s (pAddr p) p).bind fun l => (kindCheck cls l p).bind fun _ => .ok (.phys l (pAddr p))
  | 1 => .ok (.scratch (pAddr p) (pSpan p))
  | _ => .ok (.remote (pAddr p / 2 ^ 17) (pAddr p % 2 ^ 17) (pSpan p))

/-! ## Windows (R309, R310) -/

/-- A window admits `n` bytes from an offset for a peer. -/
def winAdmits (w : Word) (peer o n : Nat) (write : Bool) : Bool :=
  let v := w.toNat
  let base := bitsAt v 0 11
  let limit := bitsAt v 16 12
  let rights := bitsAt v 32 2
  decide (base < limit) && decide (limit ≤ 2048) && decide (64 * base ≤ o) && decide (o + n ≤ 64 * limit)
    && (bitsAt v 48 16 == peer || bitsAt v 48 16 == 65535)
    && (if write then decide (2 ≤ rights) else rights % 2 == 1)

/-- Do the owner's windows admit an access of a peer? -/
def Task.admits (t : Task) (peer o n : Nat) (write : Bool) : Bool :=
  t.win.toList.any fun w => winAdmits w peer o n write

/-- The owner of a remote scratchpad as a core of the tenant. -/
def State.peer (s : State) (lid : Nat) : Option Core := s.findCore { tenant := s.core.id.tenant, lid := lid }

/-- WINDOW_NACK naming its target (R375). -/
def windowNack (p : Word) (owner : Nat) : Cause := { code := .windowNack, addr := p, party := owner }

/-- The membership bitmap of the router of a core holds the tenant: the core lies in the tenant's rectangle (R325, R393). A quarry or
supervisor core lies outside every rectangle, and messages to it pass unchecked. -/
def Tenancy.holdsRouter (t : Tenant) (p : CorePlace) : Bool :=
  decide (4 ≤ p.unit) || t.rects.any fun (pkg, r) =>
    pkg == p.pkg && decide (r.col ≤ p.col / 2) && decide (p.col / 2 < r.col + r.cols) && decide (r.row ≤ p.row / 4)
      && decide (p.row / 4 < r.row + r.rows)

/-- The routers take a message of the current core's tenant to a core (R325). -/
def State.routed (s : State) (k : Core) : Bool := Tenancy.holdsRouter (s.tenant s.core.id.tenant) k.place

/-- A task of the core has been pre-empted there, or has faulted, and is saved. -/
def Core.savedAway (k : Core) : Bool := k.saved.any fun t => t.st == .preempted || t.st == .faulted

/-- What the owner of a remote scratchpad answers: the task that admits the access, a NACK, or nothing while its task is away, suspended,
pre-empted, saved or faulted (R185, R310, R313; assumption log 9). A task of another launch that has taken its place does not answer for it. A message that the routers discard is answered NACK (R325). -/
def remoteCheck (s : State) (p : Word) (owner off n : Nat) (write : Bool) : Try Core :=
  match s.peer owner with
  | none => .cause (windowNack p owner)
  | some k =>
    if !s.routed k then .cause (windowNack p owner) else
    match k.task.st with
    | .none | .ended | .lost => if k.savedAway then .wait .remote else .cause (windowNack p owner)
    | .suspended | .preempted | .faulted => .wait .remote
    | .granted | .running =>
      if k.savedAway && k.task.launch != s.task.launch then .wait .remote
      else if k.task.admits s.core.id.lid off n write then .ok k else .cause (windowNack p owner)

/-- A write of a higher sender, or an access of a peer in ascending sender order behind it, has reached the scratchpad in this cycle: a write
of a lower one, or of the owner itself, comes in a later cycle (R305, R326). -/
def Task.lineLate (now lid : Nat) (t : Task) : Bool := t.xlast.any fun (c, l) => c == now && decide (lid < l)

/-- A write from outside has reached the core's scratchpad in this cycle: its own store comes in a later cycle (R326). -/
def State.ownLate (s : State) : Bool := s.task.xlast.any fun x => x.1 == s.now

/-- The owner's windows have admitted an access of a peer in this cycle, a write of it too (R326). -/
def Task.admitted (now lid : Nat) (write : Bool) (t : Task) : Task :=
  { t with wlast := some now, xlast := if write then some (now, lid) else t.xlast }

/-- A peer's access has been admitted at its owner. -/
def admitPeer (owner : Core) (write : Bool) (s : State) : State := modTaskOf owner.id (Task.admitted s.now s.core.id.lid write) s

/-! ## Accesses at the home of a line -/

/-- Through whose tokens a page's lines are reached: NEARMEM and STRATA lines at the memory home (R319). -/
def homeHolder (s : State) (k : PageKind) : Holder :=
  match k with
  | .nearmem | .strata => .home
  | _ => s.holder

/-- The L2 access that goes with an access at home: none outside a die (R319). -/
def homeTouch (h : Holder) (l : Line) (hint : Hint) (s : State) : Option State :=
  match h with
  | .die p d => touchL2 p d l hint s
  | .home => some (dropCopies l s)

/-- A read of `n` bytes at the home of their line (R188, R348, R356, R398): the state after it and the bytes. -/
def homeRead (s : State) (leaf : Leaf) (va n : Nat) (hint : Hint) (p : Word) : Try (State × List Byte) :=
  let pa := leaf.pa va
  let l := lineOf leaf.pkg pa
  let h := homeHolder s leaf.kind
  let ls := s.line l
  if !s.lineFree l h then .wait (.queued l h)
  else match (ls.served s.core.id).gatherRead h with
    | none => .wait (.home l h false)
    | some ls' =>
      let uses := if leaf.kind = .readonly ∨ leaf.kind = .readdup then [] else [StampUse.read]
      (stampUses s.task s.core.id.lid p uses (ls'.at_ h).stamp).bind fun st =>
        if ls.poison then .cause (memUe p)
        else match homeTouch h l hint (s.setLine l (ls'.setStamp h st)) with
          | none => .wait .stall
          | some s' => .ok (s', s.readPhys leaf.pkg pa n)

/-- The bytes after a store's data is applied to the old ones. -/
def StoreData.apply (d : StoreData) (old : List Byte) : List Byte :=
  match d.nib with
  | none => d.bytes
  | some sh =>
    match old, d.bytes with
    | [o], [b] =>
      let keep := o.toNat - o.toNat / 2 ^ sh % 16 * 2 ^ sh
      [BitVec.ofNat 8 (keep + b.toNat % 16 * 2 ^ sh)]
    | _, bs => bs

/-- A line's bytes changed at home by one store, with the owner's dirty flag where a die holds it; a whole line clears the
poison (R348, R349, R356). -/
def applyStore (pkg pa : Nat) (d : StoreData) (s : State) : State :=
  let l := lineOf pkg pa
  let ls := s.line l
  let s := s.writePhys pkg pa (d.apply (s.readPhys pkg pa d.bytes.length))
  s.setLine l { ls with dirty := !ls.homeOwner, poison := ls.poison && decide (d.bytes.length < 64) }

/-- The causes of a line's poison at a store (R192): held for the next release, and the store writes nothing. -/
def holdCause (c : Cause) (s : State) : State := s.modTask fun t => { t with held := t.held ++ [{ c with async := true }] }

/-- The effects of a store on L1 copies: the core's own copy is updated (R314) and moves by the store's hint (R317), and copies of the
line under other virtual tags of the bench leave (R363). -/
def storeL1 (leaf : Leaf) (va : Nat) (d : StoreData) (hint : Hint) (s : State) : State :=
  let s := l1StoreHit hint va (reverseMap (lineOf leaf.pkg (leaf.pa va)) s.asid (va / 64) s)
  { s with core := l1Store s.asid va d.bytes.length d.apply s.core }

/-- A store that its home cannot perform yet waits there, and its core goes on (R187, R192, R332). A home that lacks tokens asks for them
(R348, R350). -/
def queueStore (l : Line) (h : Holder) (leaf : Leaf) (va : Nat) (d : StoreData) (hint : Hint) (strong : Bool) (lane : Nat) (p : Word)
    (s : State) : State :=
  let s := joinQueue l h (leaf.pa va % 64) p leaf.size (.store d) hint strong lane (storeL1 leaf va d hint s)
  if ((s.line l).gatherWrite h).isNone then askFor l h true s else s

/-- A store at the home of its line (R187, R188, R192, R332, R348). One that meets a pin, a lease of another core, requests before it,
or a home without tokens or a free way joins the line's queue, and the core goes on; a replayed store (`sync`) and
any store of a DETERMINATE launch wait. `lane` is the lane of a scatter. -/
def homeStore (s : State) (leaf : Leaf) (va : Nat) (d : StoreData) (hint : Hint) (strong : Bool) (p : Word) (sync : Bool := false)
    (lane : Nat := 0) : Try State :=
  let pa := leaf.pa va
  let l := lineOf leaf.pkg pa
  let h := homeHolder s leaf.kind
  let ls := s.line l
  let later (w : Wait) : Try State := if sync || s.task.determinate then .wait w else .ok (queueStore l h leaf va d hint strong lane p s)
  if !s.lineFree l h then later (.queued l h)
  else match (ls.served s.core.id).gatherWrite h with
    | none => later (.home l h true)
    | some ls' =>
      (stampUses s.task s.core.id.lid p [.write] (ls'.at_ h).stamp).bind fun st =>
        if ls.poison && decide (d.bytes.length < 64) then .ok (holdCause { memUe p with lane := lane } s)
        else match homeTouch h l hint (s.setLine l (ls'.setStamp h st)) with
          | none => later .stall
          | some s' => .ok (storeL1 leaf va d hint (applyStore leaf.pkg pa d s'))

/-! ## Loads -/

/-- Is an access of the kind allocated in the L1 (R314)? -/
def inL1 (k : PageKind) : Bool :=
  match k with
  | .priv | .readonly | .readdup => true
  | _ => false

/-- A load of a space-0 address: from the L1 where the core holds the line, else at home with a fill
(R314, R317, R330, R399). A strong load and a `.byp` load are read at home (assumption log 10). -/
def loadPhys (s : State) (leaf : Leaf) (va n : Nat) (st : Strength) (hint : Hint) (p : Word) :
    Try (State × List Byte) :=
  let s := noteTlb va leaf s
  if st = .weak ∧ hint ≠ .byp ∧ inL1 leaf.kind then
    match l1Find s.core s.asid s.now va with
    | some e => if e.bad then .cause (memUe p) else .ok (l1Hit hint e va s, (e.bytes.drop (va % 64)).take n)
    | none =>
      (homeRead s leaf (va / 64 * 64) 64 hint p).bind fun (s', bs) =>
        let e : L1Line :=
          { tag := va / 64, asid := s'.asid, size := leaf.size, line := lineOf leaf.pkg (leaf.pa va), bytes := bs, filled := s'.now, sticky := false, priv := leaf.kind == .priv }
        .ok (l1Fill hint e va s', (bs.drop (va % 64)).take n)
  else homeRead s leaf va n hint p

/-- Does a strong access of the scope acquire (R315)? -/
def acquires : Strength → Bool
  | .strong .core => false
  | .strong _ => true
  | .weak => false

/-- Is the access strong? -/
def isStrong : Strength → Bool
  | .strong _ => true
  | .weak => false

/-- A strong store or a reduction of the core still waits at some line's home, or for a page that moves (R206, R222). -/
def State.strongWaits (s : State) : Bool :=
  !s.core.moved.isEmpty || s.lines.any fun (_, ls) => ls.queue.any fun r => r.who == s.core.id && !r.again && r.strong

/-- A strong load waits while the replay queue holds a strong store, or one waits at its home: strong accesses keep program order (R192,
R329). -/
def loadGate (s : State) (st : Strength) : Try Unit :=
  if isStrong st && (s.task.replay.any (·.strong) || s.strongWaits) then .wait .stall else .ok ()

/-- The 64 KiB page of an address, as a page request names it. -/
def pageOf (va : Nat) : Nat := va / 65536 * 65536

/-- Does the replay queue hold a store to the page? -/
def Task.parkedPage (t : Task) (page : Nat) : Bool := t.replay.any fun e => e.page == page || pageOf (pAddr e.ptr) == page

/-- The core has a reduction to the page that waits for the page's move (R208). -/
def State.movedPage (s : State) (page : Nat) : Bool := s.core.moved.any fun m => pageOf (pAddr m.ptr) == page

/-- A core never passes its own parked store, nor a reduction that was answered MOVED: until it is performed, it waits (R191, R208, R223). -/
def parkGate (s : State) (va : Nat) : Try Unit :=
  if s.task.parkedPage (pageOf va) || s.movedPage (pageOf va) then .wait .stall else .ok ()

/-- `n` bytes loaded through a pointer: checks 3 to 9 of R184 and the access itself. -/
def loadAt (s : State) (p : Word) (n align : Nat) (elem : Bool) (st : Strength) (hint : Hint) :
    Try (State × List Byte) :=
  (locate s .load p align elem).bind fun loc =>
  match loc with
  | .scratch o k =>
    if o + n > 2 ^ 17 then .cause (protect 0 p)
    else if s.scratchBusy s.core.id k o n then .wait .stall
    else if spUe s.task k o n then .cause (memUe p)
    else .ok (s, spRead s.task k o n)
  | .remote w o k =>
    if o + n > 2 ^ 17 then .cause (protect 0 p)
    else (remoteCheck s p w o n false).bind fun owner =>
      if s.scratchBusy owner.id k o n then .wait .stall
      else if spUe owner.task k o n then .cause (memUe p)
      else .ok (admitPeer owner false s, spRead owner.task k o n)
  | .phys leaf va => (parkGate s va).bind fun _ => loadPhys s leaf va n st hint p

/-- A load that a strong access orders: what the acquire does follows the access (R315). -/
def afterLoad (st : Strength) (s : State) : State := if acquires st then acquire s else s

/-! ## Stores and the replay queue (R191) -/

/-- A store parked in the replay queue. -/
def park (e : Parked) (s : State) : State := s.modTask fun t => { t with replay := t.replay ++ [e] }

/-- A message to another core of the launch, whose task there may be saved, sets the sender's sent bit (R63). -/
def markSent (owner : Core) (s : State) : State :=
  s.modTask fun t => { t with sent := t.sent || (owner.id != s.core.id && (owner.task :: owner.saved).any fun u => u.launch == t.launch) }

/-- A store's bytes written into a scratchpad. -/
def spStore (k o : Nat) (d : StoreData) (t : Task) : Task :=
  { t with scratch := spWrite k o (d.apply (spRead t k o d.bytes.length)) t.scratch, scratchBad := spHeal t k o d.bytes.length }

/-- A store through a pointer that is never parked: checks 3 to 9 of R184 and the access itself. -/
def storeAt (s : State) (p : Word) (d : StoreData) (align : Nat) (elem strong : Bool) (hint : Hint) (sync : Bool := false) (lane : Nat := 0) :
    Try State :=
  let n := d.bytes.length
  (locate s .store p align elem).bind fun loc =>
  match loc with
  | .scratch o k =>
    if o + n > 2 ^ 17 then .cause (protect 0 p)
    else if s.ownLate then .wait .stall
    else if spSpoils s.task k o n d.nib.isSome then .cause (memUe p)
    else .ok (s.modTask (spStore k o d))
  | .remote w o k =>
    if o + n > 2 ^ 17 then .cause (protect 0 p)
    else (remoteCheck s p w o n true).bind fun owner =>
      if owner.task.lineLate s.now s.core.id.lid then .wait .stall
      else if spSpoils owner.task k o n d.nib.isSome then .cause (memUe p)
      else .ok (arrival s.task.launch owner.id (markSent owner (admitPeer owner true (modTaskOf owner.id (spStore k o d) s))))
  | .phys leaf va =>
    if s.movedPage (pageOf va) then .wait .stall else homeStore (noteTlb va leaf s) leaf va d hint strong p sync lane

/-- What becomes of a store that completes at once or parks (R191, R340): the state after the instruction. -/
inductive StoreEnd where
  | done (s : State)
  /-- the store has completed for the program, and a cause with the next instruction's address follows -/
  | parked (s : State) (c : Cause)
  deriving Repr

/-- A store that has met the page fault `c` parks while the queue of 8 has room. The first for its page takes the upcall with the next
instruction's address (R191). -/
def parkAbsent (e : Parked) (c : Cause) (s : State) : Try StoreEnd :=
  if 8 ≤ s.task.replay.length then .cause c
  else if s.task.parkedPage e.page then .ok (.done (park e s))
  else if s.task.traps c = false ∧ s.task.requests.length ≥ 16 then .wait .notice
  else .ok (.parked (park e s) { code := .pageFault, sub := 1, addr := c.addr, parked := true })

/-- A store that has met a READDUP page parks while the queue of 8 has room, and traps with the next instruction's address (R340). -/
def parkReaddup (e : Parked) (s : State) : Try StoreEnd :=
  if 8 ≤ s.task.replay.length then .cause (protect 8 e.ptr)
  else .ok (.parked (park e s) { code := .protect, sub := 8, addr := e.ptr, parked := true, entry := s.task.replay.length })

/-- A store that may park. A page fault or a READDUP page parks it while the queue of 8 has room; a younger
store to a page with a parked store parks behind it (R191, R340). -/
def storePark (s : State) (p : Word) (d : StoreData) (align : Nat) (elem strong : Bool) (hint : Hint) :
    Try StoreEnd :=
  let room := decide (s.task.replay.length < 8)
  let entry (readdup : Bool) : Parked := { page := pageOf (pAddr p), ptr := p, data := d, hint := hint, strong := strong, readdup := readdup }
  match storeAt s p d align elem strong hint with
  | .cause c =>
    if c.code = .pageFault then parkAbsent (entry false) c s
    else if c.code = .protect ∧ c.sub = 8 then parkReaddup (entry true) s
    else .cause c
  | .wait w => .wait w
  | .ok s' =>
    if pSpace p = 0 ∧ s.task.parkedPage (pageOf (pAddr p)) then
      if room then .ok (.done (park (entry false) s)) else .wait .stall
    else .ok (.done s')

/-- A store instruction ends: it advances, or it advances and then takes the cause of its parking with the next
instruction's address (R191). -/
def endStore (r : Try StoreEnd) (s : State) : State :=
  match r with
  | .ok (.done s') => adv s'
  | .ok (.parked s' c) => let s' := adv s'; deliver c s'.task.pc s'
  | .cause c => settle (.cause c) s
  | .wait w => settle (.wait w) s

/-- What STF writes for an MX element: the scale byte of its block is read first (R196; assumption log 13). -/
def mxData (s : State) (code : Nat) (block : Word) (nib : Option Nat) (x : Nat) : Try (State × StoreData × Flags) :=
  (loadAt s block 1 1 true .weak .byp).bind fun (s1, sc) =>
    let r := mxEnc code (leOf sc) (fdecode fmtF32 x)
    .ok (s1, { bytes := bytesOf r.1 1, nib := nib }, r.2)

/-! ## Releases (R192) -/

/-- Does a store or reduction of the core still wait, at some line's home or for a page that moves? -/
def State.storesWait (s : State) : Bool :=
  !s.core.moved.isEmpty || s.lines.any fun (_, ls) => ls.queue.any fun r => r.who == s.core.id && !r.again

/-- An instruction that waits until the core's parked and queued stores are performed. -/
def drainThen (k : State → State) (s : State) : State :=
  if !s.task.replay.isEmpty || s.storesWait then settle (.wait .stall) s else k s

/-- A release: it waits until the core's parked and queued stores are performed, then delivers a cause held for
it, with its own address, and else acts (R192, R207, R338). -/
def releaseThen (k : State → State) (s : State) : State :=
  drainThen (fun s => match s.task.held with
    | c :: rest => raise c (s.modTask fun t => { t with held := rest })
    | [] => k s) s

/-! ## DETERMINATE launches (R396) -/

/-- DET_VIOLATION with a subcode. -/
def detViolation (sub : Nat) : Cause := { code := .detViolation, sub := sub }

/-! ## Elements of a format (R193 to R196) -/

/-- The pointer to element `j` and, for a block format, to its block's scale byte or record, as exact addresses
(R193, R238). The answer is the element's pointer, its bit within the byte, and the block's pointer. -/
structure ElemPlace where
  ptr   : Word
  bit   : Nat
  block : Word
  index : Nat
  deriving DecidableEq, Repr, Inhabited

/-- Where element `j` of a pointer lies: check 2 of R184 (R193). The access through the address checks the rest, the block length among
it (R194); a format that has no such element has no address to check. -/
def elemPlace (cls : AccCls) (p : Word) (j : Int) : Try ElemPlace :=
  let code := pFmt p
  let a : Int := pAddr p
  if isPlain code then
    (ptrTo p (a + j * (elemBytes code : Int))).bind fun q => .ok { ptr := q, bit := 0, block := q, index := 0 }
  else if isMx code ∧ 0 ≤ j then
    let (byte, bit, scale) := mxPlace code j.toNat
    (ptrTo p (a + byte)).bind fun q => (ptrTo p (a + scale)).bind fun b => .ok { ptr := q, bit := bit, block := b, index := j.toNat }
  else if isSeam code ∧ 0 ≤ j then
    let n := seamN (pBlk p)
    let rec_ := seamRecord code n
    (ptrTo p (a + (j.toNat / n * rec_ : Nat))).bind fun b =>
    (ptrTo p (a + (j.toNat / n * rec_ + rec_ - 1 : Nat))).bind fun _ =>
      .ok { ptr := b, bit := 0, block := b, index := j.toNat % n }
  else if !ptrOk p then .cause (protect 0 p)
  else if cls.writes && isSeam code then .cause { code := .seamWrite, addr := p }
  else .cause (protect 0 p)

/-- Seam records read byte by byte: only the bytes that a window covers and the scale (R224). -/
def loadBytes (s : State) (st : Strength) (hint : Hint) : List Word → Try (State × List Byte)
  | [] => .ok (s, [])
  | p :: ps =>
    (loadAt s p 1 1 false st hint).bind fun (s1, b) =>
      (loadBytes s1 st hint ps).bind fun (s2, bs) => .ok (s2, b ++ bs)

/-- The stream bytes that weight `k`'s window reads, by number (R224). -/
def windowBytes (code n k : Nat) : List Nat :=
  let (st, v) := seamSV code
  let start := k / v * st
  let m := seamBits code n / 8
  (List.range (if start % 8 = 0 then 2 else 3)).map fun i => (start / 8 + i) % m

/-- The value of an element loaded through a pointer, with the flags of its making (R195, R227, R238). -/
def loadElem (s : State) (p : Word) (j : Int) (st : Strength) (hint : Hint) : Try (State × FVal × Flags × Option Nat) :=
  let code := pFmt p
  (elemPlace .load p j).bind fun e =>
  if isSeam code then
    (checkPtr .load e.ptr 1 true).bind fun _ =>
    let n := seamN (pBlk p)
    let ws := windowBytes code n e.index
    let sc := seamBits code n / 8
    (loadBytes s st hint ((ws ++ [sc, sc + 1]).map fun i => ptrAt e.block (pAddr e.block + i))).bind fun (s', bs) =>
      let byte (i : Nat) : Nat :=
        match ws.findIdx? (· == i) with
        | some ix => (bs.getD ix 0).toNat
        | none => 0
      let (v, f) := seamVal (seamWeight8 code n byte e.index) (leOf (bs.drop ws.length))
      .ok (s', v, f, none)
  else if isMx code then
    (loadAt s e.ptr 1 1 true st hint).bind fun (s1, b) =>
    (loadAt s1 e.block 1 1 true st hint).bind fun (s2, sc) =>
      .ok (s2, mxVal code (leOf b / 2 ^ e.bit % (if code = 15 then 16 else 256)) (leOf sc), 0, none)
  else
    (loadAt s e.ptr (elemBytes code) (elemBytes code) true st hint).bind fun (s', b) =>
      .ok (s', elemVal s.task.dta s.task.dtb code (leOf b), 0, if code = 1 then some (leOf b) else none)

/-- The FP32 pattern that LDF writes, with flags: an FP32 element is copied unchanged (R195, R196). -/
def elemPattern (v : FVal) (f : Flags) (raw : Option Nat) : Nat × Flags :=
  match raw with
  | some b => (b, 0)
  | none => frne fmtF32 (v, f)

end Sys2Proof.Machine
end

