-- ==== Sys2Proof/Machine/Fetch.lean ====
section
/-!
DEFINITION. Which core may issue (R34, R42), fetching its word (R129, R360), the repetition buffer's next word
(R162), and the passing of cycles (R172, R390).
-/
namespace Sys2Proof.Machine

/-- A package that runs: it has booted and has not shut down (R408, R414). -/
def Package.runs (p : Package) : Bool := p.up && !p.stopped && p.haltStep == 0

/-- A package that has halted for good (R408, R414). -/
def Package.halted (p : Package) : Bool := p.stopped || p.haltStep != 0

/-- Every package that the domain knows has halted. -/
def State.halted (s : State) : Bool := !s.pkgs.isEmpty && s.pkgs.all fun (_, p) => p.halted

/-- The task's XSEND has not completed: its last line leaves in this cycle or later (R295, R304). -/
def Task.sending (t : Task) (now : Nat) : Bool :=
  match t.xphase with
  | some x => x.leaving.any fun last => now ≤ last
  | none => false

/-- The phase's last reserved cycle has passed (R294, R299). -/
def XPhase.over (now : Nat) (x : XPhase) : Bool := x.passed || x.zero.any fun z => decide (z + x.lastCycle < now)

/-- A phase that is armed and has time still reserved (R294, R299). -/
def Task.reserved (now : Nat) (t : Task) : Bool := t.xphase.any fun x => !x.over now

/-- Another task's armed phase has still to send lines to the current core, or some are on their way (R299, R303). -/
def State.expects (s : State) : Bool :=
  let me := s.core.id
  s.task.xphase.isSome &&
    (s.cores.any (fun k => k.id.tenant == me.tenant && k.task.xphase.any fun x =>
        x.entries.any (fun e => e.dest == me.lid) || x.out.any fun o => o.dest == me.lid && decide (o.next < o.lines))
      || s.net.any fun m => match m with
        | .xline _ target _ _ _ _ => target == me
        | _ => false)

/-- The current core's phase is not over: it has time still reserved, or lines to receive. -/
def State.phaseOpen (s : State) : Bool := s.task.reserved s.now || s.expects

/-- A task that waits for its turn: it is SUSPENDED and its awaited condition, if any, holds. -/
def Task.ready (t : Task) : Bool :=
  t.st == .suspended && match t.wait with
    | .await n b => ctrReached t.c[n] (b.setWidth 64)
    | _ => true

/-- The task's turn goes on, and no AWAIT of it is open (R167). -/
def Task.goesOn (now : Nat) (t : Task) : Bool :=
  (t.draining.isNone || t.reserved now) && !t.sending now && match t.wait with
    | .await _ _ => false
    | _ => true

/-- A member of the current core's gang is there: its task runs, or waits for its turn on a physical core that it shares with another
member (R43, R166, R167). -/
def State.memberHere (s : State) (c : CoreId) : Bool :=
  match s.findCore c with
  | none => false
  | some k => !k.saved.any (Task.inGang s.task.launch) &&
      ((k.task.st == .running && k.task.goesOn s.now) ||
       (k.task.ready && s.gangMembers.any fun d => (s.findCore d).any (samePlace k)))

/-- The gang lets the task issue: it has not completed the gang's current instruction, and a new one begins only
while every member is there (R42, R166). -/
def State.gangMayIssue (s : State) : Bool :=
  let t := s.task
  t.gang == 0 ||
    (!t.gangDone &&
      (s.gangMembers.any (fun c => c ≠ s.core.id ∧ (s.findCore c).isSome ∧ s.memberDone c) || s.gangMembers.all s.memberHere))

/-- How far a repetition body has issued: its repetition and word. A body that does not run is behind none. -/
def RepBuf.behind (a b : RepBuf) : Bool := a.running && (decide (a.rep < b.rep) || (a.rep == b.rep && decide (a.nextw < b.nextw)))

/-- The gang lets the task issue its next body word: every member has completed REP, and none has still to complete an earlier word (R42).
-/
def State.gangBodyMayIssue (s : State) : Bool :=
  s.task.gang == 0 || !s.task.rep.fresh && s.gangMembers.all fun c => (s.findCore c).all fun k =>
    !k.task.rep.behind s.task.rep && !k.saved.any fun t => t.inGang s.task.launch && t.rep.behind s.task.rep

/-- Where the current core's die has fenced itself for a launch (R60). -/
def State.fencedFor (s : State) (n : Nat) : Bool :=
  match s.launch? n, s.core.place.die with
  | some l, some d => l.dies.any fun v => v.rank == dieRank s.core.place.pkg d && v.fenced
  | _, _ => false

/-- Where the current core's die has fenced itself for its task's launch. -/
def State.fenced (s : State) : Bool := s.fencedFor s.task.launch

/-- The task is at an instruction boundary, or in a wait that an interrupt abandons. -/
def Task.interruptible (t : Task) : Bool :=
  t.st == .running && t.draining.isNone && match t.wait with
    | .none | .idle | .term _ | .level _ _ _ => true
    | _ => false

/-- A completion interrupt is to be taken before the next instruction issues (R378); an asynchronous cause of the same boundary comes first
(R401). -/
def State.interruptDue (s : State) : Bool :=
  let t := s.task
  t.interruptible && t.asyncs.isEmpty && t.uipend != 0 && t.uivec != 0 && t.handling == .none && !t.gangDone && !t.sending s.now

/-- The first asynchronous cause is that of a parked store, for which a release may be waiting (R340). -/
def Task.parkedCause (t : Task) : Bool := t.asyncs.head?.any (·.parked) && t.wait == .stall && t.fusing == 0

/-- An asynchronous cause is to be delivered before the next instruction issues (R168, R273); that of a parked store also while the
instruction waits for its replay (R192, R340). -/
def State.asyncDue (s : State) : Bool :=
  let t := s.task
  !t.asyncs.isEmpty && (t.interruptible || (t.st == .running && t.draining.isNone && (t.wait == .exit || t.parkedCause))) && !t.gangDone
    && !t.sending s.now

/-- The task issues at all: it runs, its turn goes on, and its package and die do. An armed exchange phase defers the end of a turn
(R299, R384). -/
def State.issues (s : State) : Bool :=
  s.task.st == .running && (s.task.draining.isNone || s.phaseOpen) && (s.pkg s.core.place.pkg).runs && !s.fenced

/-- The current core may issue its next scalar instruction: none behind an XSEND, of a body too, that has not completed (R304). -/
def State.mayIssue (s : State) : Bool :=
  s.issues && s.task.wait.reissues && !s.task.sending s.now && s.task.rep.wait != .slot && !s.interruptDue && !s.asyncDue && s.gangMayIssue

/-- The current core may issue the next word of its repetition body (R113). -/
def State.mayIssueBody (s : State) : Bool :=
  s.issues && s.task.rep.running && s.task.rep.wait.reissues && !s.task.sending s.now && s.gangBodyMayIssue

/-- The instruction cache's line for an address. -/
def iFind (k : Core) (asid va : Nat) : Option ILine :=
  k.icache.find? fun e => e.tag == va / 64 && e.asid == asid

/-- The word at an address: the translation and rights of R360, then the instruction cache or the line's
home. An address that is no multiple of 4, as UPRET may leave one, is fetched from as it is, within its line (R177; DESIGN CHOICE, assumption
log 108). -/
def fetchAt (s : State) (pc : Word) : Try (State × Nat) :=
  if pc.toNat ≥ 2 ^ 48 then .cause (protect 3 pc)
  else (xlate s pc.toNat pc).bind fun leaf =>
    if !leaf.x then .cause (protect 3 pc)
    else
      let s := noteTlb pc.toNat leaf s
      let word (bs : List Byte) : Nat := leOf ((bs.drop (pc.toNat % 64)).take 4)
      match iFind s.core s.asid pc.toNat with
      | some e => if e.bad then .cause (memUe pc) else .ok (s, word e.bytes)
      | none =>
        (homeRead s leaf (pc.toNat / 64 * 64) 64 .dflt pc).bind fun (s', bs) =>
          let e : ILine := { tag := pc.toNat / 64, asid := s'.asid, bytes := bs }
          .ok ({ s' with core := { s'.core with icache := (e :: s'.core.icache).take 256 } }, word bs)

/-- The word at the program counter. -/
def fetch (s : State) : Try (State × Nat) := fetchAt s s.task.pc

/-- The formats that a body admits: VEC and ENG words (R125, R163). -/
def bodyMajor (w : Nat) : Bool :=
  let m := w / 2 ^ 26
  (decide (0x28 ≤ m) && decide (m ≤ 0x2E)) || m == 0x30

/-- A body word as repetition `j` issues it: the advanced register fields of R162. -/
def stagger (r : RepBuf) (j w : Nat) : Nat :=
  let plus (lo step : Nat) (w : Nat) : Nat :=
    let f := w / 2 ^ lo % 32
    w - f * 2 ^ lo + (f + j * step) % 32 * 2 ^ lo
  if w / 2 ^ 26 = 0x30 then plus 11 r.sa (plus 6 r.sb w)
  else plus 21 r.sd (plus 16 r.sa (plus 11 r.sb w))

/-- The instruction that a running buffer issues next; REP has checked that it decodes (R163). -/
def RepBuf.instr (r : RepBuf) : Instr :=
  match decodeWord (stagger r r.rep (r.words.getD r.nextw 0)) with
  | .ok i => i
  | .error _ => .illegalInstruction

/-- The current task issues: its cycles count from now on (R172). -/
def State.begin (s : State) : State := s.modTask fun t => { t with begun := true }

/-- The current instruction is a word of the repetition body. -/
def State.enterBody (s : State) : State := s.modTask fun t => { t with inBody := true, wait := t.rep.wait, rep := { t.rep with wait := t.wait } }

/-- The body word has issued, or waits. A cause has left the body already. -/
def State.leaveBody (s : State) : State :=
  s.modTask fun t => if t.inBody then { t with inBody := false, wait := t.rep.wait, rep := { t.rep with wait := t.wait } } else t

/-! ## The scalar flow beside a body (R113, R165) -/

/-- The words that a buffer has still to issue, as its repetitions issue them: fields repeat with a period of 32 (R163). -/
def RepBuf.left (r : RepBuf) : List Nat :=
  ((List.range (min (r.total - r.rep) 33)).flatMap fun j => r.words.map (stagger r (r.rep + j))).drop r.nextw

/-- A five-bit field of a word. -/
def regField (w lo : Nat) : Nat := w / 2 ^ lo % 32

/-- The scalar register that a body word writes, if any. -/
def bodyWritesX (w : Nat) : Option Reg :=
  match decodeWord w with
  | .ok (.kmovToX d _) => some d
  | .ok (.mgr d _) => some d
  | .ok (.vmovx d _ _ _) => some d
  | .ok (.chsub d _ _ _) => some d
  | .ok (.chpoll d _) => some d
  | .ok (.kick a _) => some a
  | .ok (.waitl _ d) => some d
  | _ => none

/-- The shape record that a body word writes, if any (R113). -/
def bodyWritesSh (w : Nat) : Option R16 :=
  match decodeWord w with
  | .ok (.shw _ _ n) | .ok (.shseal n) | .ok (.shld _ n) => some n
  | _ => none

/-- The shape record and the first coordinate register of a tensor access (R201). -/
def tensorUse : Instr → Option (R16 × Reg)
  | .tld _ c n | .tst _ c n => some (n, c)
  | _ => none

/-- The vector registers that a body word may write, and those that it may read. -/
def bodyV (w : Nat) : List Nat × List Nat :=
  if w / 2 ^ 26 = 0x30 then
    match decodeWord w with
    | .ok (.mread _ v _) => ([v.val], [])
    | .ok (.mwrite _ v _) => ([], [v.val])
    | _ => ([], [])
  else ([regField w 21, (regField w 21 + 1) % 32], [regField w 21, regField w 16, regField w 11])

/-- The vector registers that an instruction of the memory side writes and reads. -/
def memV : Instr → List Nat × List Nat
  | .vld d _ _ _ _ => ([d.val], [])
  | .vst v _ _ _ _ => ([], [v.val])
  | .vgather d _ b _ _ => ([d.val], [b.val])
  | .vscatter v _ b _ _ => ([], [v.val, b.val])
  | .tld v _ _ => ([v.val], [])
  | .tst v _ _ => ([], [v.val])
  | .ldt v _ _ _ | .ldtn v _ _ _ => ([v.val], [])
  | .stt v _ _ => ([], [v.val])
  | _ => ([], [])

/-- Instructions that issue only after every repetition of a running body: those of R165, EXIT, the accesses of FSTAT, which the body
writes, and DTLD, whose tables the body reads (R176). -/
def awaitsBody : Instr → Bool
  | .rep _ _ _ _ _ | .fuse _ | .split | .exit | .sysr _ .fstat | .sysw _ .fstat | .dtld _ _ | .dtldInt8 _ | .dtldE4m3 _ | .dtldE5m2 _ => true
  | _ => false

/-- A word of the scalar flow is held back by a running body: it is a vector or engine word (R113), waits for the whole body (R165), or
depends on a register that the body has still to read or write: of a tensor access its coordinates, of which a record has at most 8, and its
record too (R201, R251). -/
def RepBuf.holds (r : RepBuf) (w : Nat) : Bool :=
  r.running && (bodyMajor w || match decodeWord w with
    | .error _ => false
    | .ok i =>
      let coords := match tensorUse i with
        | some (_, c) => (List.range 8).map fun d => (regPlus c d).val
        | none => []
      let mine := [regField w 21, regField w 16, regField w 11, regField w 6] ++ coords
      let (wr, rd) := memV i
      awaitsBody i || r.left.any fun u =>
        (bodyWritesX u).any (fun d => d.val != 0 && mine.contains d.val)
          || (bodyWritesSh u).any (fun n => (tensorUse i).any fun t => t.1 == n)
          || wr.any (fun v => (bodyV u).1.contains v || (bodyV u).2.contains v) || rd.any (bodyV u).1.contains)

/-- A word of the scalar flow is held back by a running body of the task, or of a member of its gang, which begins each instruction together
(R42, R113). -/
def State.bodyHolds (s : State) (w : Nat) : Bool :=
  s.task.rep.holds w || s.gangMembers.any fun c => (s.findCore c).any fun k =>
    k.task.inGang s.task.launch && k.task.rep.holds w || k.saved.any fun t => t.inGang s.task.launch && t.rep.holds w

/-- Cycles that a task spends RUNNING (R172, R390). -/
def Task.tick (n : Nat) (t : Task) : Task :=
  if t.st = .running then
    { t with cycle := if t.begun then t.cycle + BitVec.ofNat 64 n else t.cycle, ran := t.ran + n, slice := t.slice + n }
  else t

/-- The lines of the current core's send that have left by cycle `now`, with the bytes of its scratchpad as they stand (R295, R339). A send
that meets an uncorrectable error in the scratchpad gives its receiver no receipt, and its task takes MEM_UE (R412; DESIGN CHOICE, assumption
log 99). -/
def emitLines (now : Nat) (s : State) : State :=
  match s.task.xphase with
  | none => s
  | some x => match x.out with
    | none => s
    | some o =>
      let n := min o.lines (now + 1 - o.first)
      let bad := spUe s.task (pSpan o.src) (pAddr o.src + 64 * o.next) (64 * (n - o.next))
      let ms := (List.range (n - o.next)).map fun (j : Nat) =>
        let i := o.next + j
        Msg.xline s.core.id { tenant := s.core.id.tenant, lid := o.dest } (o.off + 64 * i)
          (spRead s.task (pSpan o.src) (pAddr o.src + 64 * i) 64) (o.lines - 1 - i) (o.good && !bad)
      if n ≤ o.next then s
      else
        let out := if n = o.lines then none else some { o with next := n, good := o.good && !bad }
        let late := if bad then [{ memUe o.src with engine := 3, async := true }] else []
        { s.modTask fun t => { t with xphase := some { x with out := out }, asyncs := t.asyncs ++ late } with net := s.net ++ ms }

/-- Every core of a running package whose send has lines that leave by cycle `now`. -/
def emitAll (now : Nat) (s : State) : State :=
  onCores (emitLines now) ((s.cores.filter fun k => (s.pkg k.place.pkg).runs && k.task.xphase.any fun x => x.out.isSome).map (·.id)) s

/-- A core over which cycles pass: a module that has stopped counts none (R414). -/
def Core.passes (s : State) (n : Nat) (k : Core) : Core := if (s.pkg k.place.pkg).runs then { k with task := k.task.tick n } else k

/-- Cycles pass in the domain, each of the length that the throttle step gives it (R413). -/
def tick (n : Nat) (s : State) : State :=
  let s := emitAll (s.now + n) s
  { s with
    now := s.now + n
    time := s.time + n * (timeUnit / (80 - s.k))
    core := s.core.passes s n
    others := s.others.map fun (i, k) => (i, k.passes s n) }

/-- The state with a word where the current core fetches next, and all that this takes: the package runs, the
core's task runs and waits for nothing, its page translates to an executable frame, no cache holds the page, and
the schedule lets the core issue (assumption log 11). -/
def placeWord (s : State) (w : Nat) : State :=
  let pc := s.task.pc.toNat % 2 ^ 48
  let page := pc / 65536 * 65536
  let leaf : Leaf := { kind := .readonly, tier := false, x := true, w := false, pkg := s.core.place.pkg, addr := 0, size := 65536 }
  let task : Task :=
    { s.task with st := .running, pc := BitVec.ofNat 64 pc, wait := .none, gang := 0, gangDone := false, inBody := false, rep := {}, draining := none }
  let key := s.core.place.tlb
  let es := (mapGet [] s.tlbs key).filter fun e => !(e.va / 65536 == page / 65536)
  let s : State :=
    { s with
      core := { s.core with task := task, icache := [] }
      tlbs := mapSet [] s.tlbs key ({ asid := s.asid, va := page, leaf := leaf } :: es)
      agenda := [.issue s.core.id] }
  let s := s.modPkg s.core.place.pkg fun p => { p with up := true, stopped := false, haltStep := 0 }
  let s := s.setLine (lineOf s.core.place.pkg (pc % 65536)) (({ homeCount := 0, homeOwner := false } : LineState).put
    { holder := s.holder, count := 16, owner := true, data := true, stamp := none })
  s.writePhys s.core.place.pkg (pc % 65536) (bytesOf w 4)

end Sys2Proof.Machine
end

