-- ==== Sys2Proof/Machine/Scalar.lean ====
section
/-!
DEFINITION. Integer and pointer instructions (R150 to R157).
-/
namespace Sys2Proof.Machine

/-! ## Shared operations -/

/-- A shift amount: bits [5:0] (R150). -/
def shamt (b : Word) : Nat := b.toNat % 64

/-- 1 or 0. -/
def boolWord (b : Bool) : Word := if b then 1 else 0

/-- Bits [127:64] of the signed product (R150). -/
def mulhS (a b : Word) : Word := BitVec.ofInt 64 (a.toInt * b.toInt / ((2 ^ 64 : Nat) : Int))

/-- Bits [127:64] of the unsigned product (R150). -/
def mulhU (a b : Word) : Word := BitVec.ofNat 64 (a.toNat * b.toNat / 2 ^ 64)

/-- The signed quotient, truncated toward zero, with R151's cases. -/
def divS (a b : Word) : Word := if b = 0 then BitVec.allOnes 64 else a.sdiv b

/-- The unsigned quotient, with R151's case. -/
def divU (a b : Word) : Word := if b = 0 then BitVec.allOnes 64 else a / b

/-- The signed remainder, with R151's cases: its sign follows `a`. -/
def remS (a b : Word) : Word := if b = 0 then a else a.srem b

/-- The unsigned remainder, with R151's case. -/
def remU (a b : Word) : Word := if b = 0 then a else a % b

/-- The number of leading zero bits, 0 to 64 (R150). -/
def clzW (a : Word) : Nat := if a = 0 then 64 else 63 - a.toNat.log2

/-- Trailing zero bits of the low `n` bits. -/
def ctzN : Nat → Nat → Nat
  | 0, _ => 0
  | n + 1, x => if x % 2 = 1 then 0 else 1 + ctzN n (x / 2)

/-- Ones among the low `n` bits. -/
def popcN : Nat → Nat → Nat
  | 0, _ => 0
  | n + 1, x => x % 2 + popcN n (x / 2)

/-- A 16-bit immediate, sign-extended (R152). -/
def sext16 (imm : BitVec 16) : Word := imm.signExtend 64

/-! ## Register to register (R150, R151) -/

/-- ADD: X[a] + X[b] (R150). -/
def execAdd (d a b : Reg) (s : State) : Out := .next (setX d (s.rx a + s.rx b) s)
/-- SUB: X[a] − X[b] (R150). -/
def execSub (d a b : Reg) (s : State) : Out := .next (setX d (s.rx a - s.rx b) s)
/-- AND: X[a] AND X[b] (R150). -/
def execAnd (d a b : Reg) (s : State) : Out := .next (setX d (s.rx a &&& s.rx b) s)
/-- OR: X[a] OR X[b] (R150). -/
def execOr (d a b : Reg) (s : State) : Out := .next (setX d (s.rx a ||| s.rx b) s)
/-- XOR: X[a] XOR X[b] (R150). -/
def execXor (d a b : Reg) (s : State) : Out := .next (setX d (s.rx a ^^^ s.rx b) s)
/-- SLL: X[a] shifted left by X[b][5:0] (R150). -/
def execSll (d a b : Reg) (s : State) : Out := .next (setX d (s.rx a <<< shamt (s.rx b)) s)
/-- SRL: X[a] shifted right by X[b][5:0], zeros in (R150). -/
def execSrl (d a b : Reg) (s : State) : Out := .next (setX d (s.rx a >>> shamt (s.rx b)) s)
/-- SRA: X[a] shifted right by X[b][5:0], sign bits in (R150). -/
def execSra (d a b : Reg) (s : State) : Out := .next (setX d ((s.rx a).sshiftRight (shamt (s.rx b))) s)
/-- SLT: 1 if X[a] < X[b] signed (R150). -/
def execSlt (d a b : Reg) (s : State) : Out := .next (setX d (boolWord ((s.rx a).slt (s.rx b))) s)
/-- SLTU: 1 if X[a] < X[b] unsigned (R150). -/
def execSltu (d a b : Reg) (s : State) : Out := .next (setX d (boolWord ((s.rx a).ult (s.rx b))) s)
/-- MUL: the low product (R150). -/
def execMul (d a b : Reg) (s : State) : Out := .next (setX d (s.rx a * s.rx b) s)
/-- MULH: the high signed product (R150). -/
def execMulh (d a b : Reg) (s : State) : Out := .next (setX d (mulhS (s.rx a) (s.rx b)) s)
/-- MULHU: the high unsigned product (R150). -/
def execMulhu (d a b : Reg) (s : State) : Out := .next (setX d (mulhU (s.rx a) (s.rx b)) s)
/-- DIV: the signed quotient (R150, R151). -/
def execDiv (d a b : Reg) (s : State) : Out := .next (setX d (divS (s.rx a) (s.rx b)) s)
/-- DIVU: the unsigned quotient (R150, R151). -/
def execDivu (d a b : Reg) (s : State) : Out := .next (setX d (divU (s.rx a) (s.rx b)) s)
/-- REM: the signed remainder (R150, R151). -/
def execRem (d a b : Reg) (s : State) : Out := .next (setX d (remS (s.rx a) (s.rx b)) s)
/-- REMU: the unsigned remainder (R150, R151). -/
def execRemu (d a b : Reg) (s : State) : Out := .next (setX d (remU (s.rx a) (s.rx b)) s)
/-- MIN: the lesser, signed (R150). -/
def execMin (d a b : Reg) (s : State) : Out := .next (setX d (if (s.rx b).slt (s.rx a) then s.rx b else s.rx a) s)
/-- MAX: the greater, signed (R150). -/
def execMax (d a b : Reg) (s : State) : Out := .next (setX d (if (s.rx a).slt (s.rx b) then s.rx b else s.rx a) s)
/-- MINU: the lesser, unsigned (R150). -/
def execMinu (d a b : Reg) (s : State) : Out := .next (setX d (if (s.rx b).ult (s.rx a) then s.rx b else s.rx a) s)
/-- MAXU: the greater, unsigned (R150). -/
def execMaxu (d a b : Reg) (s : State) : Out := .next (setX d (if (s.rx a).ult (s.rx b) then s.rx b else s.rx a) s)
/-- CLZ: leading zero bits of X[a] (R150). -/
def execClz (d a : Reg) (s : State) : Out := .next (setX d (BitVec.ofNat 64 (clzW (s.rx a))) s)
/-- CTZ: trailing zero bits of X[a] (R150). -/
def execCtz (d a : Reg) (s : State) : Out := .next (setX d (BitVec.ofNat 64 (ctzN 64 (s.rx a).toNat)) s)
/-- POPC: bits that are 1 of X[a] (R150). -/
def execPopc (d a : Reg) (s : State) : Out := .next (setX d (BitVec.ofNat 64 (popcN 64 (s.rx a).toNat)) s)

/-! ## Immediates (R152 to R155) -/

/-- ADDI (R152). -/
def execAddi (d a : Reg) (imm : BitVec 16) (s : State) : Out := .next (setX d (s.rx a + sext16 imm) s)
/-- ANDI (R152). -/
def execAndi (d a : Reg) (imm : BitVec 16) (s : State) : Out := .next (setX d (s.rx a &&& sext16 imm) s)
/-- ORI (R152). -/
def execOri (d a : Reg) (imm : BitVec 16) (s : State) : Out := .next (setX d (s.rx a ||| sext16 imm) s)
/-- XORI (R152). -/
def execXori (d a : Reg) (imm : BitVec 16) (s : State) : Out := .next (setX d (s.rx a ^^^ sext16 imm) s)
/-- SLLI (R153). -/
def execSlli (d a : Reg) (sh : BitVec 6) (s : State) : Out := .next (setX d (s.rx a <<< sh.toNat) s)
/-- SRLI (R153). -/
def execSrli (d a : Reg) (sh : BitVec 6) (s : State) : Out := .next (setX d (s.rx a >>> sh.toNat) s)
/-- SRAI (R153). -/
def execSrai (d a : Reg) (sh : BitVec 6) (s : State) : Out := .next (setX d ((s.rx a).sshiftRight sh.toNat) s)
/-- SLTI: signed compare with the 15-bit immediate (R154). -/
def execSlti (d a : Reg) (imm : BitVec 15) (s : State) : Out :=
  .next (setX d (boolWord ((s.rx a).slt (imm.signExtend 64))) s)
/-- SLTIU: unsigned compare with the sign-extended immediate as a pattern (R154). -/
def execSltiu (d a : Reg) (imm : BitVec 15) (s : State) : Out :=
  .next (setX d (boolWord ((s.rx a).ult (imm.signExtend 64))) s)
/-- LUI (R155). -/
def execLui (d a : Reg) (imm : BitVec 16) (s : State) : Out := .next (setX d (s.rx a + sext16 imm * 65536) s)

/-! ## Fat pointers (R156, R157) -/

/-- The low bit and width of a pointer field (R156). -/
def fatBits : FatField → Nat × Nat
  | .fmt => (59, 5)
  | .blk => (55, 4)
  | .span => (52, 3)
  | .space => (48, 4)
  | .addr => (0, 48)

/-- A field value that R124 reserves. -/
def fatReserved (f : FatField) (v : Nat) : Bool :=
  match f with
  | .fmt => decide (20 < v)
  | .span => decide (6 < v)
  | .space => decide (3 < v)
  | .blk | .addr => false

/-- The pointer with a field replaced. -/
def fatSet (p : Word) (f : FatField) (v : Nat) : Word :=
  let (lo, w) := fatBits f
  BitVec.ofNat 64 (p.toNat - p.toNat / 2 ^ lo % 2 ^ w * 2 ^ lo + v % 2 ^ w * 2 ^ lo)

/-- A pointer moved to an exact address, or ADDRESS_WRAP (R157). -/
def movePtr (d : Reg) (p : Word) (n : Int) (s : State) : State :=
  if n < 0 ∨ n ≥ ((2 ^ 48 : Nat) : Int) then raise { code := .addressWrap } s
  else setX d (BitVec.ofNat 64 (p.toNat / 2 ^ 48 * 2 ^ 48 + n.toNat)) s

/-- PMK: a pointer made of 16 upper bits and an address (R157). -/
def execPmk (d a b : Reg) (s : State) : Out :=
  let u := (s.rx b).toNat
  .next (
    if u ≥ 65536 then raise (protect 0) s
    else if (s.rx a).toNat ≥ 2 ^ 48 then raise { code := .addressWrap } s
    else if fatReserved .fmt (u / 2048) || fatReserved .span (u / 16 % 8) || fatReserved .space (u % 16) then
      raise (protect 0) s
    else setX d (BitVec.ofNat 64 (u * 2 ^ 48 + (s.rx a).toNat)) s)

/-- PGET: a field of a pointer (R157). -/
def execPget (d a : Reg) (f : FatField) (s : State) : Out :=
  .next (setX d (BitVec.ofNat 64 ((s.rx a).toNat / 2 ^ (fatBits f).1 % 2 ^ (fatBits f).2)) s)

/-- PSET: a field of a pointer replaced (R157). -/
def execPset (d a b : Reg) (f : FatField) (s : State) : Out :=
  let v := (s.rx b).toNat
  .next (
    if v ≥ 2 ^ (fatBits f).2 then raise (if f = .addr then { code := .addressWrap } else protect 0) s
    else if fatReserved f v then raise (protect 0) s
    else setX d (fatSet (s.rx a) f v) s)

/-- ADDP: the address field plus a signed amount, exactly (R157). -/
def execAddp (d a b : Reg) (s : State) : Out :=
  .next (movePtr d (s.rx a) (((s.rx a).toNat % 2 ^ 48 : Nat) + (s.rx b).toInt) s)

/-- SUBP: the address field minus a signed amount, exactly (R157). -/
def execSubp (d a b : Reg) (s : State) : Out :=
  .next (movePtr d (s.rx a) (((s.rx a).toNat % 2 ^ 48 : Nat) - (s.rx b).toInt) s)

end Sys2Proof.Machine
end

