-- ==== Sys2Proof/Machine/Control.lean ====
section
/-!
DEFINITION. Control instructions (R158 to R169, R221): branches and jumps with the agreement of a gang, REP, FUSE
and SPLIT, the ends of a turn, EXIT, TERMWAIT and FENCE.
-/
namespace Sys2Proof.Machine

/-! ## Branches and jumps (R41, R117, R158 to R160) -/

/-- The target of a branch: the instruction's address plus four times the signed offset (R117). -/
def branchTarget (pc : Word) (off : BitVec n) : Word := pc + off.signExtend 64 * 4

/-- In a gang, `f` must answer the same in every member when the gang's instruction first issues; else every
member diverges (R41). -/
def gangAgree (f : State → Word) (k : State → State) (s : State) : State :=
  if s.gangMembers.any fun c => c ≠ s.core.id ∧ (s.findCore c).isSome ∧ s.task.gang ≠ 0 ∧ s.memberDone c then k s
  else if s.gangMembers.all fun c => f (switchTo c s) == f s then k s
  else divergeAll s.gangMembers s

/-- Where a conditional branch goes. -/
def branchTo (cond : Word → Word → Bool) (a b : Reg) (off : BitVec 13) (s : State) : Word :=
  if cond (s.rx a) (s.rx b) then branchTarget s.task.pc off else s.task.pc + 4

/-- A conditional branch (R158). -/
def branch (cond : Word → Word → Bool) (a b : Reg) (off : BitVec 13) (s : State) : State :=
  gangAgree (branchTo cond a b off) (fun s => advTo (branchTo cond a b off s) s) s

/-- BEQ (R158). -/
def execBeq (a b : Reg) (off : BitVec 13) (s : State) : Out := .next (branch (fun x y => x == y) a b off s)
/-- BNE (R158). -/
def execBne (a b : Reg) (off : BitVec 13) (s : State) : Out := .next (branch (fun x y => x != y) a b off s)
/-- BLT (R158). -/
def execBlt (a b : Reg) (off : BitVec 13) (s : State) : Out := .next (branch BitVec.slt a b off s)
/-- BGE (R158). -/
def execBge (a b : Reg) (off : BitVec 13) (s : State) : Out := .next (branch (fun x y => !x.slt y) a b off s)
/-- BLTU (R158). -/
def execBltu (a b : Reg) (off : BitVec 13) (s : State) : Out := .next (branch BitVec.ult a b off s)
/-- BGEU (R158). -/
def execBgeu (a b : Reg) (off : BitVec 13) (s : State) : Out := .next (branch (fun x y => !x.ult y) a b off s)

/-- JAL (R159). -/
def execJal (d : Reg) (off : BitVec 21) (s : State) : Out :=
  .next (advTo (branchTarget s.task.pc off) (s.wx d (s.task.pc + 4)))

/-! ## REP (R113, R162 to R164) -/

/-- A word that a repetition may issue. -/
def bodyWordOk (w : Nat) : Bool :=
  bodyMajor w && match decodeWord w with
    | .ok _ => true
    | .error _ => false

/-- The words that follow REP. -/
def fetchBody (s : State) (pc : Word) : Nat → Try (State × List Nat)
  | 0 => .ok (s, [])
  | n + 1 =>
    (fetchAt s pc).bind fun (s1, w) =>
      (fetchBody s1 (pc + 4) n).bind fun (s2, ws) => .ok (s2, w :: ws)

/-- REP (R162, R163). Field `n` holds the number of body words less 1. -/
def repeatBody (n : Fin 16) (c sd sa sb : Reg) (s : State) : State :=
  let next := s.task.pc + 4 + BitVec.ofNat 64 (4 * (n.val + 1))
  if s.task.rep.frozen then illegal s
  else if s.rx c = 0 then advTo next s
  else match fetchBody s (s.task.pc + 4) (n.val + 1) with
    | .cause e => raise e s
    | .wait w => settle (.wait w) s
    | .ok (s, ws) =>
      let r : RepBuf :=
        { running := true, frozen := false, fresh := s.task.gang != 0, words := ws, nextw := 0, rep := 0, total := (s.rx c).toNat
          sd := sd.val, sa := sa.val, sb := sb.val
          captured := Vector.ofFn fun i => s.rx i, shadow := s.task.handling != .none, wait := .none }
      if (List.range (min r.total 32)).all fun j => ws.all fun w => bodyWordOk (stagger r j w) then
        advTo next (s.modTask fun t => { t with rep := r })
      else illegal s

/-- REP (R162). -/
def execRep (n : Fin 16) (c sd sa sb : Reg) (s : State) : Out := .next (repeatBody n c sd sa sb s)

/-! ## FUSE and SPLIT (R39, R40, R43, R165) -/

/-- The members of a gang size. -/
def gangMembersOf : GangSize → Nat
  | .g2 => 2 | .g4 => 4 | .g8 => 8

/-- TSTAT.GANG of a gang size (R173). -/
def gangCode : GangSize → Nat
  | .g2 => 1 | .g4 => 2 | .g8 => 3

/-- The FUSE that a core waits at: its size, or 0. -/
def State.fusingOf (s : State) (c : CoreId) : Nat :=
  match s.findCore c with
  | none => 0
  | some k => k.task.fusing

/-- The cores of the current core's aligned group of `g` that wait at a FUSE of size `g`. -/
def State.fusers (s : State) (g : Nat) : List CoreId := (s.group g).filter fun c => s.fusingOf c == g

/-- Waiting members that a FUSE of another size, or the end of a member's task, makes diverge (R40). -/
def fuseBroken (sizes : List Nat) (s : State) : List CoreId := sizes.flatMap s.fusers

/-- GANG_DIVERGE in a core that waits at a FUSE, which waits no more. One whose turn has ended takes it when its next turn begins, at its FUSE
(R38, R40). -/
def divergeHere (s : State) : State :=
  let c : Cause := { code := .gangDiverge }
  let s := s.modTask fun t => { t with fusing := 0 }
  if s.task.st = .running then raise c s else s.modTask fun t => { t with asyncs := t.asyncs ++ [c] }

/-- GANG_DIVERGE at a FUSE: the listed cores wait no more. -/
def fuseDiverge (cs : List CoreId) (s : State) : State := onCores divergeHere cs (splitGang s)

/-- Does the logical core lie in the launch's core set (R36)? -/
def State.inCoreSet (s : State) (lid : Nat) : Bool :=
  match s.launch? s.task.launch with
  | none => false
  | some l => decide (l.f ≤ lid) && decide (lid < l.f + l.n)

/-- A member joins its gang: it goes on after the FUSE at `pc`, that of the member at the lowest position (R39). -/
def Task.fuse (gang : Nat) (pc : Word) (t : Task) : Task :=
  { t with gang := gang, gangDone := false, fusing := 0, pc := pc + 4, wait := .none }

/-- The program counter of the first core of a group: the one at its lowest position. -/
def State.leaderPc (s : State) (grp : List CoreId) : Word :=
  match grp with
  | c :: _ => ((s.findCore c).map (·.task.pc)).getD 0
  | [] => 0

/-- FUSE (R39, R40, R165). A member whose turn has ended takes GANG_DIVERGE at its next turn (DEDUCED, assumption log 117). -/
def fuse (g : GangSize) (s : State) : State :=
  let n := gangMembersOf g
  if s.core.kind ≠ .compute then raise { code := .gangDiverge } s
  else if s.task.gang ≠ 0 then divergeAll s.gangMembers s
  else
    let s := s.modTask fun t => { t with fusing := n }
    let grp := s.group n
    let broken := fuseBroken ([2, 4, 8].filter (· ≠ n)) s
    if !(grp.all fun c => s.inCoreSet c.lid) ∨ (grp.any fun c => s.fusingOf c ≠ 0 ∧ s.fusingOf c ≠ n) then
      fuseDiverge (s.fusers n ++ broken) s
    else
      let s := if broken.isEmpty then s else fuseDiverge broken s
      let pc := s.leaderPc grp
      if grp.all fun c => s.fusingOf c == n then onCores (fun s => s.modTask (Task.fuse (gangCode g) pc)) grp s
      else waitAs .stall s

/-- FUSE (R165). -/
def execFuse (g : GangSize) (s : State) : Out := .next (fuse g s)

/-- SPLIT: each member goes on at its own program counter (R43, R165). -/
def execSplit (s : State) : Out :=
  .next (s.modTask fun t => { t with gang := 0, gangDone := false, pc := t.pc + 4, wait := .none })

/-! ## Turns (R166, R167, R384, R391) -/

/-- The core's own task has ended and its end is reported, or it has none: another may take its place. -/
def Task.over (t : Task) : Bool :=
  t.guests.isEmpty && (t.st == .none || (t.st == .ended && t.reported) || t.st == .lost)

/-- The most recently pre-empted task of a core (R390). -/
def Core.top (k : Core) : Option Task := k.saved.find? fun t => t.st == .preempted

/-- Binding takes 1,024 cycles (R31). -/
def Task.bound (now : Nat) (t : Task) : Bool := t.st == .granted && decide (t.drainFrom + 1024 ≤ now)

/-- A logical core that waits for a turn of its physical core: a suspended task that is ready, one newly bound, or a
pre-empted one that goes on. -/
def Core.wants (now : Nat) (k : Core) : Bool := k.task.ready || k.task.bound now || (k.task.over && k.top.isSome)

/-- Another logical core placed here has a task ready (R166). -/
def State.otherReady (s : State) : Bool :=
  s.cores.any fun k => samePlace s.core k && k.wants s.now

/-- The task gives up its physical core at this boundary: its leases end, and once it has drained it is saved
(R384, R386). -/
def giveUp (st : TaskSt) (s : State) : State :=
  (endLease s).modTask fun t => { t with draining := some st, drainFrom := s.time }

/-- YIELD (R166): in a gang every member yields in the same instruction, where another task is ready for one of them. A member that has
completed it already has advanced. -/
def yieldTurn (s : State) : State :=
  if s.task.gang = 0 then (if s.otherReady then giveUp .suspended (adv s) else adv s)
  else if s.gangMembers.any fun c => (switchTo c s).otherReady then
    onCores (fun s => giveUp .suspended (s.modTask fun t => if t.gangDone then t.goAhead else t.advance.goAhead)) s.gangMembers s
  else adv s

/-- YIELD (R166). -/
def execYield (s : State) : Out := .next (yieldTurn s)

/-- AWAIT (R167). -/
def execAwait (n : R16) (b : Reg) (s : State) : Out :=
  let v := s.rx b
  .next (if ctrReached s.task.c[n] v then adv s
    else waitAs (.await n (v.setWidth 32)) (giveUp .suspended (adv s)))

/-! ## EXIT (R33, R168) -/

/-- Batches complete in ascending order: a batch is complete when no step of it or of an earlier one is still to be
done. Its flags go to FSTAT, its steps leave the queue, and its counter rises (R102, R103, R281). -/
def Task.settleBatches (t : Task) : Task :=
  let closed (k : Nat) : Bool := t.steps.all fun m => m.done || (match m.batch with
    | some j => decide (k < j)
    | none => true)
  let gone (m : MStep) : Bool := match m.batch with
    | some k => closed k
    | none => false
  let t1 := { t with
    fstat := (t.steps.filter gone).foldl (fun f m => f ||| m.flags) t.fstat
    steps := t.steps.filter fun m => !gone m
    commits := t.commits.filter fun c => !closed c.1 }
  (t.commits.filter fun c => closed c.1).foldl (fun t c => t.bump c.2 false) t1

/-- Steps issued since the last commit become a batch, whose completion may raise a counter (R103, R281). -/
def Task.commit (ctr : Option Nat) (t : Task) : Task :=
  let t1 : Task := { t with
    steps := t.steps.map fun (m : MStep) => if m.batch.isNone then { m with batch := some t.batches } else m
    commits := t.commits ++ (match ctr with
      | some c => [(t.batches, c)]
      | none => [])
    batches := t.batches + 1 }
  t1.settleBatches

/-- A message of the core that its target has not yet taken. -/
def Msg.sentBy (c : CoreId) : Msg → Bool
  | .mcmd who _ _ _ _ | .xline who _ _ _ _ _ | .remote who _ _ _ _ _ _ => who == c
  | _ => false

/-- Work of the current task that EXIT waits for (R168). -/
def State.working (s : State) : Bool :=
  let t := s.task
  !t.steps.isEmpty || !t.guests.isEmpty || t.rep.running || !t.copies.isEmpty || !t.asyncs.isEmpty
    || (s.core.pushes.any fun p => p.todo != 0 && p.launch == t.launch && p.index == t.index)
     || s.net.any (Msg.sentBy s.core.id)
    || (match t.xphase with
        | some p => p.pending.isSome
        | none => false)
    || s.benches.any fun (_, b) => b.chisel.toList.any fun o => match o with
        | some c => c.who == s.core.id && c.launch == t.launch && c.index == t.index
        | none => false

/-- The members that wait at a FUSE with the current core, whose task has ended, diverge (R40). -/
def fuseEnd (s : State) : State :=
  let cs := (fuseBroken [2, 4, 8] s).filter (· ≠ s.core.id)
  if cs.isEmpty then s else onCores divergeHere cs s

/-- The task has ended: leases end, windows clear, the launch's counter rises by 1 (R34, R168). -/
def endTask (s : State) : State :=
  let n := s.task.launch
  let sent := s.task.sent
  let lid := s.core.id.lid
  let s := (freeCore (endLease s)).modTask fun t =>
    { t with st := .ended, sent := false, draining := none, win := Vector.replicate 4 0, xphase := none, gang := 0, gangDone := false, fusing := 0, wait := .none }
  fuseEnd (s.modLaunch n fun l => { l with counter := l.counter + 1, sentBy := if sent then l.sentBy ++ [lid] else l.sentBy })

/-- EXIT: the task's work drains, then the release of a strong store, then its end. `fin` acts at the end. -/
def exitThen (fin : State → State) (s : State) : State :=
  let s := s.modTask fun t => { t with gang := 0, gangDone := false }
  let s := if s.task.steps.any (·.batch.isNone) then s.modTask (Task.commit none) else s
  if s.working then waitAs .exit s else releaseThen (fun s => endTask (fin s)) s

/-- EXIT (R168). -/
def execExit (s : State) : Out := .next (exitThen id s)

/-- The end-of-task address (R30). -/
def endOfTask : Word := 0x0000FFFFFFFF0000

/-- The target of JALR (R160). -/
def jalrTarget (a : Reg) (imm : BitVec 16) (s : State) : Word := (s.rx a + sext16 imm) / 4 * 4

/-- JALR (R33, R160). -/
def jumpLink (d a : Reg) (imm : BitVec 16) (s : State) : State :=
  gangAgree (jalrTarget a imm) (fun s =>
    let t := jalrTarget a imm s
    let link := s.task.pc + 4
    if 2 ^ 48 ≤ t.toNat then raise (protect 3 t) s
    else if t = endOfTask then exitThen (fun s => s.wx d link) s
    else advTo t (s.wx d link)) s

/-- JALR (R160). -/
def execJalr (d a : Reg) (imm : BitVec 16) (s : State) : Out := .next (jumpLink d a imm s)

/-! ## TERMWAIT and FENCE -/

/-- TERMWAIT (R64, R169). In a gang of a launch without TERMDETECT it is ILLEGAL_INSTRUCTION in the member that issues it, and no GANG_DIVERGE
(DESIGN CHOICE, assumption log 109). -/
def termwait (d : Reg) (s : State) : State :=
  if !s.task.termdetect then illegal s
  else if s.task.gang ≠ 0 then divergeAll s.gangMembers s
  else match s.launch? s.task.launch with
    | some l =>
      if l.finished then acquire (setX d 1 (s.modTask fun t => { t with termdone := true }))
      else waitAs (.term d) s
    | none => waitAs (.term d) s

/-- TERMWAIT (R169). -/
def execTermwait (d : Reg) (s : State) : Out := .next (termwait d s)

/-- FENCE (R221): a release at its scope that orders weak accesses both ways; the model performs accesses in order, so
every scope waits for the same stores. -/
def execFence (_sc : Scope) (s : State) : Out := .next (releaseThen (fun s => adv (acquire s)) s)

end Sys2Proof.Machine
end

