-- ==== Sys2Proof/Machine/EventLines.lean ====
section
/-!
DEFINITION. The event unit (R27, R112, R147, R212 to R217, R301): event, barrier, mutex and span lines, EVSIG and
EVCFG, the loads of space 3, and the span messages.
-/
namespace Sys2Proof.Machine

/-! ## Lines -/

/-- The key of a logical bench, which has 32 event lines of its own wherever it is placed (R4, R38; DESIGN CHOICE, assumption log 81). -/
def benchKey (b : BenchId) : Nat := b.tenant * 65536 + b.bench

/-- A logical bench. -/
def State.benchAt (s : State) (b : BenchId) : Bench := mapGet {} s.benches (benchKey b)

/-- A logical bench changed. -/
def State.modBench (s : State) (b : BenchId) (f : Bench → Bench) : State :=
  { s with benches := mapSet {} s.benches (benchKey b) (f (s.benchAt b)) }

/-- An event line. -/
def State.evLine (s : State) (b : BenchId) (n : Fin 32) : EvLine := (s.benchAt b).lines[n]

/-- An event line changed. -/
def State.modLine (s : State) (b : BenchId) (n : Fin 32) (f : EvLine → EvLine) : State :=
  s.modBench b fun k => { k with lines := k.lines.set n.val (f k.lines[n]) }

/-- A core of a bench's tenant. -/
def coreAt (b : BenchId) (lid : Nat) : CoreId := { tenant := b.tenant, lid := lid }

/-- The package of a logical bench. -/
def State.benchPkg (s : State) (b : BenchId) : Nat :=
  match mapFind b.bench (s.tenant b.tenant).places with
  | some p => p.pkg
  | none => 0

/-! ## Completing waiting loads -/

/-- Does the task wait at line `n` as a task of the launch that holds it? -/
def Task.waitsLine (launch : Option Nat) (n : Fin 32) (t : Task) : Bool :=
  some t.launch == launch && match t.wait with
    | .line m _ => m == n.val
    | _ => false

/-- The register that a waiting load writes. -/
def Wait.dst : Wait → Reg
  | .line _ d => d
  | _ => 0

/-- A waiting load of a task that is saved completes: what R385 gives it on resume. -/
def Task.finishLine (v : Word) (t : Task) : Task :=
  { (t.wx t.wait.dst v).advance with gangDone := t.gang != 0 }

/-- The first task that `p` picks, changed. -/
def modFirst (p : Task → Bool) (f : Task → Task) : List Task → List Task
  | [] => []
  | t :: ts => if p t then f t :: ts else t :: modFirst p f ts

/-- A task of the current core that `p` picks, changed: the bound one, or the most recent of the pre-empted ones. -/
def State.modOwn (s : State) (p : Task → Bool) (f : Task → Task) : State :=
  if p s.task then s.modTask f else { s with core := { s.core with saved := modFirst p f s.core.saved } }

/-- DPHASE rises by 1 (R395). -/
def Task.phaseUp (t : Task) : Task := { t with dphase := (t.dphase + 1) % 2 ^ 32 }

/-- A load of core `c` that waits at a line completes with a value, as an acquire, also where its task is saved (R112, R315, R335); `f` acts
on its task. -/
def completeLine (launch : Option Nat) (n : Fin 32) (v : Word) (f : Task → Task) (c : CoreId) (s : State) : State :=
  onCore c (fun s =>
    let p := Task.waitsLine launch n
    if p s.task then
      let d := s.task.wait.dst
      acquire (setX d v (s.modTask f))
    else acquire (s.modOwn p (fun t => (f t).finishLine v))) s

/-- A phase of the exchange begins for every core of the bench that has armed one at the line (R295, R303). -/
def startPhases (b : BenchId) (n : Fin 32) (cycle : Nat) (s : State) : State :=
  let cs := (List.range 8).map fun i => coreAt b (lidAt (s.tenant b.tenant).wl b.bench i)
  let f (t : Task) : Task :=
    match t.xphase with
    | some x => if x.line = n.val ∧ x.zero.isNone then { t with xphase := some { x with zero := some cycle } } else t
    | none => t
  onCores (fun s => s.modTask f) cs s

/-! ## Spans and barriers (R112, R216) -/

/-- The line after it has fired: arrivals of the next round count now. -/
def EvLine.fired (l : EvLine) : EvLine :=
  { l with
    round := l.round + 1, count := l.next, next := 0, childCount := 0, counted := [], complete := false
    waiters := l.later, later := [], pkgs := [] }

/-- The lead of a span's phase: longer where its lines lie in more than one package (R295). -/
def spanLead (own : Nat) (pkgs : List Nat) : Nat := if pkgs.all (· == own) then 512 else 1024

/-- A line fires: its waiting loads complete with the new round number, fire messages go to the lines whose
messages it counted, and exchange phases armed at it begin (R112, R216, R295, R395). -/
def fireLine (b : BenchId) (n : Fin 32) (cycle lead : Nat) (s : State) : State :=
  let l := s.evLine b n
  let s := s.modLine b n EvLine.fired
  let s := l.waiters.foldl (fun s w => completeLine l.held n ((l.round + 1).setWidth 64) Task.phaseUp (coreAt b w) s) s
  let s := { s with net := s.net ++ l.counted.map fun (cb, cl) => Msg.spanFire cb cl l.held cycle lead }
  startPhases b n (cycle + lead) s

/-- A line whose counts are full: a barrier or root fires, any other span line tells its parent (R216). -/
def checkFull (b : BenchId) (n : Fin 32) (s : State) : State :=
  let l := s.evLine b n
  match l.kind with
  | .barrier => if l.count ≥ l.arrivals then fireLine b n s.now 64 s else s
  | .span =>
    if l.complete ∨ l.count < l.arrivals ∨ l.childCount < l.children then s
    else
      let own := s.benchPkg b
      if l.root then fireLine b n s.now (spanLead own l.pkgs) s
      else
        let s := s.modLine b n fun l => { l with complete := true }
        { s with net := s.net ++ [Msg.spanArrive b n.val { tenant := b.tenant, bench := l.parentB } l.parentL (own :: l.pkgs)] }
  | _ => s

/-- A line checked after a change: the arrivals that a firing carries over may make it full again. -/
def checkLine (b : BenchId) (n : Fin 32) (s : State) : State := checkFull b n (checkFull b n s)

/-- A local arrival, with the core that waits for the firing, if any (R112, R214, R216). -/
def arrive (b : BenchId) (n : Fin 32) (who : Option Nat) (s : State) : State :=
  let l := s.evLine b n
  let carry := l.kind == .span && (l.complete || decide (l.count ≥ l.arrivals))
  let s := s.modLine b n fun l =>
    if carry then { l with next := l.next + 1, later := l.later ++ who.toList }
    else { l with count := l.count + 1, waiters := l.waiters ++ who.toList }
  checkLine b n s

/-! ## Accesses of space 3 (R184, R214) -/

/-- The line that a pointer names: checks 3 and 5 of R184. A core without an event unit has none (R322). -/
def lineAt (s : State) (p : Word) : Try (Fin 32) :=
  if !ptrOk p ∨ pSpace p ≠ 3 ∨ pAddr p ≥ 256 then .cause (protect 0 p)
  else if pAddr p % 8 ≠ 0 then .cause (protect 1 p)
  else if !s.isCompute then .cause (protect 6 p)
  else .ok (Fin.ofNat 32 (pAddr p / 8))

/-- The line that a pointer names, which the launch must hold and which must be configured (R214, R301). -/
def heldLine (s : State) (p : Word) : Try (Fin 32 × EvLine) :=
  (lineAt s p).bind fun n =>
    let l := s.evLine s.bench n
    if l.kind = .off ∨ l.held ≠ some s.task.launch then .cause (protect 5 p) else .ok (n, l)

/-- A logical core placed among others by rising bench position. -/
def insertPos (wl lid : Nat) : List Nat → List Nat
  | [] => [lid]
  | w :: ws => if benchPos wl lid < benchPos wl w then lid :: w :: ws else w :: insertPos wl lid ws

/-- A load joins those that wait at the line: behind those of earlier cycles, and among those of its own cycle by rising position (R27). -/
def EvLine.join (now wl lid : Nat) (l : EvLine) : EvLine :=
  let n := if l.came = now then l.together else 0
  let old := l.waiters.length - n
  { l with waiters := l.waiters.take old ++ insertPos wl lid (l.waiters.drop old), came := now, together := n + 1 }

/-- The current core waits at a line for its register `d`. -/
def waitLine (n : Fin 32) (d : Reg) (s : State) : State :=
  waitAs (.line n.val d) (s.modLine s.bench n (EvLine.join s.now s.wl s.core.id.lid))

/-- A load of an event line that has a signal, or waits for one (R27). -/
def loadEvent (n : Fin 32) (l : EvLine) (d : Reg) (s : State) : State :=
  if l.pending then acquire (setX d 0 (s.modLine s.bench n fun l => { l with pending := false }))
  else waitLine n d s

/-- A load of a mutex line (R214). -/
def loadMutex (n : Fin 32) (l : EvLine) (d : Reg) (p : Word) (s : State) : State :=
  match l.holder with
  | none => acquire (setX d 0 (s.modLine s.bench n fun l => { l with holder := some s.core.id.lid }))
  | some h => if h = s.core.id.lid then raise (protect 5 p) s else waitLine n d s

/-- An arrival that waits (R112, R216). -/
def loadArrive (n : Fin 32) (d : Reg) (s : State) : State :=
  arrive s.bench n (some s.core.id.lid) (waitAs (.line n.val d) s)

/-- LDD of a space-3 pointer (R214, R215). -/
def loadLine (d : Reg) (p : Word) (st : Strength) (s : State) : State :=
  match heldLine s p with
  | .cause c => raise c s
  | .wait w => settle (.wait w) s
  | .ok (n, l) =>
    match l.kind with
    | .barrier | .span => releaseThen (loadArrive n d) s
    | kind =>
      if kind = .mutex ∧ s.task.determinate then raise (detViolation 0) s
      else match loadGate s (.strong (match st with | .strong sc => sc | .weak => .bench)) with
        | .wait w => settle (.wait w) s
        | .cause c => raise c s
        | .ok _ => if kind = .mutex then loadMutex n l d p s else loadEvent n l d s

/-- A signal at an event line satisfies the load that arrived first, or sets the pending bit (R27). -/
def signalEvent (n : Fin 32) (l : EvLine) (s : State) : State :=
  match l.waiters with
  | [] => s.modLine s.bench n fun l => { l with pending := true }
  | w :: rest =>
    completeLine l.held n 0 id (coreAt s.bench w) (s.modLine s.bench n fun l => { l with waiters := rest })

/-- A mutex freed goes to the oldest waiter (R214). -/
def freeMutex (n : Fin 32) (l : EvLine) (s : State) : State :=
  match l.waiters with
  | [] => s.modLine s.bench n fun l => { l with holder := none }
  | w :: rest =>
    completeLine l.held n 0 id (coreAt s.bench w)
      (s.modLine s.bench n fun l => { l with holder := some w, waiters := rest })

/-- EVSIG (R214, R215). -/
def evsig (a : Reg) (s : State) : State :=
  let p := s.rx a
  match heldLine s p with
  | .cause c => raise c s
  | .wait w => settle (.wait w) s
  | .ok (n, l) =>
    match l.kind with
    | .mutex =>
      if l.holder ≠ some s.core.id.lid then raise (protect 5 p) s
      else releaseThen (fun s => adv (freeMutex n l s)) s
    | .event => releaseThen (fun s => adv (signalEvent n l s)) s
    | _ => releaseThen (fun s => adv (arrive s.bench n none s)) s

/-- EVSIG (R214). -/
def execEvsig (a : Reg) (s : State) : Out := .next (evsig a s)

/-! ## EVCFG (R212, R213) -/

/-- The KIND field of LINECFG. -/
def lineKindOf : Nat → Option LineKind
  | 0 => some .off | 1 => some .event | 2 => some .barrier | 3 => some .mutex | 4 => some .span | _ => none

/-- The line that a value of LINECFG configures, with its state at zero; `none` where R213 refuses the value. -/
def lineConfig (v benches : Nat) (held : Option Nat) : Option EvLine :=
  match lineKindOf (bitsAt v 0 3) with
  | none => none
  | some kind =>
    let pb := bitsAt v 48 16
    let pl := bitsAt v 40 5
    let root := v.testBit 39
    let ch := bitsAt v 32 4
    let arr := bitsAt v 8 4
    let reserved := bitsAt v 45 3 + bitsAt v 36 3 + bitsAt v 12 20 + bitsAt v 3 5
    let spanZero := pb == 0 && pl == 0 && !root && ch == 0
    let ok : Bool := match kind with
      | .off => arr == 0 && ch == 0
      | .event | .mutex => arr == 0 && spanZero
      | .barrier => decide (1 ≤ arr) && decide (arr ≤ 8) && spanZero
      | .span => decide (arr ≤ 8) && (arr != 0 || ch != 0)
    if reserved = 0 ∧ ok = true ∧ !(root && (pb != 0 || pl != 0)) ∧ pb < benches then
      some { kind := kind, parentB := pb, parentL := pl, root := root, children := ch, arrivals := arr, held := held }
    else none

/-- The span lines of a bench other than line `n` that some launch holds. -/
def Bench.spans (b : Bench) (n : Fin 32) : Nat :=
  ((List.finRange 32).filter fun i => i ≠ n ∧ b.lines[i].kind = .span ∧ b.lines[i].held.isSome).length

/-- EVCFG (R213, R302). -/
def evcfg (a b : Reg) (s : State) : State :=
  let p := s.rx a
  let v := (s.rx b).toNat
  if s.task.determinate ∧ bitsAt v 0 3 = 3 then raise (detViolation 0) s
  else match lineAt s p with
    | .cause c => raise c s
    | .wait w => settle (.wait w) s
    | .ok n =>
      let l := s.evLine s.bench n
      let t := s.tenant s.core.id.tenant
      match lineConfig v (t.wl / 2 * (t.hl / 4)) l.held with
      | none => raise (protect 5 p) s
      | some l' =>
        if l.held ≠ some s.task.launch ∨ !l.waiters.isEmpty ∨ !l.later.isEmpty ∨ (l.kind = .mutex ∧ l.holder.isSome)
            ∨ (l'.kind = .span ∧ (s.benchAt s.bench).spans n ≥ 16) then raise (protect 5 p) s
        else releaseThen (fun s => adv (s.modLine s.bench n fun _ => l')) s

/-- EVCFG (R213). -/
def execEvcfg (a b : Reg) (s : State) : Out := .next (evcfg a b s)

/-! ## Span messages (R216) -/

/-- Message `n` taken out of the net. -/
def State.take (s : State) (n : Nat) : Option (Msg × State) :=
  match s.net[n]? with
  | none => none
  | some m => some (m, { s with net := s.net.eraseIdx n })

/-- The routers take a message of a tenant to a bench: its place lies in the tenant's rectangle (R325, R393). -/
def State.benchRouted (s : State) (b : BenchId) : Bool :=
  let t := s.tenant b.tenant
  (mapFind b.bench t.places).all fun p => t.rects.any fun (pkg, r) => pkg == p.pkg && Place.inRect p r

/-- An arrival message is refused: the loads that wait on the sending line take PROTECT, and its counts return to
zero (R216). A task that is away takes the cause when it runs again (assumption log 57). -/
def refuseArrival (sub : Nat) (b : BenchId) (n : Fin 32) (s : State) : State :=
  let l := s.evLine b n
  let s := s.modLine b n fun l =>
    { l with count := 0, next := 0, childCount := 0, counted := [], complete := false, waiters := [], later := [], pkgs := [] }
  (l.waiters ++ l.later).foldl (fun s w => onCore (coreAt b w) (fun s =>
    if s.task.waitsLine l.held n && s.task.st == .running then raise (protect sub) s
    else s.modOwn (Task.waitsLine l.held n) (fun t => { t with wait := .none, asyncs := t.asyncs ++ [protect sub] })) s) s

/-- SPAN_ARRIVAL_MESSAGE (R216). -/
def spanArrival (n : Nat) (s : State) : State :=
  match s.take n with
  | some (.spanArrive cb cl pb pl pkgs, s) =>
    let pn : Fin 32 := Fin.ofNat 32 pl
    let l := s.evLine pb pn
    if !s.benchRouted pb then refuseArrival 7 cb (Fin.ofNat 32 cl) s
    else if l.kind ≠ .span ∨ l.childCount ≥ l.children then refuseArrival 5 cb (Fin.ofNat 32 cl) s
    else
      checkLine pb pn (s.modLine pb pn fun l =>
        { l with childCount := l.childCount + 1, counted := l.counted ++ [(cb, cl)], pkgs := l.pkgs ++ pkgs })
  | _ => s

/-- SPAN_ARRIVAL_MESSAGE (R216). -/
def execSpanArrivalMessage (n : Nat) (s : State) : Out := .next (spanArrival n s)

/-- SPAN_FIRE_MESSAGE (R216, R297): a line that the launch no longer holds does not fire. -/
def spanFire (n : Nat) (s : State) : State :=
  match s.take n with
  | some (.spanFire b l launch cycle lead, s) =>
    let ln : Fin 32 := Fin.ofNat 32 l
    if (s.evLine b ln).held = launch ∧ (s.evLine b ln).complete then checkLine b ln (fireLine b ln cycle lead s) else s
  | _ => s

/-- SPAN_FIRE_MESSAGE (R216). -/
def execSpanFireMessage (n : Nat) (s : State) : Out := .next (spanFire n s)

end Sys2Proof.Machine
end

