-- ==== Sys2Proof/Machine/LoadStore.lean ====
section
/-!
DEFINITION. Loads and stores (R183, R189 to R192), elements of a format (R193 to R196), indexed forms (R197 to R199)
and tensor accesses (R200, R201).
-/
namespace Sys2Proof.Machine

/-! ## Addresses and values -/

/-- The pointer that a MEM form accesses: the base plus the signed offset in units of `z` bytes (R183). -/
def memPtr (s : State) (base : Reg) (off : BitVec 10) (z : Nat) : Try Word :=
  let p := s.rx base
  ptrTo p ((pAddr p : Int) + off.toInt * (z : Int))

/-- The pointer that an indexed form accesses (R198). -/
def idxPtr (s : State) (a b : Reg) (z : Nat) : Try Word :=
  let p := s.rx a
  ptrTo p ((pAddr p : Int) + (s.rx b).toInt * (z : Int))

/-- A loaded value written to its register, sign-extended or zero-extended (R189). -/
def LoadDst.put (dst : LoadDst) (bs : List Byte) (t : Task) : Task :=
  let n := leOf bs
  match dst with
  | .sx d w => t.wx d (BitVec.ofInt 64 (signedOf w n))
  | .zx d => t.wx d (BitVec.ofNat 64 n)
  | .vec d => t.wv d (BitVec.ofNat 512 n)

/-! ## Accesses that wait at a remote owner (R311, R313) -/

/-- An access of a remote scratchpad whose owner is away waits there, and the core waits for its answer. -/
def sendRemote (p : Word) (n : Nat) (store : Option (List Byte)) (dst : LoadDst) (acq : Bool) (s : State) : State :=
  let owner := pAddr p / 2 ^ 17
  let s := match store, s.peer owner with
    | some _, some k => markSent k s
    | _, _ => s
  waitAs .remote { s with net := s.net ++ [Msg.remote s.core.id owner p n store dst acq] }

/-- A wait of an access of several parts: it issues anew, at a remote owner too. -/
def waitParts (w : Wait) : Wait := if w = .remote then .stall else w

/-! ## Raw loads and stores -/

/-- A load of `n` bytes through a formed pointer (R189). -/
def loadTo (q : Try Word) (n : Nat) (st : Strength) (h : Hint) (dst : LoadDst) (s : State) : State :=
  match q with
  | .cause c => settle (.cause c) s
  | .wait w => settle (.wait w) s
  | .ok p =>
    match (loadGate s st).bind fun _ => loadAt s p n n false st h with
    | .ok (s', bs) => adv (afterLoad st (s'.modTask (dst.put bs)))
    | .wait .remote => sendRemote p n none dst (acquires st) s
    | .wait w => settle (.wait w) s
    | .cause c => settle (.cause c) s

/-- A store instruction: a strong one is a release (R189, R191, R192). -/
def storeEnd (st : Strength) (k : State → State) (s : State) : State :=
  if isStrong st then releaseThen k s else k s

/-- A store of bytes through a formed pointer. -/
def storeTo (q : Try Word) (bs : List Byte) (st : Strength) (h : Hint) (s : State) : State :=
  storeEnd st (fun s =>
    match q with
    | .cause c => settle (.cause c) s
    | .wait w => settle (.wait w) s
    | .ok p =>
      match storePark s p { bytes := bs } bs.length false (isStrong st) h with
      | .wait .remote => sendRemote p bs.length (some bs) (.zx 0) false s
      | r => endStore r s) s

/-- LDB (R189). -/
def execLdb (d base : Reg) (st : Strength) (h : Hint) (off : BitVec 10) (s : State) : Out :=
  .next (loadTo (memPtr s base off 1) 1 st h (.sx d 8) s)
/-- LDBU (R189). -/
def execLdbu (d base : Reg) (st : Strength) (h : Hint) (off : BitVec 10) (s : State) : Out :=
  .next (loadTo (memPtr s base off 1) 1 st h (.zx d) s)
/-- LDH (R189). -/
def execLdh (d base : Reg) (st : Strength) (h : Hint) (off : BitVec 10) (s : State) : Out :=
  .next (loadTo (memPtr s base off 2) 2 st h (.sx d 16) s)
/-- LDHU (R189). -/
def execLdhu (d base : Reg) (st : Strength) (h : Hint) (off : BitVec 10) (s : State) : Out :=
  .next (loadTo (memPtr s base off 2) 2 st h (.zx d) s)
/-- LDW (R189). -/
def execLdw (d base : Reg) (st : Strength) (h : Hint) (off : BitVec 10) (s : State) : Out :=
  .next (loadTo (memPtr s base off 4) 4 st h (.sx d 32) s)
/-- LDWU (R189). -/
def execLdwu (d base : Reg) (st : Strength) (h : Hint) (off : BitVec 10) (s : State) : Out :=
  .next (loadTo (memPtr s base off 4) 4 st h (.zx d) s)

/-- LDD: in space 3 an access of an event line (R189, R214). -/
def execLdd (d base : Reg) (st : Strength) (h : Hint) (off : BitVec 10) (s : State) : Out :=
  .next (match memPtr s base off 8 with
    | .ok p => if pSpace p = 3 then loadLine d p st s else loadTo (.ok p) 8 st h (.zx d) s
    | r => loadTo r 8 st h (.zx d) s)

/-- VLD (R189). -/
def execVld (d base : Reg) (st : Strength) (h : Hint) (off : BitVec 10) (s : State) : Out :=
  .next (loadTo (memPtr s base off 64) 64 st h (.vec d) s)

/-- STB (R189). -/
def execStb (v base : Reg) (st : Strength) (h : Hint) (off : BitVec 10) (s : State) : Out :=
  .next (storeTo (memPtr s base off 1) (bytesOf (s.rx v).toNat 1) st h s)
/-- STH (R189). -/
def execSth (v base : Reg) (st : Strength) (h : Hint) (off : BitVec 10) (s : State) : Out :=
  .next (storeTo (memPtr s base off 2) (bytesOf (s.rx v).toNat 2) st h s)
/-- STW (R189). -/
def execStw (v base : Reg) (st : Strength) (h : Hint) (off : BitVec 10) (s : State) : Out :=
  .next (storeTo (memPtr s base off 4) (bytesOf (s.rx v).toNat 4) st h s)
/-- STD (R189). -/
def execStd (v base : Reg) (st : Strength) (h : Hint) (off : BitVec 10) (s : State) : Out :=
  .next (storeTo (memPtr s base off 8) (bytesOf (s.rx v).toNat 8) st h s)
/-- VST (R189). -/
def execVst (v base : Reg) (st : Strength) (h : Hint) (off : BitVec 10) (s : State) : Out :=
  .next (storeTo (memPtr s base off 64) (bytesOf (s.rv v).toNat 64) st h s)

/-! ## LDF and STF (R193 to R196) -/

/-- Element `j` of a pointer loaded as an FP32 pattern (R195). -/
def loadF (p : Word) (j : Int) (st : Strength) (h : Hint) (d : Reg) (s : State) : State :=
  match (loadGate s st).bind fun _ => loadElem s p j st h with
  | .ok (s', v, f, raw) =>
    let r := elemPattern v f raw
    adv (afterLoad st ((s'.wx d (BitVec.ofNat 64 r.1)).modTask (·.orFlags r.2)))
  | .cause c => settle (.cause c) s
  | .wait w => settle (.wait (waitParts w)) s

/-- What STF writes at an element's place (R196). The store's own checks up to the sixth come before the read of the scale (R184). -/
def elemData (s : State) (p : Word) (e : ElemPlace) (x : Nat) : Try (State × StoreData × Flags) :=
  let code := pFmt p
  let nib : Option Nat := if code = 15 then some e.bit else none
  if isSeam code ∨ code = 0 then .ok (s, { bytes := [0] }, 0)
  else if isMx code then
    match locate s .store e.ptr 1 true with
    | .ok _ => mxData s code e.block nib x
    | .wait w => .wait w
    | .cause c =>
      if c.code = .pageFault ∨ (c.code = .protect ∧ c.sub = 8) then
        match mxData s code e.block nib x with
        | .cause _ => .cause c
        | r => r
      else .cause c
  else if code = 1 then .ok (s, { bytes := bytesOf x 4 }, 0)
  else
    let r := elemEnc s.task.dta s.task.dtb code .rne (fdecode fmtF32 x)
    .ok (s, { bytes := bytesOf r.1 (elemBytes code) }, r.2)

/-- The end of a store with the flags of its conversion. -/
def StoreEnd.flags (f : Flags) : StoreEnd → StoreEnd
  | .done s => .done (s.modTask (·.orFlags f))
  | .parked s c => .parked (s.modTask (·.orFlags f)) c

/-- An MX element that cannot be made yet parks with the pattern that it is made from, where its own place or its scale lies in an absent
page, or its place in a READDUP page; another cause of its place comes before one of the scale (R184, R191, R196, R340). -/
def parkMx (e : ElemPlace) (x : Nat) (strong : Bool) (h : Hint) (c : Cause) (s : State) : Try StoreEnd :=
  let entry (page : Nat) (readdup : Bool) : Parked :=
    { page := page, ptr := e.ptr, data := { bytes := [0], nib := if pFmt e.ptr = 15 then some e.bit else none }
      hint := h, strong := strong, readdup := readdup, mx := some (e.block, x) }
  if !isMx (pFmt e.ptr) then .cause c
  else match locate s .store e.ptr 1 true with
    | .wait w => .wait w
    | .ok _ => if c.code = .pageFault then parkAbsent (entry (pageOf (pAddr e.block)) false) c s else .cause c
    | .cause c' =>
      if c'.code = .pageFault then parkAbsent (entry (pageOf (pAddr e.ptr)) false) c' s
      else if c'.code = .protect ∧ c'.sub = 8 then parkReaddup (entry (pageOf (pAddr e.ptr)) true) s
      else .cause c'

/-- The FP32 pattern `x` stored as element `j` of a pointer (R196). -/
def storeF (p : Word) (j : Int) (st : Strength) (h : Hint) (x : Nat) (s : State) : State :=
  storeEnd st (fun s =>
    let r := (elemPlace .store p j).bind fun e =>
      match elemData s p e x with
      | .ok (s1, d, f) => (storePark s1 e.ptr d d.bytes.length true (isStrong st) h).bind fun r => .ok (r.flags f)
      | .cause c => parkMx e x (isStrong st) h c s
      | .wait w => .wait w
    match r with
    | .wait w => settle (.wait (waitParts w)) s
    | r => endStore r s) s

/-- LDF (R195). -/
def execLdf (d base : Reg) (st : Strength) (h : Hint) (off : BitVec 10) (s : State) : Out :=
  .next (loadF (s.rx base) off.toInt st h d s)
/-- STF (R196). -/
def execStf (v base : Reg) (st : Strength) (h : Hint) (off : BitVec 10) (s : State) : Out :=
  .next (storeF (s.rx base) off.toInt st h ((s.rx v).toNat % 2 ^ 32) s)

/-! ## Indexed forms (R197 to R199) -/

/-- The bytes of a size code. -/
def idxBytes : IdxSize → Nat
  | .s8 | .z8 => 1 | .s16 | .z16 => 2 | .s32 | .z32 => 4 | .s64 => 8 | .f32 => 4

/-- How an integer size is loaded (R197). -/
def idxDst (z : IdxSize) (d : Reg) : LoadDst :=
  match z with
  | .s8 => .sx d 8 | .s16 => .sx d 16 | .s32 => .sx d 32 | _ => .zx d

/-- LDX (R198). -/
def execLdx (d a b : Reg) (st : Strength) (z : IdxSize) (s : State) : Out :=
  .next (match z with
    | .f32 => loadF (s.rx a) (s.rx b).toInt st .dflt d s
    | z => loadTo (idxPtr s a b (idxBytes z)) (idxBytes z) st .dflt (idxDst z d) s)

/-- STX (R198). -/
def execStx (v a b : Reg) (st : Strength) (z : IdxSize) (s : State) : Out :=
  .next (match z with
    | .f32 => storeF (s.rx a) (s.rx b).toInt st .dflt ((s.rx v).toNat % 2 ^ 32) s
    | z => storeTo (idxPtr s a b (idxBytes z)) (bytesOf (s.rx v).toNat (idxBytes z)) st .dflt s)

/-- A cause with the number of the lane that raised it (R375). -/
def atLane (i : Nat) (r : Try α) : Try α :=
  match r with
  | .cause c => .cause { c with lane := i }
  | r => r

/-- Lanes loaded in ascending order: each lane is a pointer, or the bytes it takes without an access. -/
def loadLanes (w : Nat) (st : Strength) : Nat → List (Try Word ⊕ List Byte) → State → Try (State × List Byte)
  | _, [], s => .ok (s, [])
  | i, .inr bs :: rest, s =>
    (loadLanes w st (i + 1) rest s).bind fun (s', more) => .ok (s', bs ++ more)
  | i, .inl q :: rest, s =>
    (atLane i (q.bind fun p => loadAt s p w w false st .dflt)).bind fun (s1, bs) =>
    (loadLanes w st (i + 1) rest s1).bind fun (s2, more) => .ok (s2, bs ++ more)

/-- Lanes stored in ascending order: each lane is a pointer and its bytes, or suppressed. None is parked (R191). -/
def storeLanes (w : Nat) (st : Strength) : Nat → List (Option (Try Word × List Byte)) → State → Try State
  | _, [], s => .ok s
  | i, none :: rest, s => storeLanes w st (i + 1) rest s
  | i, some (q, bs) :: rest, s =>
    (atLane i (q.bind fun p => (storeAt s p { bytes := bs } w false (isStrong st) .dflt false i).bind fun s1 =>
      (if pSpace p = 0 then parkGate s1 (pAddr p) else .ok ()).bind fun _ => .ok s1)).bind fun s1 =>
    storeLanes w st (i + 1) rest s1

/-- The lane pointers of a gather or scatter: `n` lanes of `w` bytes (R199). -/
def gatherPtrs (p : Word) (idx : Vec) (w : Nat) : List (Try Word) :=
  (lanesFrom (8 * w) idx.toNat (64 / w)).map fun i => ptrTo p ((pAddr p : Int) + signedOf (8 * w) i * (w : Int))

/-- The lanes of a vector as bytes. -/
def vecLanes (v : Vec) (w : Nat) : List (List Byte) :=
  (lanesFrom (8 * w) v.toNat (64 / w)).map fun x => bytesOf x w

/-- A vector load by lanes ends. -/
def endLoadLanes (d : Reg) (st : Strength) (r : Try (State × List Byte)) (s : State) : State :=
  match r with
  | .ok (s', bs) => adv (afterLoad st (s'.wv d (BitVec.ofNat 512 (leOf bs))))
  | .cause c => settle (.cause c) s
  | .wait w => settle (.wait (waitParts w)) s

/-- A vector store by lanes ends. -/
def endStoreLanes (r : Try State) (s : State) : State :=
  match r with
  | .ok s' => adv s'
  | .cause c => settle (.cause c) s
  | .wait w => settle (.wait (waitParts w)) s

/-- VGATHER (R199). -/
def execVgather (d a b : Reg) (st : Strength) (z : IdxSize) (s : State) : Out :=
  let w := idxBytes z
  .next (endLoadLanes d st
    ((loadGate s st).bind fun _ => loadLanes w st 0 ((gatherPtrs (s.rx a) (s.rv b) w).map .inl) s) s)

/-- VSCATTER (R199). -/
def execVscatter (v a b : Reg) (st : Strength) (z : IdxSize) (s : State) : Out :=
  let w := idxBytes z
  .next (storeEnd st (fun s =>
    endStoreLanes (storeLanes w st 0
      (((gatherPtrs (s.rx a) (s.rv b) w).zip (vecLanes (s.rv v) w)).map some) s) s) s)

/-! ## Tensor accesses (R200, R201) -/

/-- The coordinates X[c] to X[c + r − 1], signed. -/
def tensorCoords (s : State) (c : Reg) (r : Nat) : List Int :=
  (List.range r).map fun d => (s.rx (regPlus c d)).toInt

/-- The positions of the lanes: dimension 0 steps by 1 (R201). -/
def lanePos (k : List Int) (n : Nat) : List (List Int) :=
  (List.range n).map fun (i : Nat) =>
    match k with
    | [] => []
    | k0 :: ks => (k0 + (i : Int)) :: ks

/-- The record and the lane positions of a tensor access, or SHAPE (R201). -/
def tensorLanes (s : State) (c : Reg) (sh : R16) : Try (ShapeRec × List (List Int)) :=
  let r := s.task.sh[sh]
  if !r.sealed || !isPlain r.fmt || decide (c.val + r.rank > 32) then .cause { code := .shape }
  else .ok (r, lanePos (tensorCoords s c r.rank) (64 / elemBytes r.fmt))

/-- TLD (R201). -/
def tld (v c : Reg) (sh : R16) (s : State) : State :=
  match tensorLanes s c sh with
  | .ok (r, lanes) =>
    let places := lanes.map fun q =>
      match r.readUnit r.edge q with
      | .at_ a => Sum.inl (ptrTo r.base a)
      | .outside => Sum.inr r.fillBytes
    endLoadLanes v .weak (loadLanes (elemBytes r.fmt) .weak 0 places s) s
  | .cause e => settle (.cause e) s
  | .wait w => settle (.wait w) s

/-- TLD (R201). -/
def execTld (v c : Reg) (sh : R16) (s : State) : Out := .next (tld v c sh s)

/-- TST (R201). -/
def tst (v c : Reg) (sh : R16) (s : State) : State :=
  match tensorLanes s c sh with
  | .ok (r, lanes) =>
    let places := (lanes.zip (vecLanes (s.rv v) (elemBytes r.fmt))).map fun (q, bs) =>
      match r.writeUnit q with
      | .at_ a => some (ptrTo r.base a, bs)
      | .outside => none
    endStoreLanes (storeLanes (elemBytes r.fmt) .weak 0 places s) s
  | .cause e => settle (.cause e) s
  | .wait w => settle (.wait w) s

/-- TST (R201). -/
def execTst (v c : Reg) (sh : R16) (s : State) : Out := .next (tst v c sh s)

end Sys2Proof.Machine
end

