-- ==== Sys2Proof/Machine/Atomic.lean ====
section
/-!
DEFINITION. Atomics, reductions and leases (R115, R204 to R211).
-/
namespace Sys2Proof.Machine

/-! ## The operations of R204 -/

/-- The code of an operation, as a stamp records it. -/
def AmoOp.code : AmoOp → Nat
  | .add => 0 | .and => 1 | .or => 2 | .xor => 3 | .min => 4 | .max => 5 | .minu => 6 | .maxu => 7
  | .swap => 8 | .cas => 9 | .fadd => 10

/-- The new value at `z` bytes from the old one and b, with flags; `cmp` is X[d] for `cas`, and `none` says that
nothing is written. -/
def AmoOp.eval (op : AmoOp) (z old b cmp : Nat) : Option Nat × Flags :=
  let m := 2 ^ (8 * z)
  let sg := signedOf (8 * z)
  match op with
  | .add => (some ((old + b) % m), 0)
  | .and => (some (old &&& b), 0)
  | .or => (some (old ||| b), 0)
  | .xor => (some (old ^^^ b), 0)
  | .min => (some (if sg old ≤ sg b then old else b), 0)
  | .max => (some (if sg old ≤ sg b then b else old), 0)
  | .minu => (some (if old ≤ b then old else b), 0)
  | .maxu => (some (if old ≤ b then b else old), 0)
  | .swap => (some b, 0)
  | .cas => (if old = cmp then some b else none, 0)
  | .fadd =>
    let r := frne fmtF32 (Sys2Proof.Machine.fadd (fdecode fmtF32 old) (fdecode fmtF32 b))
    (some r.1, r.2)

/-! ## The access -/

/-- The old value, the flags and the state of an atomic read and write. -/
structure AmoDone where
  s     : State
  old   : Nat
  flags : Flags
  deriving Repr

/-- An atomic or reduction in the core's own scratchpad. One that meets an uncorrectable error writes nothing (R207, R412). -/
def amoScratch (s : State) (op : AmoOp) (z b cmp o k : Nat) (ret : Bool) (p : Word) : Try AmoDone :=
  if s.scratchBusy s.core.id k o z || s.ownLate then .wait .stall
  else if spUe s.task k o z then
    if ret then .cause (memUe p) else .ok { s := holdCause (memUe p) s, old := 0, flags := 0 }
  else
    let old := leOf (spRead s.task k o z)
    match op.eval z old b cmp with
    | (some v, f) => .ok { s := s.modTask (spStore k o { bytes := bytesOf v z }), old := old, flags := f }
    | (none, f) => .ok { s := s, old := old, flags := f }

/-- How an atomic or reduction enters the stamps: an integer atomic with return counts as a read and a write of its bytes, whether or not it
writes (R209, R398). -/
def amoUses (op : AmoOp) (ret : Bool) : List StampUse := if ret then [.update] else [.reduce op.code]

/-- A reduction that its home cannot perform yet waits there, and its core goes on (R206, R348). -/
def queueReduction (l : Line) (h : Holder) (op : AmoOp) (z b : Nat) (leaf : Leaf) (va : Nat) (p : Word) (s : State) : State :=
  let drop := l1Remove fun e => e.tag == va / 64 && e.asid == s.asid
  let s := reverseMap l s.asid (va / 64) { s with core := drop s.core }
  let s := joinQueue l h (leaf.pa va % 64) p leaf.size (.reduce op z b) .dflt true 0 s
  if ((s.line l).gatherWrite h).isNone then askFor l h true s else s

/-- A reduction that the old home of a moving page answers MOVED: its core goes on, and sends it again once the page has moved (R206, R208,
R365). -/
def turnAway (p : Word) (op : AmoOp) (z b : Nat) (s : State) : State :=
  { s with core := { s.core with moved := s.core.moved ++ [{ ptr := p, op := op, z := z, b := b, since := s.now }] } }

/-- A page that moves: its old home answers MOVED (R208, R365). -/
def State.movingLeaf (s : State) (l : Leaf) : Bool := s.moving.contains (l.pkg, l.addr, l.size)

/-- An atomic or reduction at the home of its line, with all 16 tokens (R187, R205 to R208, R348). A reduction that
meets poison writes nothing and leaves MEM_UE for the next release. -/
def amoHome (s : State) (op : AmoOp) (z b cmp : Nat) (ret : Bool) (leaf : Leaf) (va : Nat) (p : Word) : Try AmoDone :=
  let pa := leaf.pa va
  let l := lineOf leaf.pkg pa
  let h := homeHolder s leaf.kind
  let s := noteTlb va leaf s
  let ls := s.line l
  let later (w : Wait) : Try AmoDone :=
    if ret || s.task.determinate then .wait w else .ok { s := queueReduction l h op z b leaf va p s, old := 0, flags := 0 }
  if s.movingLeaf leaf then (if ret then .wait .stall else .ok { s := turnAway p op z b s, old := 0, flags := 0 })
  else if !s.lineFree l h then later (.queued l h)
  else match (ls.served s.core.id).gatherWrite h with
    | none => later (.home l h true)
    | some ls' =>
      let old := leOf (s.readPhys leaf.pkg pa z)
      let (v, f) := op.eval z old b cmp
      (stampUses s.task s.core.id.lid p (amoUses op ret) (ls'.at_ h).stamp).bind fun st =>
        if ls.poison then
          if ret then .cause (memUe p) else .ok { s := holdCause (memUe p) s, old := 0, flags := 0 }
        else match homeTouch h l .dflt (s.setLine l (ls'.setStamp h st)) with
          | none => later .stall
          | some s' =>
            let drop := l1Remove fun e => e.tag == va / 64 && e.asid == s'.asid
            let s' := reverseMap l s'.asid (va / 64) { s' with core := drop s'.core }
            match v with
            | none => .ok { s := s', old := old, flags := f }
            | some n => .ok { s := applyStore leaf.pkg pa { bytes := bytesOf n z } s', old := old, flags := f }

/-- An atomic or reduction through a pointer: the checks of R184 and the access. -/
def amoAt (s : State) (op : AmoOp) (z b cmp : Nat) (ret : Bool) (p : Word) : Try AmoDone :=
  (locate s .atomic p z false).bind fun loc =>
  match loc with
  | .scratch o k => amoScratch s op z b cmp o k ret p
  | .remote _ _ _ => .cause (protect 0 p)
  | .phys leaf va => (parkGate s va).bind fun _ => amoHome s op z b cmp ret leaf va p

/-- The bytes of a size code (R204). -/
def amoBytes : AmoSize → Nat
  | .w => 4 | .d => 8

/-- The value that an atomic returns (R205). -/
def amoResult (op : AmoOp) (z old : Nat) : Word :=
  if z = 4 ∧ op ≠ .fadd then BitVec.ofInt 64 (signedOf 32 old) else BitVec.ofNat 64 old

/-- An atomic to a page that holds a parked store finds the page absent and faults by itself (R191). -/
def parkedFault (s : State) (z : Nat) (p : Word) : Option Cause :=
  match pSpace p, s.task.parkedPage (pageOf (pAddr p)), locate s .atomic p z false with
  | 0, true, .cause c => if c.code = .pageFault then some c else none
  | _, _, _ => none

/-- An atomic (R205, R206): a release, and an acquire at a scope wider than core. -/
def atomic (op : AmoOp) (z : Nat) (d a b : Reg) (sc : Scope) (s : State) : State :=
  if op = .fadd ∧ s.task.determinate then raise (detViolation 2) s
  else match parkedFault s z (s.rx a) with
    | some c => raise c s
    | none => releaseThen (fun s =>
      match amoAt s op z ((s.rx b).toNat % 2 ^ (8 * z)) ((s.rx d).toNat % 2 ^ (8 * z)) true (s.rx a) with
      | .ok r => adv (afterLoad (.strong sc) ((r.s.wx d (amoResult op z r.old)).modTask (·.orFlags r.flags)))
      | .cause c => settle (.cause c) s
      | .wait w => settle (.wait w) s) s

/-- A reduction (R206): a release; REDFADD sets no flag (R205). -/
def reduction (op : AmoOp) (z : Nat) (a b : Reg) (s : State) : State :=
  if op = .fadd ∧ s.task.determinate then raise (detViolation 2) s
  else releaseThen (fun s =>
    match amoAt s op z ((s.rx b).toNat % 2 ^ (8 * z)) 0 false (s.rx a) with
    | .ok r => adv r.s
    | .cause c => settle (.cause c) s
    | .wait w => settle (.wait w) s) s

/-! ## Atomics -/

/-- AMOADD (R205). -/
def execAmoadd (d a b : Reg) (sc : Scope) (z : AmoSize) (s : State) : Out := .next (atomic .add (amoBytes z) d a b sc s)
/-- AMOAND (R205). -/
def execAmoand (d a b : Reg) (sc : Scope) (z : AmoSize) (s : State) : Out := .next (atomic .and (amoBytes z) d a b sc s)
/-- AMOOR (R205). -/
def execAmoor (d a b : Reg) (sc : Scope) (z : AmoSize) (s : State) : Out := .next (atomic .or (amoBytes z) d a b sc s)
/-- AMOXOR (R205). -/
def execAmoxor (d a b : Reg) (sc : Scope) (z : AmoSize) (s : State) : Out := .next (atomic .xor (amoBytes z) d a b sc s)
/-- AMOMIN (R205). -/
def execAmomin (d a b : Reg) (sc : Scope) (z : AmoSize) (s : State) : Out := .next (atomic .min (amoBytes z) d a b sc s)
/-- AMOMAX (R205). -/
def execAmomax (d a b : Reg) (sc : Scope) (z : AmoSize) (s : State) : Out := .next (atomic .max (amoBytes z) d a b sc s)
/-- AMOMINU (R205). -/
def execAmominu (d a b : Reg) (sc : Scope) (z : AmoSize) (s : State) : Out :=
  .next (atomic .minu (amoBytes z) d a b sc s)
/-- AMOMAXU (R205). -/
def execAmomaxu (d a b : Reg) (sc : Scope) (z : AmoSize) (s : State) : Out :=
  .next (atomic .maxu (amoBytes z) d a b sc s)
/-- AMOSWAP (R205). -/
def execAmoswap (d a b : Reg) (sc : Scope) (z : AmoSize) (s : State) : Out :=
  .next (atomic .swap (amoBytes z) d a b sc s)
/-- AMOCAS (R205). -/
def execAmocas (d a b : Reg) (sc : Scope) (z : AmoSize) (s : State) : Out := .next (atomic .cas (amoBytes z) d a b sc s)
/-- AMOFADD (R205). -/
def execAmofadd (d a b : Reg) (sc : Scope) (s : State) : Out := .next (atomic .fadd 4 d a b sc s)

/-! ## Reductions -/

/-- REDADD (R206). -/
def execRedadd (a b : Reg) (_sc : Scope) (z : AmoSize) (s : State) : Out := .next (reduction .add (amoBytes z) a b s)
/-- REDAND (R206). -/
def execRedand (a b : Reg) (_sc : Scope) (z : AmoSize) (s : State) : Out := .next (reduction .and (amoBytes z) a b s)
/-- REDOR (R206). -/
def execRedor (a b : Reg) (_sc : Scope) (z : AmoSize) (s : State) : Out := .next (reduction .or (amoBytes z) a b s)
/-- REDXOR (R206). -/
def execRedxor (a b : Reg) (_sc : Scope) (z : AmoSize) (s : State) : Out := .next (reduction .xor (amoBytes z) a b s)
/-- REDMIN (R206). -/
def execRedmin (a b : Reg) (_sc : Scope) (z : AmoSize) (s : State) : Out := .next (reduction .min (amoBytes z) a b s)
/-- REDMAX (R206). -/
def execRedmax (a b : Reg) (_sc : Scope) (z : AmoSize) (s : State) : Out := .next (reduction .max (amoBytes z) a b s)
/-- REDMINU (R206). -/
def execRedminu (a b : Reg) (_sc : Scope) (z : AmoSize) (s : State) : Out := .next (reduction .minu (amoBytes z) a b s)
/-- REDMAXU (R206). -/
def execRedmaxu (a b : Reg) (_sc : Scope) (z : AmoSize) (s : State) : Out := .next (reduction .maxu (amoBytes z) a b s)
/-- REDFADD (R206). -/
def execRedfadd (a b : Reg) (_sc : Scope) (s : State) : Out := .next (reduction .fadd 4 a b s)

/-! ## Leases (R115, R211) -/

/-- The line that a LEASE names, with its leaf (R115, R184, R187). -/
def leaseLine (s : State) (p : Word) : Try (Line × Leaf) :=
  (locate s .lease p 1 false).bind fun loc =>
  match loc with
  | .phys leaf va => .ok (lineOf leaf.pkg (leaf.pa va), leaf)
  | _ => .cause (protect 0 p)

/-- The home grants a lease for `n` cycles: a strong load (R115, R192, R211, R222). -/
def grantLease (l : Line) (leaf : Leaf) (n : Nat) (s : State) : State :=
  let h := homeHolder s leaf.kind
  let ls := s.line l
  if (match loadGate s (.strong .pkg) with | .ok _ => false | _ => true) then settle (.wait .stall) s
  else if !s.lineFree l h then settle (.wait (.queued l h)) s
  else match (ls.served s.core.id).gatherWrite h with
    | none => settle (.wait (.home l h true)) s
    | some ls' =>
      match homeTouch h l .dflt (s.setLine l { ls' with lease := some s.core.id }) with
      | none => settle (.wait .stall) s
      | some s' => adv (acquire (s'.modTask fun t => { t with lease := some (l, s.now + min n 4096) }))

/-- LEASE (R115, R211). -/
def lease (a b : Reg) (s : State) : State :=
  if s.task.determinate then raise (detViolation 1) s
  else match leaseLine s (s.rx a) with
    | .cause c => settle (.cause c) s
    | .wait w => settle (.wait w) s
    | .ok (l, leaf) =>
      if s.rx b = 0 then
        releaseThen (fun s => adv (match s.task.lease with
          | some (l', _) => if l' = l then endLease s else s
          | none => s)) s
      else grantLease l leaf (s.rx b).toNat (endLease s)

/-- LEASE (R115). -/
def execLease (a b : Reg) (s : State) : Out := .next (lease a b s)

/-- LEASE_EXPIRY: the count of a lease has run out (R115). -/
def leaseExpiry (s : State) : State :=
  match s.task.lease with
  | some (_, t) => if t ≤ s.now then endLease s else s
  | none => s

/-- LEASE_EXPIRY (R115). -/
def execLeaseExpiry (c : CoreId) (s : State) : Out := .next (onCore c leaseExpiry s)

end Sys2Proof.Machine
end

