-- ==== Sys2Proof/Machine/System.lean ====
section
/-!
DEFINITION. RAND, the system registers, DTLD, the returns from handlers, the supervisor instructions, and the two
happenings of instruction fetch (R127, R170 to R182, R234, R360).
-/
namespace Sys2Proof.Machine

/-! ## RAND (R170) -/

/-- One round of the generator. -/
def randRound (i : Nat) (ab : Nat × Nat) : Nat × Nat :=
  let p := ab.1 * 0xA24BAED4963EE407
  ((p / 2 ^ 64 ^^^ ab.2) ^^^ ((i + 1) * 0x9E3779B97F4A7C15 % 2 ^ 64), p % 2 ^ 64)

/-- The generator's value for a key and a counter. -/
def randVal (key ctr : Nat) : Word :=
  let ab := (List.range 6).foldl (fun ab i => randRound i ab) (ctr, key % 2 ^ 64)
  BitVec.ofNat 64 (ab.1 ^^^ ab.2)

/-- RAND (R170). -/
def execRand (d : Reg) (sel : Fin 8) (s : State) : Out :=
  let ctr := s.task.rngc[sel]
  let s := s.modTask fun t => { t with rngc := t.rngc.set sel.val (ctr + 1), rngwrap := t.rngwrap || ctr == BitVec.allOnes 64 }
  .next (setX d (randVal (s.core.id.lid * 8 + sel.val) ctr.toNat) s)

/-! ## System registers (R171 to R175) -/

/-- TSTAT (R173). -/
def Task.tstat (t : Task) : Word :=
  BitVec.ofNat 64 (t.gang * 256 + (if t.termdone then 2 else 0) + (if t.rngwrap then 1 else 0))

/-- REPSTATE (R174): its fields describe a frozen body. -/
def RepBuf.repstate (r : RepBuf) : Word :=
  if r.frozen then BitVec.ofNat 64 (r.nextw * 65536 + (r.words.length - 1) * 4096 + 1) else 0

/-- REPCNT (R172): the repetitions of a frozen body that are not completed. -/
def RepBuf.repcnt (r : RepBuf) : Word := if r.frozen then BitVec.ofNat 64 (r.total - r.rep) else 0

/-- The value of a system register (R172). -/
def sysVal (s : State) (r : SysReg) : Word :=
  let t := s.task
  match r with
  | .fstat => t.fstat.setWidth 64
  | .tstat => t.tstat
  | .cycle => t.cycle
  | .lcid => BitVec.ofNat 64 s.core.id.lid
  | .tile => t.tile
  | .launch => t.handle
  | .upmask => t.upmask
  | .upvec => t.upvec
  | .uivec => t.uivec
  | .upepc => t.upepc
  | .upcause => t.upcause
  | .upaddr => t.upaddr
  | .upinfo => t.upinfo
  | .uiepc => t.uiepc
  | .uipend => t.uipend
  | .repstate => t.rep.repstate
  | .repcnt => t.rep.repcnt
  | .rngc i => t.rngc[i]
  | .win i => t.win[i]
  | .pgnote => t.notices.headD 0

/-- The subcode of DET_VIOLATION that reading a register raises in a DETERMINATE launch (R175, R396, R397). -/
def sysDet : SysReg → Option Nat
  | .cycle => some 3
  | .uipend | .uiepc | .pgnote => some 4
  | _ => none

/-- A read of PGNOTE removes the notice that it returns (R379). -/
def Task.afterSysr (r : SysReg) (t : Task) : Task :=
  match r with
  | .pgnote => { t with notices := t.notices.tail }
  | _ => t

/-- SYSR (R175). -/
def sysr (d : Reg) (r : SysReg) (s : State) : State :=
  let v := sysVal s r
  let read := setX d v (s.modTask (Task.afterSysr r))
  if s.task.determinate then
    match sysDet r with
    | some sub => raise (detViolation sub) s
    | none => read
  else read

/-- SYSR (R175). -/
def execSysr (d : Reg) (r : SysReg) (s : State) : Out := .next (sysr d r s)

/-- The writable bits of UPMASK (R374). -/
def upmaskBits : Word := 0xFF1DA

/-- The fields of a window register (R309). -/
def winBits : Word := 0xFFFF00030FFF07FF

/-- A system register written field by field (R175): read-only fields keep their value, and W1C fields clear where
the value has a 1. -/
def Task.sysw (r : SysReg) (v : Word) (t : Task) : Task :=
  match r with
  | .fstat => { t with fstat := v.setWidth 5 }
  | .tstat => { t with rngwrap := t.rngwrap && !v.getLsbD 0 }
  | .upmask => { t with upmask := v &&& upmaskBits }
  | .upvec => { t with upvec := v / 4 * 4 }
  | .uivec => { t with uivec := v / 4 * 4 }
  | .upepc => { t with upepc := v }
  | .uiepc => { t with uiepc := v }
  | .uipend => { t with uictr := t.uictr &&& ~~~(v.setWidth 16) }
  | .repstate => if t.rep.frozen && v.getLsbD 0 then { t with rep := {} } else t
  | .rngc i => { t with rngc := t.rngc.set i.val v }
  | .win i => { t with win := t.win.set i.val (v &&& winBits) }
  | .cycle | .lcid | .tile | .launch | .upcause | .upaddr | .upinfo | .repcnt | .pgnote => t

/-- A window register. -/
def isWin : SysReg → Bool
  | .win _ => true
  | _ => false

/-- SYSW (R175). A write of a window comes before the peers' accesses of its cycle, so behind one it comes in a later cycle (R326). -/
def execSysw (a : Reg) (r : SysReg) (s : State) : Out :=
  .next (if isWin r && s.task.wlast == some s.now then waitAs .stall s else adv (s.modTask (Task.sysw r (s.rx a))))

/-! ## DTLD (R176, R234) -/

/-- Does an issued local step decode an operand through the table (R97)? Steps of other leaders are not waited for
(R279). -/
def MStep.usesTable (t : C8Table) (m : MStep) : Bool :=
  let code := match t with | .a => 2 | .b => 3
  !m.done && (bitsAt m.fmt.toNat 4 4 == code || bitsAt m.fmt.toNat 0 4 == code)

/-- A decode table replaced, once no issued step uses the old one. -/
def setTable (tab : C8Table) (v : C8Tab) (s : State) : State :=
  if s.task.steps.any (MStep.usesTable tab) then waitAs .stall s
  else adv (s.modTask fun t => match tab with | .a => { t with dta := v } | .b => { t with dtb := v })

/-- The 1,024 bytes of a table, line by line. -/
def tableBytes (p : Word) : Nat → State → Try (State × List Byte)
  | 0, s => .ok (s, [])
  | n + 1, s =>
    (ptrTo p (pAddr p + 64 * (15 - n) : Nat)).bind fun q =>
    (loadAt s q 64 64 false .weak .dflt).bind fun (s1, bs) =>
    (tableBytes p n s1).bind fun (s2, rest) => .ok (s2, bs ++ rest)

/-- The word of entry `c` of a table's bytes. -/
def tableWord (bs : List Byte) (c : Nat) : Nat := leOf ((bs.drop (4 * c)).take 4)

/-- The checks and loads of DTLD from memory (R176). -/
def readTable (p : Word) (s : State) : Try (State × List Byte) :=
  if pFmt p ≠ 0 ∨ pSpace p > 1 then .cause (protect 0 p)
  else if pAddr p % 64 ≠ 0 then .cause (protect 1 p)
  else (tableBytes p 16 s).bind fun (s', bs) =>
    if (List.range 256).any fun c => tableWord bs c ≥ 2 ^ 19 then .cause { code := .shape } else .ok (s', bs)

/-- DTLD from a pointer (R176). -/
def dtld (a : Reg) (t : C8Table) (s : State) : State :=
  match readTable (s.rx a) s with
  | .ok (s', bs) => setTable t (Vector.ofFn fun i => BitVec.ofNat 19 (tableWord bs i.val)) s'
  | .cause c => settle (.cause c) s
  | .wait w => settle (.wait w) s

/-- DTLD (R176). -/
def execDtld (a : Reg) (t : C8Table) (s : State) : Out := .next (dtld a t s)
/-- DTLD int8: entry c is c as an S8 value (R176). -/
def execDtldInt8 (t : C8Table) (s : State) : Out := .next (setTable t int8Table s)
/-- DTLD e4m3: entry c is the E4M3 value of code c (R176). -/
def execDtldE4m3 (t : C8Table) (s : State) : Out := .next (setTable t (c8From (fdecode fmtE4M3)) s)
/-- DTLD e5m2: entry c is the E5M2 value of code c (R176). -/
def execDtldE5m2 (t : C8Table) (s : State) : Out := .next (setTable t (c8From (fdecode fmtE5M2)) s)

/-! ## Returns from handlers (R177) -/

/-- UPRET (R177). -/
def execUpret (s : State) : Out :=
  .next (if s.task.handling = .upcall then gangMark (s.modTask Task.leaveUpcall) else illegal s)

/-- UIRET (R177). -/
def execUiret (s : State) : Out :=
  .next (if s.task.handling = .interrupt then gangMark (s.modTask Task.leaveInterrupt) else illegal s)

/-! ## Supervisor instructions (R127, R178 to R182) -/

/-- On any core but a supervisor core, PRIVILEGE (R127, R178). -/
def privileged (k : State → State) (s : State) : State :=
  if s.core.kind = .supervisor then k s else raise { code := .privilege } s

/-- PHYSCOORD (R179). -/
def CorePlace.word (p : CorePlace) : Word :=
  BitVec.ofNat 64 (p.pkg % 4 * 2 ^ 32 + p.unit % 256 * 65536 + p.row % 256 * 256 + p.col % 256)

/-- The half of a supervisor core (R408, R411): cores 0 to 7 and 8 to 15 of a package. The spec does not say which cores form a half (DESIGN
CHOICE, assumption log 110). -/
def CorePlace.half (p : CorePlace) : Nat := p.col / 8 % 2

/-- The value of a supervisor register (R179). -/
def supVal (s : State) (r : SupReg) : Word :=
  match r with
  | .physcoord => s.core.place.word
  | .coretype => 2
  | .asid => s.core.asid
  | .ptbase => s.core.ptbase
  | .half => if s.core.place.half = (s.pkg s.core.place.pkg).active then 0 else 1

/-- SVR (R179). -/
def execSvr (d : Reg) (r : SupReg) (s : State) : Out := .next (privileged (fun s => setX d (supVal s r) s) s)

/-- A supervisor register written: ASID's upper bits and the read-only registers keep their value (R179). -/
def Core.svw (r : SupReg) (v : Word) (k : Core) : Core :=
  match r with
  | .asid => { k with asid := v &&& 0xFFFF }
  | .ptbase => { k with ptbase := v }
  | .physcoord | .coretype | .half => k

/-- SVW (R179). -/
def execSvw (a : Reg) (r : SupReg) (s : State) : Out :=
  .next (privileged (fun s => adv { s with core := s.core.svw r (s.rx a) }) s)

/-- Is a TLB, by its key, in the scope of the supervisor core's TLBINV (R180)? A supervisor core lies on no compute die: core, bench and die
scope are its own TLB's unit, the abutment die (DESIGN CHOICE, assumption log 111). -/
def tlbInScope (sc : Scope) (p : CorePlace) (key : Nat) : Bool :=
  match sc with
  | .core | .bench | .die => key / 65536 == p.pkg * 16 + p.unit
  | .pkg => key / 65536 / 16 == p.pkg
  | .dom => true

/-- The entries that `hit` picks leave the TLBs in scope, and the L1 lines that `line` picks leave the L1s (R180, R363). -/
def dropTranslations (inScope : Nat → Bool) (hit : TlbEntry → Bool) (line : L1Line → Bool) (s : State) : State :=
  let f (k : Core) : Core := if inScope k.place.tlb then l1Remove line k else k
  { s with
    tlbs := s.tlbs.filterMap fun (k, es) =>
      let es' := if inScope k then es.filter fun e => !hit e else es
      if es'.isEmpty then none else some (k, es')
    core := f s.core
    others := s.others.map fun (i, k) => (i, f k) }

/-- TLBINV (R180): the translations that `covers` picks, by ASID, an address that they translate and the size of their leaf, leave the
TLBs in scope with the L1 lines cached through them (R363). It completes once every store and reduction that they translated has been
performed. -/
def tlbInvalidate (sc : Scope) (covers : Nat → Nat → Nat → Bool) (s : State) : State :=
  let inScope := tlbInScope sc s.core.place
  let open_ (e : HomeReq) : Bool := !e.again && match s.findCore e.who with
    | some k => inScope k.place.tlb && covers (switchTo e.who s).asid (pAddr e.ptr) e.size
    | none => false
  if s.lines.any fun (_, ls) => ls.queue.any open_ then waitAs .stall s
  else adv (dropTranslations inScope (fun e => covers e.asid e.va e.leaf.size) (fun l => covers l.asid (l.tag * 64) l.size) s)

/-- TLBINV of one address (R180). -/
def tlbinv (a b : Reg) (sc : Scope) (s : State) : State :=
  let va := (s.rx a).toNat
  let asid := (s.rx b).toNat
  if asid ≥ 65536 then raise (protect 0) s
  else tlbInvalidate sc (fun i x size => i == asid && x / size == va / size) s

/-- TLBINV (R180). -/
def execTlbinv (a b : Reg) (sc : Scope) (s : State) : Out := .next (privileged (tlbinv a b sc) s)

/-- TLBINV of a whole ASID (R180). -/
def tlbinvAll (b : Reg) (sc : Scope) (s : State) : State :=
  let asid := (s.rx b).toNat
  if asid ≥ 65536 then raise (protect 0) s
  else tlbInvalidate sc (fun i _ _ => i == asid) s

/-- TLBINV with ALL (R180). -/
def execTlbinvAll (b : Reg) (sc : Scope) (s : State) : Out := .next (privileged (tlbinvAll b sc) s)

/-- The instruction caches of a tenant's cores in a package emptied (R129, R181). -/
def clearIcache (pkg tenant : Nat) (s : State) : State :=
  let f (k : Core) : Core := if k.place.pkg == pkg && k.id.tenant == tenant then { k with icache := [] } else k
  { s with core := f s.core, others := s.others.map fun (i, k) => (i, f k) }

/-- CACHEINV icache (R181). -/
def cacheinvIcache (a : Reg) (s : State) : State :=
  let v := (s.rx a).toNat
  if v ≥ 256 then raise (protect 0) s else adv (clearIcache s.core.place.pkg v s)

/-- CACHEINV icache (R181). -/
def execCacheinvIcache (a : Reg) (s : State) : Out := .next (privileged (cacheinvIcache a) s)

/-- CACHEINV l2 (R181): the line leaves its home slice on every die of the package, whichever package's memory it is a line of, so that
the frames of other packages can be cleared too (R364; DEDUCED, assumption log 12). -/
def cacheinvL2 (a : Reg) (s : State) : State :=
  let v := (s.rx a).toNat
  let pkg := s.core.place.pkg
  if v % 64 ≠ 0 ∨ v ≥ 2 ^ 52 then raise (protect 0) s
  else adv ((List.range 16).foldl (fun s i => purgeL2 pkg (i / 4) (lineOf (i % 4) v) s) s)

/-- CACHEINV l2 (R181). -/
def execCacheinvL2 (a : Reg) (s : State) : Out := .next (privileged (cacheinvL2 a) s)

/-- WFI: a core of the active half takes a latched notification and goes on, or waits for one; the standby half takes none (R182, R411). A
package has one latch, which the first WFI empties by one, and requests for pages wake WFI too (DESIGN CHOICE, assumption log 112). -/
def wfi (s : State) : State :=
  let p := s.core.place.pkg
  if (s.pkg p).notifs.isEmpty || s.core.place.half != (s.pkg p).active then waitAs .idle s
  else adv (s.modPkg p fun k => { k with notifs := k.notifs.tail })

/-- WFI (R182). -/
def execWfi (s : State) : Out := .next (privileged wfi s)

/-! ## Happenings of instruction fetch -/

/-- ILLEGAL_INSTRUCTION: the word at the running task's program counter does not decode (R127). -/
def execIllegalInstruction (s : State) : Out :=
  .next (if s.task.st ≠ .running then s else
    match fetch s with
    | .ok (s', w) =>
      match decodeWord w with
      | .ok _ => s
      | .error _ => illegal s'
    | _ => s)

/-- FETCH_FAULT: the word at the running task's program counter cannot be fetched (R360, R379). -/
def execFetchFault (s : State) : Out :=
  .next (if s.task.st ≠ .running then s else
    match fetch s with
    | .cause c => raise c s
    | _ => s)

end Sys2Proof.Machine
end

