-- ==== Sys2Proof/Machine/Engine.lean ====
section
/-!
DEFINITION. What the engines share (R188, R273, R288, R318, R353): their reads and writes of memory, the pins of a
copy's destination lines, boxes gathered and scattered, and asynchronous causes.
-/
namespace Sys2Proof.Machine

/-! ## Causes of engines (R273, R375) -/

/-- A cause of an engine. -/
def engineCause (n : Nat) (c : Cause) : Cause := { c with engine := n }

/-- A cause that a transfer meets after its instruction has retired (R273, R288). -/
def asyncCause (engine ctr : Nat) (c : Cause) : Cause := { c with engine := engine, counter := ctr, async := true }

/-! ## Context areas (R383, R385, R386) -/

/-- What a context area holds below the supervisor's part (R383), as addresses from its start with their bytes: the scale stores, the
operand slots, the accumulator memory and the scratchpad, row by row. -/
def Task.image (t : Task) : List (Nat × Byte) :=
  let slots := t.slots.toList.zipIdx
  (slots.flatMap fun (o, i) => o.scales.flatMap fun (k, v) => (bytesOf v.toNat 2).zipIdx.map fun (b, j) => (0x8000 + 1024 * i + 2 * k + j, b))
    ++ (slots.flatMap fun (o, i) => o.data.map fun (k, b) => (0xA000 + 8192 * i + k, b))
    ++ (t.acc.flatMap fun (k, v) => (bytesOf v.toNat 4).zipIdx.map fun (b, j) => (0x1A000 + 4 * k + j, b))
    ++ t.scratch.map fun (k, b) => (0x2A000 + k, b)

/-- Bytes at rising offsets from one. -/
def placed (off : Nat) (bs : List Byte) : List (Nat × Byte) := bs.zipIdx.map fun (b, j) => (off + j, b)

/-- The value of a table's entry: a sign and a magnitude (R234). -/
def tableKey (v : BitVec 19) : Int := if v.toNat < 2 ^ 18 then (v.toNat : Int) else -((v.toNat - 2 ^ 18 : Nat) : Int)

/-- An entry, with its code, placed among others by rising value, then by rising code. -/
def insertEntry (x : BitVec 19 × Nat) : List (BitVec 19 × Nat) → List (BitVec 19 × Nat)
  | [] => [x]
  | y :: ys => if tableKey x.1 ≤ tableKey y.1 then x :: y :: ys else y :: insertEntry x ys

/-- A decode table as the block at 0x5000 holds it, and its sorted view: words of R176 in the order of their codes, and in rising order with
the code in bits 31 to 24 (DESIGN CHOICE, assumption log 82). -/
def tableWords (t : C8Tab) : List Nat × List Nat :=
  (t.toList.map (·.toNat), (t.toList.zipIdx.foldr insertEntry []).map fun (v, c) => c * 2 ^ 24 + v.toNat)

/-- A wait as doubles of the block at 0x6000 (assumption log 82). -/
def Wait.doubles : Wait → List Nat
  | .line n d => [1, n, d.val]
  | .strata key t v st _ _ _ => [2, key.rid, key.k, t, v.val, st.val]
  | .await n b => [3, n.val, b.toNat]
  | _ => [0]

/-- A list of doubles behind their count. -/
def counted (xs : List Nat) : List Nat := xs.length :: xs

/-- The registers of the block at 0x1000 in the order of R383, one double each, of wider ones the lowest first (DESIGN CHOICE, assumption
log 82). -/
def regDoubles (s : State) : List Nat :=
  let t := s.task
  let wide (v : Vec) : List Nat := (List.range 8).map fun i => v.toNat / 2 ^ (64 * i) % 2 ^ 64
  t.x.toList.tail.map (·.toNat) ++ t.xs.toList.map (·.toNat) ++ t.v.toList.flatMap wide ++ t.k.toList.tail.map (·.toNat)
    ++ t.q.toList.flatMap wide ++ t.c.toList.map (·.toNat) ++ t.sh.toList.flatMap (fun r => r.d.toList.map (·.toNat))
    ++ t.sh.toList.map (fun r => if r.sealed then 1 else 0) ++ t.mg.toList.map (·.toNat)
    ++ (List.range 30).map (fun n => ((sysRegOf n).map fun r => (sysVal s r).toNat).getD 0)
    ++ t.caps.toList.map fun c => c.token * 65536 + c.sender

/-- The doubles of the block at 0x6000 in the order of R383 (DESIGN CHOICE, assumption log 82). -/
def stateDoubles (t : Task) : List Nat :=
  let b (x : Bool) : Nat := if x then 1 else 0
  let r := t.rep
  [b r.running, b r.frozen, r.nextw, r.rep, r.total, r.sd, r.sa, r.sb, b r.shadow] ++ counted r.words ++ r.captured.toList.map (·.toNat)
    ++ t.copies.length :: t.copies.flatMap (fun c => [c.seq, c.slot, c.ctr, b c.int, c.buf.toNat, (c.waiting.map (· + 1)).getD 0]
        ++ c.shape.d.toList.map (·.toNat) ++ counted (c.origin.map (·.toNat)) ++ counted (c.extent.map (·.toNat)))
    ++ [t.mseq, t.batches, t.cseq]
    ++ (match t.xphase with
        | none => [0]
        | some x => [1, x.line, x.ctr, x.areaOff, x.areaLen, (x.zero.map (· + 1)).getD 0, x.lastCycle]
            ++ x.entries.length :: x.entries.flatMap fun e => [e.o, e.dest, e.lines])
    ++ t.replay.length :: t.replay.flatMap (fun e => [e.page, e.ptr.toNat, b e.strong, b e.readdup, e.data.bytes.length] ++ (List.range 8).map fun i =>
        leOf ((e.data.bytes.drop (8 * i)).take 8))
    ++ counted t.requests ++ counted ((t.notices ++ t.arrived).map (·.toNat)) ++ t.wait.doubles
    ++ [match t.handling with | .none => 0 | .upcall => 1 | .interrupt => 2, t.gang, b t.gangDone, t.fusing]

/-- The blocks of the current task's context area below the scale stores, as offsets with their bytes (R383). -/
def State.blocks (s : State) : List (Nat × Byte) :=
  let bytes (n : Nat) (xs : List Nat) : List Byte := xs.flatMap fun x => bytesOf x n
  let a := tableWords s.task.dta
  let b := tableWords s.task.dtb
  placed 0x1000 ((bytes 8 (regDoubles s)).take 0x4000) ++ placed 0x5000 (bytes 4 (a.1 ++ b.1 ++ a.2 ++ b.2))
    ++ placed 0x6000 ((bytes 8 (stateDoubles s.task)).take 0x2000)

/-- The current task's state written to its context area, behind the trap record (R383, R384). A line of it is poisoned no more (R356). -/
def saveImage (s : State) : State :=
  match s.task.area with
  | none => s
  | some (p, a) => (s.blocks ++ s.task.image).foldl (fun s (o, b) => s.writePhys p (a + o) [b]) (s.zeroPhys p (a + 64) (0x4A000 - 64))

/-- A piece of a context area as a map from positions, `n` bytes from an offset. -/
def State.areaMap (s : State) (p a off n : Nat) : Map Byte :=
  let base := memKey p (a + off)
  (s.mem.filter fun (k, _) => decide (base ≤ k) && decide (k < base + n)).map fun (k, b) => (k - base, b)

/-- Bytes by position gathered into numbers of `n` bytes by number. -/
def gatherBytes (n : Nat) (m : Map Byte) : Map Nat :=
  m.foldl (fun r (k, b) => mapSet 0 r (k / n) (mapGet 0 r (k / n) + b.toNat * 256 ^ (k % n))) []

/-- A restored task's scratchpad, accumulators, slots and scales as its context area holds them (R385). -/
def Task.loadImage (s : State) (t : Task) : Task :=
  match t.area with
  | none => t
  | some (p, a) =>
    let slot (i : Fin 8) : Slot :=
      { t.slots[i] with
        scales := (gatherBytes 2 (s.areaMap p a (0x8000 + 1024 * i.val) 1024)).map fun (k, v) => (k, BitVec.ofNat 16 v)
        data := s.areaMap p a (0xA000 + 8192 * i.val) 8192 }
    { t with
      slots := Vector.ofFn slot
      acc := (gatherBytes 4 (s.areaMap p a 0x1A000 65536)).map fun (k, v) => (k, BitVec.ofNat 32 v)
      scratch := s.areaMap p a 0x2A000 131072 }

/-- `f` done as the current task, which is away: on the image in its context area (R386). -/
def atImage (f : State → State) (s : State) : State :=
  if s.task.area.isNone then f s
  else
    let t := f (s.modTask (Task.loadImage s))
    if t.task.st = .ended then t else saveImage t

/-- `f` done as the current task, on its image while it is SUSPENDED. -/
def atPlace (f : State → State) (s : State) : State := if s.task.st = .suspended then atImage f s else f s

/-- `f` done as the task of a launch's index that is bound to the current core or pre-empted on it: an engine acts for its
own task, whose image is saved while the task is away (R299, R386). -/
def asOwner (launch index : Nat) (f : State → State) (s : State) : State :=
  let mine (t : Task) : Bool := t.launch == launch && t.index == index
  if mine s.task then atPlace f s
  else match s.core.saved.findIdx? mine with
    | none => s
    | some i =>
      match s.core.saved[i]? with
      | none => s
      | some own =>
        let s1 := atImage f (s.withTask own)
        { s1 with core := { s1.core with task := s.task, saved := s.core.saved.set i s1.task } }

/-! ## Pieces of a run -/

/-- The bytes `n` from address `a` cut at the ends of lines: (address, length). -/
def pieces (a n : Nat) : List (Nat × Nat) :=
  if n = 0 then [] else
  (List.range ((a % 64 + n + 63) / 64)).map fun (i : Nat) =>
    let l := a / 64 * 64 + 64 * i
    (max a l, min (a + n) (l + 64) - max a l)

/-- The pointer through which an engine accesses bytes: span, space and address of `p`, format `raw`. -/
def engPtr (p : Word) : Word := BitVec.ofNat 64 (p.toNat % 2 ^ 55)

/-! ## Accesses at home -/

/-- May an engine's access go to the line at its home now? Pins of other transfers there hold a read back, and earlier pins a write (R188);
a lease of another core and a recreation do too, and so do the requests that had reached the home before: before the transfer's pin, if it
has one (R323, R332, R339). -/
def engineFree (me : Option Pin) (write : Bool) (l : Line) (h : Holder) (s : State) : Bool :=
  let ls := s.line l
  let pins := (ls.pins.filter fun p => p.2 == h).map (·.1)
  let mine := pins.any fun p => some p == me
  (if write then pins.isEmpty || pins.head? == me else pins.all fun p => some p == me)
    && (match s.leaseOf l with
        | some c => c == s.core.id
        | none => ((s.waiting l).filter fun e => e.home == h).all fun e => mine && e.behind)
    && ls.collecting.isNone

/-- An engine's read of bytes of one line at its home: it allocates nothing (R318) and stamps nothing (R398; assumption
log 16). -/
def engineRead (me : Option Pin) (leaf : Leaf) (va n : Nat) (p : Word) (s : State) : Try (State × List Byte) :=
  let pa := leaf.pa va
  let l := lineOf leaf.pkg pa
  let h := homeHolder s leaf.kind
  let ls := s.line l
  if !engineFree me false l h s then .wait .stall
  else match ls.gatherRead h with
    | none => .wait (.home l h false)
    | some ls' => if ls.poison then .cause (memUe p) else .ok ((noteTlb va leaf s).setLine l ls', s.readPhys leaf.pkg pa n)

/-- The L2 access that goes with an engine's write: it may take the way of a line of its own (R318). -/
def engineTouch (me : Option Pin) (h : Holder) (l : Line) (s : State) : Option State :=
  match h with
  | .die p d => touchFor me p d l .dflt s
  | .home => some (dropCopies l s)

/-- An engine's write of bytes of one line at its home (R187, R353, R356). A poisoned line takes them where the transfer writes `whole`
of it. -/
def engineWrite (me : Option Pin) (whole : Bool) (leaf : Leaf) (va : Nat) (bs : List Byte) (p : Word) (s : State) : Try State :=
  let pa := leaf.pa va
  let l := lineOf leaf.pkg pa
  let h := homeHolder s leaf.kind
  let ls := s.line l
  if !engineFree me true l h s then .wait .stall
  else match ls.gatherWrite h with
    | none => .wait (.home l h true)
    | some ls' =>
      if ls.poison && decide (bs.length < 64) && !whole then .cause (memUe p)
      else match engineTouch me h l ((noteTlb va leaf s).setLine l ls') with
        | none => .wait .stall
        | some s' => .ok (applyStore leaf.pkg pa { bytes := bs } s')

/-- A cause of an engine's access names the pointer as the transfer formed it. -/
def atPtr (p : Word) (r : Try α) : Try α :=
  match r with
  | .cause c => .cause { c with addr := p }
  | r => r

/-- `n` bytes of one line read through a pointer of space 0, 1 or 2. -/
def enginePull (me : Option Pin) (p : Word) (n : Nat) (s : State) : Try (State × List Byte) :=
  atPtr p <| (locate s .engineRead (engPtr p) 1 false).bind fun loc =>
  match loc with
  | .scratch o k =>
    if o + n > 2 ^ 17 then .cause (protect 0 p) else if spUe s.task k o n then .cause (memUe p) else .ok (s, spRead s.task k o n)
  | .remote w o k =>
    if o + n > 2 ^ 17 then .cause (protect 0 p)
    else (remoteCheck s p w o n false).bind fun owner => if spUe owner.task k o n then .cause (memUe p) else .ok (admitPeer owner false s, spRead owner.task k o n)
  | .phys leaf va => engineRead me leaf va n p s

/-- Bytes of one line written through a pointer of space 0, 1 or 2. -/
def enginePush (me : Option Pin) (whole : Bool) (p : Word) (bs : List Byte) (s : State) : Try State :=
  atPtr p <| (locate s .engineWrite (engPtr p) 1 false).bind fun loc =>
  match loc with
  | .scratch o k =>
    if o + bs.length > 2 ^ 17 then .cause (protect 0 p)
    else if spSpoils s.task k o bs.length false then .cause (memUe p) else .ok (s.modTask (spStore k o { bytes := bs }))
  | .remote w o k =>
    if o + bs.length > 2 ^ 17 then .cause (protect 0 p)
    else (remoteCheck s p w o bs.length true).bind fun owner =>
      if owner.task.lineLate s.now s.core.id.lid then .wait .stall
      else if spSpoils owner.task k o bs.length false then .cause (memUe p)
      else .ok (admitPeer owner true (modTaskOf owner.id (spStore k o { bytes := bs }) s))
  | .phys leaf va => engineWrite me whole leaf va bs p s

/-! ## Runs of bytes -/

/-- What a transfer has done: its effect, with the cause that stopped it, if one did; a page that is absent, and a
wait, leave everything as it was. -/
inductive Moved (α : Type) where
  | did (a : α) (c : Option Cause)
  | page (va : Nat)
  | hold (w : Wait)
  deriving Repr

/-- Part of a transfer's source: bytes given, or bytes at an exact address. -/
inductive Src where
  | fill (bs : List Byte)
  | at_ (a : Int) (n : Nat)
  deriving DecidableEq, Repr, Inhabited

/-- A source cut at the ends of lines. -/
def Src.cut : Src → List Src
  | .fill bs => [.fill bs]
  | .at_ a n => (pieces (a % ((2 ^ 48 : Nat) : Int)).toNat n).map fun (x, m) => .at_ (a + (x : Int) - a % ((2 ^ 48 : Nat) : Int)) m

/-- Destinations cut at the ends of lines: exact addresses and lengths. -/
def cutDst (a : Int) (n : Nat) : List (Int × Nat) :=
  (pieces (a % ((2 ^ 48 : Nat) : Int)).toNat n).map fun (x, m) => (a + (x : Int) - a % ((2 ^ 48 : Nat) : Int), m)

/-- Sources read one after another through a base pointer: their bytes up to the first fault (R288). -/
def gather (me : Option Pin) (base : Word) : List Src → State → Moved (State × List Byte)
  | [], s => .did (s, []) none
  | .fill bs :: rest, s =>
    match gather me base rest s with
    | .did (s', more) c => .did (s', bs ++ more) c
    | r => r
  | .at_ a n :: rest, s =>
    match (ptrTo base a).bind fun p => enginePull me p n s with
    | .cause c => if c.code = .pageFault then .page (pAddr c.addr) else .did (s, []) (some c)
    | .wait w => .hold w
    | .ok (s1, bs) =>
      match gather me base rest s1 with
      | .did (s', more) c => .did (s', bs ++ more) c
      | r => r

/-- Bytes written one destination after another through a base pointer, up to the first fault or the end of the bytes
(R288). `whole` tells of which lines all bytes are written. -/
def scatter (me : Option Pin) (whole : Int → Bool) (base : Word) : List (Int × Nat) → List Byte → State → Moved State
  | [], _, s => .did s none
  | (a, n) :: rest, bs, s =>
    if bs.isEmpty then .did s none else
    match (ptrTo base a).bind fun p => enginePush me (whole (a / 64)) p (bs.take n) s with
    | .cause c => if c.code = .pageFault then .page (pAddr c.addr) else .did s (some c)
    | .wait w => .hold w
    | .ok s1 => scatter me whole base rest (bs.drop n) s1

/-- The destinations cover every byte of the line of addresses 64 × `n` on (R356). -/
def coversLine (ds : List (Int × Nat)) (n : Int) : Bool :=
  (List.range 64).all fun (i : Nat) => ds.any fun (a, m) => decide (a ≤ 64 * n + (i : Int)) && decide (64 * n + (i : Int) < a + (m : Int))

/-- The engines of a core wait for no line any more. -/
def unwant (c : CoreId) (s : State) : State :=
  { s with lines := s.lines.filterMap fun (k, ls) =>
      let ls' : LineState := { ls with wants := ls.wants.filter fun w => w.1 != c }
      if ls' = {} then none else some (k, ls') }

/-- A transfer that must wait asks for the tokens it lacks (R348), and counts among the accesses that wait for the line at its home
(R350, R352). -/
def engineHold (w : Wait) (s : State) : State :=
  match w with
  | .home l h write =>
    let me : CoreId × Holder := (s.core.id, h)
    let ls := s.line l
    askFor l h write (if ls.wants.contains me then s else s.setLine l { ls with wants := ls.wants ++ [me] })
  | _ => s

/-! ## Pins (R188, R318, R353) -/

/-- Where a piece of a destination lies in space 0, if the page is there and admits the write: the engine walks as its core does, and may
have to wait for the walk (R361). -/
def pinTarget (s : State) (base : Word) (a : Int) : Try (Option (Leaf × Nat)) :=
  match (ptrTo base a).bind fun p => locate s .engineWrite (engPtr p) 1 false with
  | .ok (.phys leaf va) => .ok (some (leaf, va))
  | .wait w => .wait w
  | _ => .ok none

/-- The lines that a transfer pins at a holder in the L2 set of a line. -/
def State.setPins (s : State) (me : Pin) (p d : Nat) (l : Line) : Nat :=
  (s.lines.filter fun (k, ls) => ls.pins.contains (me, .die p d)
    && l2Key p d { pkg := k / 2 ^ 46, idx := k % 2 ^ 46 } == l2Key p d l).length

/-- A destination line pinned: its tokens are taken, and it takes a way of its set. A transfer pins at most 8 lines of a set, and takes the
others as it comes to them (R318, R353). -/
def pinLine (me : Pin) (leaf : Leaf) (va : Nat) (s : State) : State :=
  let l := lineOf leaf.pkg (leaf.pa va)
  let s := noteTlb va leaf s
  let h := homeHolder s leaf.kind
  let full := match h with
    | .die p d => decide (8 ≤ s.setPins me p d l)
    | .home => false
  if (s.line l).pins.contains (me, h) || full then s
  else match homeTouch h l .dflt s with
    | none => s
    | some s =>
      let s := s.setLine l { s.line l with pins := (s.line l).pins ++ [(me, h)] }
      if ((s.line l).gatherWrite h).isNone then engineHold (.home l h true) s else s

/-- The destination lines of a transfer pinned, as far as they translate. -/
def pinAll (me : Pin) (base : Word) : List (Int × Nat) → State → Try State
  | [], s => .ok s
  | (a, _) :: rest, s =>
    (pinTarget s base a).bind fun t => pinAll me base rest (match t with
      | none => s
      | some (leaf, va) => pinLine me leaf va s)

/-- Every pin of a transfer released. -/
def unpin (me : Pin) (s : State) : State :=
  { s with lines := s.lines.filterMap fun (k, ls) =>
      let ls' := ls.unpin me
      if ls' = {} then none else some (k, ls') }

/-! ## Boxes (R100, R226, R278, R287) -/

/-- The bytes of elements or stream in one unit of a record, without its scale. -/
def ShapeRec.dataBytes (r : ShapeRec) : Nat :=
  if isMx r.fmt then mxBlock r.fmt - 1 else if isSeam r.fmt then seamBits r.fmt r.blockN / 8 else elemBytes r.fmt

/-- The bytes of a unit's scale. -/
def ShapeRec.scaleBytes (r : ShapeRec) : Nat := if isMx r.fmt then 1 else if isSeam r.fmt then 2 else 0

/-- The sources of a box in box order. -/
def boxSources (r : ShapeRec) (edge : Bool) (coords : List (List Int)) : List Src :=
  coords.flatMap fun q => match r.readUnit edge q with
    | .at_ a => (Src.at_ a r.unit).cut
    | .outside => [.fill r.fillBytes]

/-- A run of bytes cut into units, whole ones only. -/
def units (n : Nat) (bs : List Byte) : List (List Byte) :=
  (List.range (bs.length / n)).map fun (i : Nat) => (bs.drop (i * n)).take n

/-- Rows of a slot, and of its scale store, that have been written whole hold no error any more (R412). -/
def Slot.healed (data scales : Nat) (sl : Slot) : Slot :=
  { sl with bad := sl.bad.filter fun r => !(if r < 128 then decide (64 * r + 64 ≤ data) else decide (32 * (r - 128) + 32 ≤ scales)) }

/-- Packed units written into an operand slot from offset 0, with the scales of blocks in its scale store
(R100, R226, R278). -/
def Slot.fill (r : ShapeRec) (bs : List Byte) (sl : Slot) : Slot :=
  if isPlain r.fmt then { sl.healed bs.length 0 with data := memStore sl.data 0 bs }
  else
    let us := units r.unit bs
    let scales := us.map fun u => BitVec.ofNat 16 (leOf ((u.drop r.dataBytes).take r.scaleBytes))
    { sl.healed (us.length * r.dataBytes) us.length with
      data := memStore sl.data 0 (us.flatMap fun u => u.take r.dataBytes)
      scales := (List.range scales.length).foldl (fun m (i : Nat) => mapSet 0 m i (scales.getD i 0)) sl.scales }

/-- The block length of a seam operand, noted in its slot (R226). -/
def Slot.setBlock (r : ShapeRec) (sl : Slot) : Slot := if isSeam r.fmt then { sl with block := r.blockN } else sl

/-- Is a page that an engine waits for present for the current core? -/
def State.present (s : State) (page : Nat) : Bool :=
  match s.mapped page with
  | .leaf _ => true
  | _ => false

/-- The supervisor is asked for a page that an engine of the current core has met absent (R288). -/
def askPage (page : Nat) (s : State) : State := notify s.core.place.pkg (.page s.core.id page) s

/-! ## Records in memory -/

/-- Pieces of a run loaded one after another as weak loads. -/
def loadPieces (p : Word) : List (Nat × Nat) → State → Try (State × List Byte)
  | [], s => .ok (s, [])
  | (a, n) :: rest, s =>
    (ptrTo p (a : Nat)).bind fun q =>
    (loadAt s q n 1 false .weak .dflt).bind fun (s1, bs) =>
    (loadPieces p rest s1).bind fun (s2, more) => .ok (s2, bs ++ more)

/-- A record of `n` bytes loaded at a pointer, which may have any byte address and lie in space 0, 1 or 2 (R95; DESIGN CHOICE, assumption
log 103). -/
def loadRecord (p : Word) (n : Nat) (s : State) : Try (State × List Byte) := loadPieces p (pieces (pAddr p) n) s

/-- Double `i` of a record's bytes. -/
def doubleAt (bs : List Byte) (i : Nat) : Nat := leOf ((bs.drop (8 * i)).take 8)

end Sys2Proof.Machine
end

