-- ==== Sys2Proof/Machine/Matrix.lean ====
section
/-!
DEFINITION. The matrix engine (R96 to R106, R226 to R228, R247, R272 to R282, R419): geometry, operand slots, steps and
batches, the accumulator, bench steps, and remote commands.
-/
namespace Sys2Proof.Machine

/-! ## Geometry (R96 to R98) -/

/-- The format code of R124 that a code of R97 names; 0 for a reserved one. -/
def matCode (c : Nat) : Nat := [2, 3, 11, 12, 13, 14, 16, 17, 15, 18, 19, 20].getD c 0

/-- The fields of a geometry pair. -/
structure Geo where
  m     : Nat
  n     : Nat
  k     : Nat
  row0  : Nat
  col0  : Nat
  af    : Nat
  bf    : Nat
  bench : Bool
  deriving DecidableEq, Repr, Inhabited

/-- A geometry pair read (R96, R97). -/
def geoOf (g0 g1 : Word) : Geo :=
  let v := g0.toNat
  { m := bitsAt v 0 7 + 1, n := bitsAt v 16 10 + 1, k := bitsAt v 32 8 + 1, row0 := bitsAt v 40 7
    col0 := bitsAt v 48 7, bench := v.testBit 56
    af := matCode (bitsAt g1.toNat 4 4), bf := matCode (bitsAt g1.toNat 0 4) }

/-- The reserved fields, the format codes and the limits of a pair (R96 to R98). -/
def geoOk (g0 g1 : Word) : Bool :=
  let v := g0.toNat
  let g := geoOf g0 g1
  bitsAt v 57 7 == 0 && bitsAt v 55 1 == 0 && bitsAt v 47 1 == 0 && bitsAt v 26 6 == 0 && bitsAt v 7 9 == 0
    && decide (g1.toNat < 256) && g.af != 0 && g.bf != 0
    && decide (g.m ≤ 128 - g.row0) && decide (g.n ≤ if g.bench then 1024 else 128 - g.col0)

/-- An operand of `count` elements, with depth `k`, fits its slot (R98, R226, R277). -/
def operandFits (code count k block : Nat) : Bool :=
  if isSeam code then
    count % block == 0 && decide (count / block ≤ 512) && decide (count / block * (seamBits code block / 8) ≤ 8192)
  else if isMx code then
    k % 32 == 0 && decide (count / 32 ≤ 512) && decide ((if code = 15 then count / 2 else count) ≤ 8192)
  else decide (count * elemBytes code ≤ 8192)

/-- The columns of a bench step at position `p` (R279). -/
def benchCols (n p : Nat) : Nat := min 128 (n - 128 * p)

/-! ## The value of a step (R101, R102, R247) -/

/-- Weight or element `q` of an operand's sequence, decoded through the tables of `dec` (R101, R226, R227, R277). -/
def Task.slotVal (dec : Task) (code : Nat) (sl : Slot) (q : Nat) : FVal × Flags :=
  if isSeam code then
    let n := sl.block
    let base := q / n * (seamBits code n / 8)
    seamVal (seamWeight8 code n (fun i => (memByte sl.data (base + i)).toNat) (q % n)) (mapGet 0 sl.scales (q / n)).toNat
  else if isMx code then
    let e := if code = 15 then (memByte sl.data (q / 2)).toNat / 16 ^ (q % 2) % 16 else (memByte sl.data q).toNat
    (mxVal code e ((mapGet 0 sl.scales (q / 32)).toNat % 256), 0)
  else
    let e := elemBytes code
    (elemVal dec.dta dec.dtb code (leOf (memBytes sl.data (q * e) e)), 0)

/-- Are operand elements of a B slot laid out by column? -/
def byColumn (code : Nat) : Bool := isSeam code || isMx code

/-- The sum of values, from the first one on. -/
def fsumFrom : FVal → List FVal → FVal
  | x, [] => x
  | x, y :: ys => fsumFrom (fadd x y).1 ys

/-- The result of a group of exact products (R102, R247). A group with a NaN that also holds products of +∞ and −∞ raises NV as one without
the NaN does (R227, R232; DESIGN CHOICE, assumption log 105). -/
def groupSum (ps : List (FVal × Flags)) : FVal × Flags :=
  let vs := ps.map (·.1)
  let flags := ps.foldl (fun f p => f ||| p.2) 0
  let flags := if vs.contains (.inf false) && vs.contains (.inf true) then flags ||| flagNV else flags
  match vs with
  | [] => (fzero false, flags)
  | v :: rest => (if vs.any FVal.isNan then .nan else fsumFrom v rest, flags)

/-- An accumulator element after one group (R102). -/
def accumulate (acc : BitVec 32 × Flags) (ps : List (FVal × Flags)) : BitVec 32 × Flags :=
  let s := rne32 (groupSum ps)
  let r := frne fmtF32 (fadd (fdecode fmtF32 acc.1.toNat) s.1)
  (BitVec.ofNat 32 r.1, acc.2 ||| s.2 ||| r.2)

/-- The key of an accumulator element. -/
def accKey (row col : Nat) : Nat := row * 128 + col

/-- An accumulator element. -/
def Task.accAt (t : Task) (row col : Nat) : BitVec 32 := mapGet 0 t.acc (accKey row col)

/-- The product of A[i][d] and B[d][j], with the flags of its making. -/
def stepProduct (lead : Task) (g : Geo) (sa sb : Slot) (cols i j d : Nat) : FVal × Flags :=
  let x := lead.slotVal g.af sa (i * g.k + d)
  let y := lead.slotVal g.bf sb (if byColumn g.bf then j * g.k + d else d * cols + j)
  let p := fmul x.1 y.1
  (p.1, x.2 ||| y.2 ||| p.2)

/-- An accumulator element after a step: its groups in rising depth (R102). -/
def stepElement (lead : Task) (g : Geo) (sa sb : Slot) (cols i j : Nat) (acc : BitVec 32) : BitVec 32 × Flags :=
  (List.range ((g.k + 31) / 32)).foldl (fun r (grp : Nat) =>
    accumulate r ((List.range (min 32 (g.k - 32 * grp))).map fun (d : Nat) => stepProduct lead g sa sb cols i j (32 * grp + d))) (acc, 0)

/-- The accumulator of a participant after a step over `cols` columns from `col0`, and the flags of the step there. -/
def stepAcc (lead : Task) (g : Geo) (sa sb : Slot) (cols col0 : Nat) (acc : Map (BitVec 32)) : Map (BitVec 32) × Flags :=
  (List.range g.m).foldl (fun r (i : Nat) =>
    (List.range cols).foldl (fun (r : Map (BitVec 32) × Flags) (j : Nat) =>
      let key := accKey (g.row0 + i) (col0 + j)
      let e := stepElement lead g sa sb cols i j (mapGet 0 r.1 key)
      (mapSet 0 r.1 key e.1, r.2 ||| e.2)) r) (acc, 0)

/-! ## Slots and rows in use (R99, R105) -/

/-- A slot by number. -/
def Task.slot (t : Task) (n : Nat) : Slot := t.slots[(Fin.ofNat 8 n).val]

/-- A slot changed. -/
def Task.modSlot (t : Task) (n : Nat) (f : Slot → Slot) : Task :=
  let i : Fin 8 := Fin.ofNat 8 n
  { t with slots := t.slots.set i.val (f t.slots[i]) }

/-- A step's geometry. -/
def MStep.shape (m : MStep) : Geo := geoOf m.geo m.fmt

/-- An issued step that is not complete references the slot (R99, R100, R279). -/
def Task.slotInUse (t : Task) (n : Nat) : Bool :=
  (t.steps.any fun m => !m.done && (m.a == n || (m.b == n && decide (0 < m.cols)))) || t.guests.any fun g => g.slot == n

/-- Two ranges of rows meet. -/
def rowsMeet (a n b k : Nat) : Bool := decide (a < b + k) && decide (b < a + n)

/-- What an accumulator access meets at rows `r` to `r + n − 1`: an uncommitted step, a committed one, or none. -/
inductive Cover where
  | open_ | committed | none
  deriving DecidableEq, Repr, Inhabited

/-- How steps in flight cover rows (R105); a step of another leader counts as committed (R279). Rows that an uncommitted step and a committed
one both cover count as covered by the uncommitted one (DESIGN CHOICE, assumption log 104). -/
def Task.cover (t : Task) (r n : Nat) : Cover :=
  let meets (m : MStep) : Bool := rowsMeet m.shape.row0 m.shape.m r n
  if t.steps.any fun m => m.batch.isNone && meets m then .open_
  else if (t.steps.any meets) || t.guests.any fun g => rowsMeet g.row0 g.rows r n then .committed
  else .none

/-- MATRIX_HAZARD. -/
def matrixHazard : Cause := { code := .matrixHazard }
/-- SHAPE. -/
def shapeCause : Cause := { code := .shape }
/-- SLOT_BUSY with a subcode of R99: 0 IN_USE, 1 UNCLAIMED, 2 CLAIMED, 3 MASK. -/
def slotBusy (sub : Nat) : Cause := { code := .slotBusy, sub := sub }

/-- Accumulator rows stamped by an access of a task of core `lid` (R419); outside a DETERMINATE launch nothing is. -/
def stampAcc (by_ : Task) (lid : Nat) (u : StampUse) : List Nat → Map PhaseStamp → Try (Map PhaseStamp)
  | [], m => .ok m
  | r :: rs, m =>
    (stampUses by_ lid 0 [u] (mapFind r m)).bind fun st =>
      stampAcc by_ lid u rs (match st with
        | some x => mapPut r x m
        | none => m)

/-- The rows from `r`, `n` of them. -/
def rowList (r n : Nat) : List Nat := (List.range n).map (r + ·)

/-- Rows of the listed cores' accumulators stamped by an access of a task. -/
def stampRows (by_ : Task) (lid : Nat) (u : StampUse) (rows : List Nat) : List CoreId → State → Try State
  | [], s => .ok s
  | c :: cs, s =>
    match s.findCore c with
    | none => stampRows by_ lid u rows cs s
    | some k =>
      (stampAcc by_ lid u rows k.task.accStamp).bind fun m =>
        stampRows by_ lid u rows cs (modTaskOf c (fun t => { t with accStamp := m }) s)

/-! ## The queue (R102, R279, R282) -/

/-- How many commands a core's engine holds. -/
def Task.queued (t : Task) : Nat := (t.steps.filter fun m => !m.done).length + t.guests.length

/-- Has the engine room for a command (R102)? -/
def Task.mroom (t : Task) : Bool := decide (t.queued < 16)

/-- The place in the queue of the command at its head. -/
def Task.headSeq (t : Task) : Option Nat :=
  (((t.steps.filter fun m => !m.done).map (·.seq)) ++ t.guests.map (·.seq)).min?

/-- A step joins its leader's queue. -/
def Task.pushStep (m : MStep) (t : Task) : Task := { t with steps := t.steps ++ [{ m with seq := t.mseq }], mseq := t.mseq + 1 }

/-- A step of another leader joins a participant's queue. -/
def Task.pushGuest (leader step slot : Nat) (g : Geo) (t : Task) : Task :=
  { t with
    guests := t.guests ++ [{ leader := leader, step := step, seq := t.mseq, slot := slot, row0 := g.row0, rows := g.m }]
    mseq := t.mseq + 1 }

/-- A step of a core's own slots, checked against its state (R98, R99, R102). Where conditions of SHAPE and of SLOT_BUSY hold at once, SHAPE
comes first (DESIGN CHOICE, assumption log 102). -/
def plainStep (t : Task) (a b : Nat) (g : Fin 8) : Try MStep :=
  let g0 := t.mg[2 * g.val]
  let g1 := t.mg[2 * g.val + 1]
  let q := geoOf g0 g1
  if !geoOk g0 g1 ∨ !operandFits q.af (q.m * q.k) q.k (t.slot a).block ∨ !operandFits q.bf (q.k * q.n) q.k (t.slot b).block then
    .cause shapeCause
  else if !(t.slot a).claimed ∨ !(t.slot b).claimed then .cause (slotBusy 1)
  else .ok { seq := 0, a := a, b := b, g := g.val, geo := g0, fmt := g1, cols := q.n, parts := [], batch := none, started := false, done := false, flags := 0 }

/-- The core at a position of the current core's logical bench. -/
def State.benchCore (s : State) (p : Nat) : CoreId := { tenant := s.core.id.tenant, lid := lidAt s.wl s.bench.bench p }

/-- Does a member of the bench run a task of the leader's launch? `none` when it holds none of the launch and never will while
the step waits (R279; assumption log 15). -/
def State.benchMember (s : State) (p : Nat) : Option (CoreId × Bool × Task) :=
  let c := s.benchCore p
  if !s.inCoreSet c.lid then none else
  match s.findCore c with
  | none => none
  | some k =>
    match k.task.st with
    | .none | .ended | .lost => none
    | st => some (c, decide (k.task.launch = s.task.launch ∧ st = .running), k.task)

/-- A bench step of the current core (R279). The spec gives its causes no order: SHAPE comes first, then PROTECT, then SLOT_BUSY (DESIGN
CHOICE, assumption log 102). -/
def benchStep (s : State) (a b : Nat) (g : Fin 8) : Try MStep :=
  let t := s.task
  let g0 := t.mg[2 * g.val]
  let g1 := t.mg[2 * g.val + 1]
  let q := geoOf g0 g1
  let pos := benchPos s.wl s.core.id.lid
  let members := (List.range 8).map s.benchMember
  let withCols := (List.range 8).filter fun p => 0 < benchCols q.n p
  let tasks : List (Nat × Option (CoreId × Bool × Task)) := withCols.map fun p => (p, s.benchMember p)
  let fits (x : Nat × Option (CoreId × Bool × Task)) : Bool :=
    match x.2 with
    | some (_, _, k) => operandFits q.bf (q.k * benchCols q.n x.1) q.k (k.slot b).block
    | none => true
  let free (x : Nat × Option (CoreId × Bool × Task)) : Bool :=
    match x.2 with
    | some (_, _, k) => !(k.slot b).claimed
    | none => false
  if !geoOk g0 g1 ∨ q.col0 ≠ 0 ∨ !operandFits q.af (q.m * q.k) q.k (t.slot a).block ∨ !tasks.all fits then .cause shapeCause
  else if members.any Option.isNone then .cause (protect 6)
  else if members.any fun o => match o with
      | some (_, here, _) => !here
      | none => false then .wait .stall
  else if !(t.slot a).claimed ∨ tasks.any free then .cause (slotBusy 1)
  else
    .ok { seq := 0, a := a, b := b, g := g.val, geo := g0, fmt := g1, cols := benchCols q.n pos
          parts := (withCols.filter (· ≠ pos)).map fun p => (s.benchCore p).lid
          batch := none, started := false, done := false, flags := 0 }

/-- The other participants of a step of the current core. -/
def MStep.others (m : MStep) (s : State) : List CoreId := m.parts.map fun l => { tenant := s.core.id.tenant, lid := l }

/-- Every participant's queue has room for a step of the current core. -/
def stepRoom (m : MStep) (s : State) : Bool :=
  s.task.mroom && (m.others s).all fun c => match s.findCore c with
    | some k => k.task.mroom
    | none => false

/-- A step of the current core enters the queue of every participant. -/
def admitStep (m : MStep) (s : State) : State :=
  let seq := s.task.mseq
  let lid := s.core.id.lid
  (m.others s).foldl (fun s c => modTaskOf c (Task.pushGuest lid seq m.b m.shape) s) (s.modTask (Task.pushStep m))

/-- A word of engine 0: a core without the engine raises PROTECT (R322). -/
def engine0 (k : State → State) (s : State) : State := if s.isCompute then k s else raise (protect 6) s

/-- A local issue waits for an entry (R282). -/
def Task.localWaits (t : Task) : Bool := t.mlocal && (t.wait == .stall || t.rep.wait == .stall)

/-- A remote command waits for an entry of the core's queue (R282). -/
def State.remoteWaits (s : State) (k : Core) : Bool := k.task.mremote && s.net.any fun m => match m with
  | .mcmd _ target _ _ _ => target == k.id
  | _ => false

/-- The queue of the current core admits a local issue: where a remote command waits too, in its turn (R282). -/
def localTurn (s : State) : Bool := s.task.mnext || !s.remoteWaits s.core

/-- The queue of a core admits a remote command: where a local issue waits too, in its turn (R282). -/
def remoteTurn (k : Core) : Bool := k.task.mroom && !(k.task.mnext && k.task.localWaits)

/-- A local issue was refused: it comes next, unless an admission has settled that the remote command that waits does. One refused again was
refused before (R282). -/
def Task.refuseLocal (remote : Bool) (t : Task) : Task :=
  if t.localWaits then t
  else if remote && t.malt then { t with mlocal := true } else { t with mlocal := true, mnext := true, malt := false }

/-- A remote command was refused: it comes next, unless an admission has settled that the local issue that waits does (R282). -/
def Task.refuseRemote (t : Task) : Task :=
  if t.mremote then t
  else if t.localWaits && t.malt then { t with mremote := true } else { t with mremote := true, mnext := false, malt := false }

/-- Another leader's bench step has entered the queues of the bench in this cycle from a higher position: this one is a later cycle's
(R300). -/
def State.stepLate (s : State) : Bool :=
  (s.benchAt s.bench).steplast.any fun (c, p) => c == s.now && decide (benchPos s.wl s.core.id.lid < p)

/-- A step of the current core enters; a bench step is noted at the bench (R300). -/
def enterStep (bench : Bool) (m : MStep) (s : State) : State :=
  let s := (admitStep m s).modTask fun t => { t with mlocal := false, mnext := false, malt := s.remoteWaits s.core }
  if bench then s.modBench s.bench fun k => { k with steplast := some (s.now, benchPos s.wl s.core.id.lid) } else s

/-- MMAC (R102, R279, R282, R300). -/
def mmac (a b : Reg) (g : Fin 8) (s : State) : State :=
  let xa := (s.rx a).toNat
  let xb := (s.rx b).toNat
  let q := geoOf s.task.mg[2 * g.val] s.task.mg[2 * g.val + 1]
  if 8 ≤ xa ∨ 8 ≤ xb then raise shapeCause s
  else
    let r := (if q.bench then benchStep s xa xb g else plainStep s.task xa xb g).bind fun m =>
      (stampRows s.task s.core.id.lid .write (rowList q.row0 q.m) (s.core.id :: m.others s) s).bind fun s' =>
        if q.bench && s.stepLate then .ok (waitAs .stall s)
        else if stepRoom m s && localTurn s then .ok (adv (enterStep q.bench m s'))
        else .ok (waitAs .stall (s.modTask (Task.refuseLocal (s.remoteWaits s.core))))
    settle r s

/-- MMAC (R102). -/
def execMmac (a b : Reg) (g : Fin 8) (s : State) : Out := .next (engine0 (mmac a b g) s)

/-! ## Geometry registers, slots and batches -/

/-- MGW: it waits until every issued step that reads the register has started (R275). -/
def mgw (a : Reg) (n : R16) (s : State) : State :=
  if s.task.steps.any fun m => !m.started && m.g == n.val / 2 then waitAs .stall s
  else adv (s.modTask fun t => { t with mg := t.mg.set n.val (t.rx a) })

/-- MGW (R275). -/
def execMgw (a : Reg) (n : R16) (s : State) : Out := .next (engine0 (mgw a n) s)

/-- MGR (R275). -/
def execMgr (d : Reg) (n : R16) (s : State) : Out := .next (engine0 (fun s => setX d s.task.mg[n] s) s)

/-- The slots that a mask names. -/
def slotMask (x : Nat) : List Nat := (List.range 8).filter fun i => x.testBit i

/-- The named slots claimed or freed. -/
def Task.setClaims (claimed : Bool) (slots : List Nat) (t : Task) : Task :=
  slots.foldl (fun t n => t.modSlot n fun sl => { sl with claimed := claimed }) t

/-- A copy of the core into the slot is in flight. -/
def Task.copyInto (t : Task) (n : Nat) : Bool := t.copies.any fun c => c.kind == .cpin && c.slot == n

/-- MCLAIM (R99). -/
def mclaim (a : Reg) (s : State) : State :=
  let x := (s.rx a).toNat
  if 256 ≤ x then raise (slotBusy 3) s
  else if (slotMask x).any fun n => (s.task.slot n).claimed then raise (slotBusy 2) s
  else adv (s.modTask (Task.setClaims true (slotMask x)))

/-- MCLAIM (R99). -/
def execMclaim (a : Reg) (s : State) : Out := .next (engine0 (mclaim a) s)

/-- MREL (R99). -/
def mrel (a : Reg) (s : State) : State :=
  let x := (s.rx a).toNat
  if 256 ≤ x then raise (slotBusy 3) s
  else if (slotMask x).any fun n => !(s.task.slot n).claimed then raise (slotBusy 1) s
  else if (slotMask x).any fun n => s.task.slotInUse n || s.task.copyInto n then waitAs .stall s
  else adv (s.modTask (Task.setClaims false (slotMask x)))

/-- MREL (R99). -/
def execMrel (a : Reg) (s : State) : Out := .next (engine0 (mrel a) s)

/-- MCOMMIT (R103). -/
def execMcommit (s : State) : Out := .next (engine0 (fun s => adv (s.modTask (Task.commit none))) s)

/-- Batch `k` is complete: no step of it or of an earlier one is left. -/
def Task.batchDone (t : Task) (k : Nat) : Bool :=
  !t.steps.any fun m => match m.batch with
    | some j => decide (j ≤ k)
    | none => false

/-- MWAITB (R104). -/
def mwaitb (a : Reg) (s : State) : State :=
  let k := (s.rx a).toNat
  if s.task.batches ≤ k then raise matrixHazard s
  else if s.task.batchDone k then adv s else waitAs .stall s

/-- MWAITB (R104). -/
def execMwaitb (a : Reg) (s : State) : Out := .next (engine0 (mwaitb a) s)

/-! ## The accumulator (R105, R106, R276) -/

/-- 16 elements of an accumulator row as a vector. -/
def Task.accVec (t : Task) (row col : Nat) : Vec := vecOf 32 ((List.range 16).map fun i => (t.accAt row (col + i)).toNat)

/-- MREAD (R106). It looks at what covers its row each time it is tried, so that a remote step that enters while it waits makes it raise
MATRIX_HAZARD (R105; DESIGN CHOICE, assumption log 104). -/
def mread (a v : Reg) (c : Fin 8) (s : State) : State :=
  let row := (s.rx a).toNat
  if 128 ≤ row then raise shapeCause s
  else match s.task.cover row 1 with
    | .open_ => raise matrixHazard s
    | .committed => waitAs .stall s
    | .none =>
      settle ((stampRows s.task s.core.id.lid .read [row] [s.core.id] s).bind fun s' =>
        if s.task.accBad.contains (row * 8 + c.val) then .cause { code := .memUe }
        else .ok (setV v (s'.task.accVec row (16 * c.val)) 0 s')) s

/-- MREAD (R106). -/
def execMread (a v : Reg) (c : Fin 8) (s : State) : Out := .next (engine0 (mread a v c) s)

/-- 16 elements of an accumulator row written from a vector. -/
def Task.setAcc (row col : Nat) (v : Vec) (t : Task) : Task :=
  { t with
    acc := (List.range 16).foldl (fun m (i : Nat) => mapSet 0 m (accKey row (col + i)) (BitVec.ofNat 32 (lane 32 v i))) t.acc
    accBad := t.accBad.filter (· != row * 8 + col / 16) }

/-- Accumulator rows cleared in all columns. -/
def Task.zeroAcc (row n : Nat) (t : Task) : Task :=
  { t with
    acc := t.acc.filter fun (k, _) => !(decide (row * 128 ≤ k) && decide (k < (row + n) * 128))
    accBad := t.accBad.filter fun u => !(decide (row * 8 ≤ u) && decide (u < (row + n) * 8)) }

/-- A write of accumulator rows of the current core: R105, then the stamps, then the effect. -/
def accWrite (row n : Nat) (f : Task → Task) (s : State) : State :=
  if s.task.cover row n ≠ .none then raise matrixHazard s
  else settle ((stampRows s.task s.core.id.lid .write (rowList row n) [s.core.id] s).bind fun s' => .ok (adv (s'.modTask f))) s

/-- MWRITE (R276). -/
def mwrite (a v : Reg) (c : Fin 8) (s : State) : State :=
  let row := (s.rx a).toNat
  if 128 ≤ row then raise shapeCause s else accWrite row 1 (Task.setAcc row (16 * c.val) (s.rv v)) s

/-- MWRITE (R276). -/
def execMwrite (a v : Reg) (c : Fin 8) (s : State) : Out := .next (engine0 (mwrite a v c) s)

/-- MZERO (R276). -/
def mzero (a b : Reg) (s : State) : State :=
  let row := (s.rx a).toNat
  let n := (s.rx b).toNat
  if n = 0 ∨ 128 < row + n then raise shapeCause s else accWrite row n (Task.zeroAcc row n) s

/-- MZERO (R276). -/
def execMzero (a b : Reg) (s : State) : Out := .next (engine0 (mzero a b) s)

/-! ## Steps run (R102, R103, R279) -/

/-- The step of the current core that its queue has at its head. -/
def State.headStep (s : State) : Option MStep := s.task.steps.find? fun m => !m.done && some m.seq == s.task.headSeq

/-- A step of the current core stands at the head of every participant's queue. -/
def stepAtHead (m : MStep) (s : State) : Bool :=
  (m.others s).all fun c => match s.findCore c with
    | some k => (k.task.guests.find? fun g => some g.seq == k.task.headSeq).any fun g =>
        g.leader == s.core.id.lid && g.step == m.seq
    | none => false

/-- Every copy into the step's slots has completed. A later copy into them could not issue (R100, R102, R279). -/
def stepFilled (m : MStep) (s : State) : Bool :=
  !s.task.copyInto m.a && !(decide (0 < m.cols) && s.task.copyInto m.b)
    && (m.others s).all fun c => match s.findCore c with
      | some k => !k.task.copyInto m.b
      | none => false

/-- A step of the current core changed, by its number. -/
def Task.modStep (seq : Nat) (f : MStep → MStep) (t : Task) : Task :=
  { t with steps := t.steps.map fun m => if m.seq = seq then f m else m }

/-- STEP_START (R102): it names the leader's core. -/
def stepStart (s : State) : State :=
  match s.headStep with
  | none => s
  | some m =>
    if !m.started && stepAtHead m s && stepFilled m s then s.modTask (Task.modStep m.seq fun m => { m with started := true })
    else s

/-- STEP_START (R102). -/
def execStepStart (c : CoreId) (s : State) : Out := .next (onCore c stepStart s)

/-- A step's effect on one participant other than the leader. -/
def guestAcc (lead : Task) (leader : Nat) (m : MStep) (s : State) : State × Flags :=
  let g := m.shape
  let r := stepAcc lead g (lead.slot m.a) (s.task.slot m.b) (benchCols g.n (benchPos s.wl s.core.id.lid)) 0 s.task.acc
  (s.modTask fun t =>
    { t with acc := r.1, guests := t.guests.filter fun x => !(x.leader == leader && x.step == m.seq) }, r.2)

/-- The participants other than the leader, one after another. -/
def guestsAcc (lead : Task) (leader : Nat) (m : MStep) : List CoreId → State × Flags → State × Flags
  | [], r => r
  | c :: cs, (s, f) =>
    match s.findCore c with
    | none => guestsAcc lead leader m cs (s, f)
    | some _ =>
      let here := s.core.id
      let r := guestAcc lead leader m (switchTo c s)
      guestsAcc lead leader m cs (switchTo here r.1, f ||| r.2)

/-- Accumulator rows of which some hold an error that cannot be corrected (R412). -/
def Task.rowsBad (r n : Nat) (t : Task) : Bool := t.accBad.any fun u => decide (r * 8 ≤ u) && decide (u < (r + n) * 8)

/-- A step of the current core reads an error that cannot be corrected, in a slot or in an accumulator's rows (R412). -/
def stepUe (m : MStep) (s : State) : Bool :=
  let bad (t : Task) : Bool := !(t.slot m.b).bad.isEmpty || t.rowsBad m.shape.row0 m.shape.m
  !(s.task.slot m.a).bad.isEmpty || (decide (0 < m.cols) && bad s.task) || (m.others s).any fun c => (s.findCore c).any fun k => bad k.task

/-- STEP_COMPLETION (R102, R103, R279): it names the leader's core. A step that has read an error brings its leader MEM_UE at the next boundary
(R273, R412; DESIGN CHOICE, assumption log 99). -/
def stepCompletion (s : State) : State :=
  match s.headStep with
  | none => s
  | some m =>
    if !m.started then s
    else
      let t := s.task
      let g := m.shape
      let own := stepAcc t g (t.slot m.a) (t.slot m.b) m.cols g.col0 t.acc
      let s1 := s.modTask fun t => { t with acc := own.1 }
      let r := guestsAcc t s.core.id.lid m (m.others s) (s1, own.2)
      let late : List Cause := if stepUe m s then [{ code := .memUe, async := true }] else []
      r.1.modTask fun t => ({ t with asyncs := t.asyncs ++ late }.modStep m.seq fun m => { m with done := true, flags := r.2 }).settleBatches

/-- STEP_COMPLETION (R103). -/
def execStepCompletion (c : CoreId) (s : State) : Out := .next (onCore c stepCompletion s)

/-! ## Capabilities and remote commands (R280, R281) -/

/-- MCAPW (R280). -/
def mcapw (a b : Reg) (e : Fin 8) (s : State) : State :=
  let xa := (s.rx a).toNat
  let xb := (s.rx b).toNat
  if 2 ^ 48 ≤ xa ∨ 65536 ≤ xb then raise shapeCause s
  else adv (s.modTask fun t => { t with caps := t.caps.set e.val { token := xa, sender := xb } })

/-- MCAPW (R280). -/
def execMcapw (a b : Reg) (e : Fin 8) (s : State) : Out := .next (engine0 (mcapw a b e) s)

/-- The operand bits that a command of a kind may set (R281). -/
def mcmdBits (kind : Nat) : Word := if kind = 0 then 0x1FF else if kind = 1 then 0x1F else 0xFF7F

/-- MCMD: the command leaves once the core's stores are performed, and the core waits for the answer (R281). -/
def mcmd (a b : Reg) (kind : Nat) (s : State) : State :=
  let xa := (s.rx a).toNat
  let xb := s.rx b
  if xb &&& ~~~ mcmdBits kind ≠ 0 then raise shapeCause s
  else drainThen (fun s =>
    let target : CoreId := { tenant := s.core.id.tenant, lid := xa % 65536 }
    let s := match s.findCore target with
      | some k => markSent k s
      | none => s
    waitAs .remote { s with net := s.net ++ [Msg.mcmd s.core.id target (xa / 65536) kind xb.toNat] }) s

/-- MCMD of kind 0 (R281). -/
def execMcmdMmac (a b : Reg) (s : State) : Out := .next (engine0 (mcmd a b 0) s)
/-- MCMD of kind 1 (R281). -/
def execMcmdCommit (a b : Reg) (s : State) : Out := .next (engine0 (mcmd a b 1) s)
/-- MCMD of kind 2 (R281). -/
def execMcmdZero (a b : Reg) (s : State) : Out := .next (engine0 (mcmd a b 2) s)

/-- The capability table admits a command of a sender (R280, R281). -/
def Task.capable (t : Task) (cap sender : Nat) : Bool :=
  t.caps.toList.any fun e => e.token != 0 && e.token == cap && (e.sender == sender || e.sender == 65535)

/-- A core that waits for the answer of another completes its instruction; inside a repetition body that is a body word. -/
def resumeWait (f : State → State) (s : State) : State := if s.task.rep.running then (f s.enterBody).leaveBody else f s

/-- The wait of the engine instruction that the core waits in: of a body word while a body runs (R113). -/
def Task.engineWait (t : Task) : Wait := if t.rep.running then t.rep.wait else t.wait

/-- The answer to a core that waits for one. -/
def answer (c : CoreId) (f : State → State) (s : State) : State :=
  onCore c (fun s => if s.task.engineWait = .remote then resumeWait f s else s) s

/-- A command performed on the target's core, which is current, for a task of core `lid`: the state after it (R281). -/
def performCmd (by_ : Task) (lid : Nat) (kind operand : Nat) (s : State) : Try State :=
  let stamped (row n : Nat) : Try State := stampRows by_ lid .write (rowList row n) [s.core.id] s
  if kind = 0 then
    let g : Fin 8 := Fin.ofNat 8 (bitsAt operand 6 3)
    if (geoOf s.task.mg[2 * g.val] s.task.mg[2 * g.val + 1]).bench then .cause shapeCause
    else (plainStep s.task (bitsAt operand 0 3) (bitsAt operand 3 3) g).bind fun m =>
      (stamped m.shape.row0 m.shape.m).bind fun s' => .ok (admitStep m s')
  else if kind = 1 then .ok (s.modTask (Task.commit (if operand.testBit 4 then some (bitsAt operand 0 4) else none)))
  else
    let row := bitsAt operand 0 7
    let n := bitsAt operand 8 8
    if n = 0 ∨ 128 < row + n then .cause shapeCause
    else if s.task.cover row n ≠ .none then .cause matrixHazard
    else (stamped row n).bind fun s' => .ok (s'.modTask (Task.zeroAcc row n))

/-- A command of the cycle from a higher sender has been admitted already: this one arrives in a later cycle (R282). -/
def Task.tooLate (now lid : Nat) (t : Task) : Bool := t.mlast.any fun (c, l) => c == now && decide (lid < l)

/-- REMOTE_COMMAND (R281, R282): a target that is away, or whose queue is full, leaves the command where it is. The routers discard a
command to a core outside the tenant's rectangle (R325). -/
def remoteCommand (n : Nat) (s : State) : State :=
  match s.take n with
  | some (.mcmd who target cap kind operand, s') =>
    let refuse (c : Cause) : State := answer who (raise { c with party := target.lid, remote := c.code != .capability }) s'
    let capability : Cause := { code := .capability }
    match s'.findCore target, s'.findCore who with
    | some k, some sender =>
      if !Tenancy.holdsRouter (s.tenant who.tenant) k.place then answer who (raise (protect 7)) s' else
      match k.task.st with
      | .none | .ended | .lost => if k.saved.any fun t => t.st == .preempted || t.st == .faulted then s else refuse capability
      | .granted | .suspended | .preempted | .faulted => s
      | .running =>
        if !k.task.capable cap who.lid then refuse capability
        else
          let here := s'.core.id
          match performCmd sender.task who.lid kind operand (switchTo target s') with
          | .cause c => refuse c
          | .wait _ => s
          | .ok s1 =>
            if k.task.tooLate s.now who.lid then s
            else if !remoteTurn k then modTaskOf target Task.refuseRemote s
            else
              let s1 := s1.modTask fun t => { t with mremote := false, mnext := true, malt := k.task.localWaits, mlast := some (s.now, who.lid) }
              answer who adv (arrival sender.task.launch target (switchTo here s1))
    | _, _ => refuse capability
  | _ => s

/-- REMOTE_COMMAND (R281). -/
def execRemoteCommand (n : Nat) (s : State) : Out := .next (remoteCommand n s)

end Sys2Proof.Machine
end

