-- ==== Sys2Proof/Machine/Chisel.lean ====
section
/-!
DEFINITION. The chisel (R242, R291 to R293): submissions, the four commands, and their completion.
-/
namespace Sys2Proof.Machine

/-! ## The encoder of seam blocks (R242) -/

/-- A table of path costs over the 65,536 windows; `none` is excluded. -/
abbrev PathCosts := Array (Option Nat)

/-- The predecessors of a window, in rising order. -/
def seamPreds (s w : Nat) : List Nat := (List.range (2 ^ s)).map fun (u : Nat) => w / 2 ^ s + u * 2 ^ (16 - s)

/-- The cheapest of some windows, ties to the lower one. -/
def cheapest (m : PathCosts) : List Nat → Option (Nat × Nat)
  | [] => none
  | w :: ws =>
    match m.getD w none, cheapest m ws with
    | none, r => r
    | some c, none => some (w, c)
    | some c, some (w', c') => if c ≤ c' then some (w, c) else some (w', c')

/-- One step of a pass. -/
def seamNext (s : Nat) (cost : Nat → Nat) (m : PathCosts) : PathCosts :=
  Array.ofFn fun (w : Fin 65536) => (cheapest m (seamPreds s w.val)).map fun r => r.2 + cost w.val

/-- The tables of a pass, the last step first. -/
def seamTables (s : Nat) (cost : Nat → Nat → Nat) (start : Nat → Bool) : Nat → List PathCosts
  | 0 => [Array.ofFn fun (w : Fin 65536) => if start w.val then some (cost 0 w.val) else none]
  | j + 1 =>
    match seamTables s cost start j with
    | [] => []
    | m :: ms => seamNext s (cost (j + 1)) m :: m :: ms

/-- The windows of the path that ends in `w`, the last first. -/
def seamTrace (s w : Nat) : List PathCosts → List Nat
  | [] => [w]
  | m :: ms =>
    match cheapest m (seamPreds s w) with
    | none => [w]
    | some (p, _) => w :: seamTrace s p ms

/-- A pass of `n + 1` steps: its windows, the last first. -/
def seamPass (s n : Nat) (cost : Nat → Nat → Nat) (start final : Nat → Bool) : List Nat :=
  match seamTables s cost start n with
  | [] => []
  | m :: ms =>
    match cheapest m ((List.range 65536).filter final) with
    | none => []
    | some (w, _) => seamTrace s w ms

/-- A finite FP32 value in units of 2^−149. -/
def unit149 (x : FVal) : Int := fscaled (-149) x

/-- The windows that R242 chooses for the targets T, the first step's first. -/
def seamWindows (code : Nat) (ts : List FVal) : List Nat :=
  let (s, v) := seamSV code
  let n := ts.length / v - 1
  let cost (j w : Nat) : Nat := ((List.range v).map fun (p : Nat) =>
    let d := seamF8 p w * ((2 ^ 146 : Nat) : Int) - unit149 (ts.getD (j * v + p) (fzero false))
    (d * d).toNat).sum
  let f := (seamPass s n cost (fun _ => true) (fun _ => true)).headD 0
  (seamPass s n cost (fun w => decide (f % 2 ^ (16 - s) = w / 2 ^ s)) (fun w => decide (w = f))).reverse

/-- Bits packed into bytes, the most significant of each byte first. -/
def packBits (bits : List Nat) : List Byte :=
  (List.range (bits.length / 8)).map fun (i : Nat) => BitVec.ofNat 8 (((bits.drop (8 * i)).take 8).foldl (fun a b => 2 * a + b) 0)

/-- The stream of a block for the targets T (R242). -/
def seamStream (code : Nat) (ts : List FVal) : List Byte :=
  let s := (seamSV code).1
  packBits ((seamWindows code ts).flatMap fun w => (List.range s).map fun (i : Nat) => w / 2 ^ (15 - i) % 2)

/-! ## The record (R291) -/

/-- A command record. -/
structure ChRec where
  cmd   : Nat
  mode  : Nat
  zero  : Bool
  src   : Word
  dst   : Word
  count : Nat
  a     : Nat
  b     : Nat
  deriving DecidableEq, Repr, Inhabited

/-- The fields of a record. -/
def chRec (d : Vector Word 8) : ChRec :=
  let v := d[0].toNat
  { cmd := v % 256, mode := v / 256 % 256, zero := v / 65536 == 0 && d[6] == 0, src := d[1], dst := d[2]
    count := d[3].toNat, a := d[4].toNat, b := d[5].toNat }

/-- A format of 1, 2, 4 or 8 bytes with its block code. -/
def plainFmt (p : Word) : Bool := pFmt p != 0 && isPlain (pFmt p) && pBlk p == 0

/-- The two pointers are whole, in spaces 0 to 2. -/
def chPtr (p : Word) : Bool := ptrOk p && decide (pSpace p ≤ 2)

/-- A record that obeys R291 and R292. A conversion between integers takes mode 0 (R263), and an MX destination whole blocks
(assumption log 20). -/
def ChRec.ok (r : ChRec) : Bool :=
  let s := pFmt r.src
  let d := pFmt r.dst
  let int (c : Nat) : Bool := decide (4 ≤ c) && decide (c ≤ 10)
  r.zero && chPtr r.src && chPtr r.dst && (r.cmd == 2 || r.mode == 0) &&
  (match r.cmd with
   | 1 => s == 1 && pBlk r.src == 0 && isSeam d && blkOk d (pBlk r.dst) && r.a == 0 && r.b == 0
   | 2 => decide (r.mode ≤ 3) && s != 0 && blkOk s (pBlk r.src) && d != 0 && !isSeam d && blkOk d (pBlk r.dst)
            && (!(int s && int d) || r.mode == 0) && (!isMx d || r.count % 32 == 0) && r.a == 0 && r.b == 0
   | 3 => plainFmt r.src && plainFmt r.dst && elemBytes s == elemBytes d && s == d
   | 4 => plainFmt r.src && plainFmt r.dst && s == d && chPtr (BitVec.ofNat 64 r.a)
   | _ => false)

/-- The rounding mode of a record. -/
def chMode (m : Nat) : RMode := if m = 1 then .rtz else if m = 2 then .rup else if m = 3 then .rdn else .rne

/-! ## Elements -/

/-- Bytes `n` at an exact address, naturally aligned, read by the chisel. -/
def chRead (p : Word) (a : Int) (n : Nat) (s : State) : Try (State × List Byte) :=
  (ptrTo p a).bind fun q => if pAddr q % n ≠ 0 then .cause (protect 1 q) else enginePull none q n s

/-- Bytes written by the chisel at an exact address, naturally aligned. -/
def chWrite (p : Word) (a : Int) (bs : List Byte) (s : State) : Try State :=
  (ptrTo p a).bind fun q => if pAddr q % bs.length ≠ 0 then .cause (protect 1 q) else enginePush none false q bs s

/-- A run of bytes read line by line. -/
def chReadRun (p : Word) (a : Int) (n : Nat) (s : State) : Try (State × List Byte) :=
  match gather none p (Src.at_ a n).cut s with
  | .did r none => .ok r
  | .did _ (some c) => .cause c
  | .page va => .cause { code := .pageFault, addr := ptrAt p va }
  | .hold w => .wait w

/-- A run of bytes written line by line. -/
def chWriteRun (p : Word) (a : Int) (bs : List Byte) (s : State) : Try State :=
  match scatter none (fun _ => false) p (cutDst a bs.length) bs s with
  | .did s' none => .ok s'
  | .did _ (some c) => .cause c
  | .page va => .cause { code := .pageFault, addr := ptrAt p va }
  | .hold w => .wait w

/-- Element `j` of a source, as a value with the flags of its making, and its bits where the format has no blocks. -/
def chElem (p : Word) (j : Nat) (s : State) : Try (State × FVal × Flags × Nat) :=
  let code := pFmt p
  (elemPlace .engineRead p (j : Int)).bind fun e =>
  if isSeam code then
    let n := seamN (pBlk p)
    (chReadRun p (pAddr e.block : Nat) (seamRecord code n) s).bind fun (s1, bs) =>
      let v := seamVal (seamWeight8 code n (fun i => (bs.getD i 0).toNat) e.index) (leOf ((bs.drop (seamBits code n / 8)).take 2))
      .ok (s1, v.1, v.2, 0)
  else if isMx code then
    (chRead e.ptr (pAddr e.ptr : Nat) 1 s).bind fun (s1, b) =>
    (chRead e.block (pAddr e.block : Nat) 1 s1).bind fun (s2, sc) =>
      .ok (s2, mxVal code (leOf b / 2 ^ e.bit % (if code = 15 then 16 else 256)) (leOf sc), 0, 0)
  else
    (chRead e.ptr (pAddr e.ptr : Nat) (elemBytes code) s).bind fun (s1, b) =>
      .ok (s1, elemVal s.task.dta s.task.dtb code (leOf b), 0, leOf b)

/-! ## The commands (R292) -/

/-- What one block or element of a command does: it stops with a result code, or goes on with flags. -/
inductive ChStep where
  | stop (code : Nat)
  | on (s : State) (f : Flags)
  deriving Repr

/-- Block `b` of SEAMENC. -/
def seamencBlock (r : ChRec) (b : Nat) (s : State) : Try ChStep :=
  let code := pFmt r.dst
  let n := seamN (pBlk r.dst)
  let at_ : Int := ((pAddr r.dst + b * seamRecord code n : Nat) : Int)
  let len := seamBits code n / 8
  (chReadRun r.src ((pAddr r.src + 4 * n * b : Nat) : Int) (4 * n) s).bind fun (s1, xs) =>
  (chReadRun r.dst (at_ + (len : Int)) 2 s1).bind fun (s2, sc) =>
    let scale := fdecode fmtBF16 (leOf sc)
    let ts := (units 4 xs).map fun x => fdecode fmtF32 (fdiv fmtF32 (fdecode fmtF32 (leOf x)) scale).1
    if !scale.isFin || scale.isZero then .ok (.stop 2)
    else if !ts.all FVal.isFin then .ok (.stop 3)
    else (chWriteRun r.dst at_ (seamStream code ts ++ sc) s2).bind fun s3 => .ok (.on s3 0)

/-- Element `i` of TRANSCODE into a format without blocks; the same format is copied bit for bit (R262). -/
def transcodeElem (r : ChRec) (i : Nat) (s : State) : Try ChStep :=
  let d := pFmt r.dst
  (chElem r.src i s).bind fun (s1, x, f, raw) =>
    let e := if pFmt r.src = d then (raw, 0) else elemEnc s.task.dta s.task.dtb d (chMode r.mode) x
    (chWrite r.dst ((pAddr r.dst + i * elemBytes d : Nat) : Int) (bytesOf e.1 (elemBytes d)) s1).bind fun s2 =>
      .ok (.on s2 (f ||| e.2))

/-- Elements `i` on of a source, `n` of them. -/
def chElems (p : Word) (i : Nat) : Nat → State → Try (State × List FVal × Flags)
  | 0, s => .ok (s, [], 0)
  | n + 1, s =>
    (chElem p i s).bind fun (s1, x, f, _) =>
    (chElems p (i + 1) n s1).bind fun (s2, xs, g) => .ok (s2, x :: xs, f ||| g)

/-- The bytes of an MX block from its element codes and its scale (R238). -/
def mxBytes (code scale : Nat) (es : List Nat) : List Byte :=
  (if code = 15 then (List.range 16).map fun (i : Nat) => BitVec.ofNat 8 (es.getD (2 * i) 0 % 16 + es.getD (2 * i + 1) 0 % 16 * 16)
   else es.map fun e => BitVec.ofNat 8 e) ++ [BitVec.ofNat 8 scale]

/-- Block `b` of TRANSCODE into an MX format: its scale is a free value (assumption log 19). -/
def transcodeBlock (r : ChRec) (b : Nat) (s : State) : Try ChStep :=
  let d := pFmt r.dst
  (chElems r.src (32 * b) 32 s).bind fun (s1, xs, f) =>
    let scale := (Config.mxScale s.moves b).toNat
    let es := xs.map (mxEncode d scale (chMode r.mode))
    (chWriteRun r.dst ((pAddr r.dst + b * mxBlock d : Nat) : Int) (mxBytes d scale (es.map (·.1))) s1).bind fun s2 =>
      .ok (.on s2 (es.foldl (fun g e => g ||| e.2) f))

/-- An element copied as it is. -/
def moveElem (r : ChRec) (i j : Nat) (s : State) : Try ChStep :=
  let e := elemBytes (pFmt r.dst)
  (chRead r.src ((pAddr r.src + j * e : Nat) : Int) e s).bind fun (s1, bs) =>
  (chWrite r.dst ((pAddr r.dst + i * e : Nat) : Int) bs s1).bind fun s2 => .ok (.on s2 0)

/-- Destination element `i` of TRANSPOSE: element (c, r) of columns × rows. -/
def transposeElem (r : ChRec) (i : Nat) (s : State) : Try ChStep := moveElem r i (i % r.a * r.b + i / r.a) s

/-- Destination element `i` of GATHER. -/
def gatherElem (r : ChRec) (i : Nat) (s : State) : Try ChStep :=
  let p := BitVec.ofNat 64 r.a
  (chRead p ((pAddr p + 4 * i : Nat) : Int) 4 s).bind fun (s1, bs) =>
    let j := signedOf 32 (leOf bs)
    if j < 0 ∨ j ≥ (r.b : Int) then .ok (.stop 4) else moveElem r i j.toNat s1

/-- The steps of a command: how many, how many elements each counts, and each one. -/
def ChRec.steps (r : ChRec) : Nat × Nat × (Nat → State → Try ChStep) :=
  match r.cmd with
  | 1 => (r.count, 1, seamencBlock r)
  | 2 => if isMx (pFmt r.dst) then (r.count / 32, 32, transcodeBlock r) else (r.count, 1, transcodeElem r)
  | 3 => (r.a * r.b, 1, transposeElem r)
  | _ => (r.count, 1, gatherElem r)

/-- How a command has ended: its result, the code of a FAULT's cause, its flags and the index at which it stopped. -/
structure ChEnd where
  result : Nat
  cause  : Nat
  flags  : Flags
  index  : Nat
  deriving DecidableEq, Repr, Inhabited

/-- The steps of a turn: 64 bytes of destination, or one block (R293). -/
def ChRec.turn (r : ChRec) : Nat :=
  let d := pFmt r.dst
  if r.cmd = 1 then 1 else max 1 (64 / (if isMx d then mxBlock d else elemBytes d))

/-- How a turn leaves a command: ended, with more to do, at an absent page, or waiting; with the steps done and the flags so far. -/
inductive ChTurn where
  | ended (s : State) (e : ChEnd)
  | more (s : State) (i : Nat) (g : Flags)
  | page (s : State) (i : Nat) (g : Flags) (va : Nat)
  | hold (s : State) (i : Nat) (g : Flags) (w : Wait)
  deriving Repr

/-- Steps from `i` on, at most `n` of them in this turn, of a command of `total`. -/
def chTurn (f : Nat → State → Try ChStep) (width total : Nat) : Nat → Nat → Flags → State → ChTurn
  | 0, i, g, s => if i < total then .more s i g else .ended s { result := 0, cause := 0, flags := g, index := i * width }
  | n + 1, i, g, s =>
    if total ≤ i then .ended s { result := 0, cause := 0, flags := g, index := i * width } else
    match f i s with
    | .ok (.on s' h) => chTurn f width total n (i + 1) (g ||| h) s'
    | .ok (.stop code) => .ended s { result := code, cause := 0, flags := g, index := i * width }
    | .cause c =>
      if c.code = .pageFault then .page s i g (pAddr c.addr)
      else .ended s { result := 5, cause := c.code.num, flags := g, index := i * width }
    | .wait w => .hold s i g w

/-- A turn of a command for its task, which is current (R292, R293). -/
def chPerform (c : ChCtx) (s : State) : ChTurn :=
  let r := chRec c.cmd
  if !r.ok then .ended s { result := 1, cause := 0, flags := 0, index := 0 }
  else
    let (n, width, f) := r.steps
    chTurn f width n r.turn c.step c.flags s

/-- The status double (R292). -/
def ChEnd.status (e : ChEnd) : Nat := e.result % 256 + e.flags.toNat * 256 + e.cause % 256 * 65536 + e.index % 2 ^ 40 * 2 ^ 24

/-! ## Contexts (R291, R293) -/

/-- The logical bench under whose name the domain keeps the chisel of a bench: the benches of one place share its chisel (R4, R38). -/
def State.chiselBench (s : State) (b : BenchId) : BenchId :=
  let ps := (s.tenant b.tenant).places
  match mapFind b.bench ps with
  | none => b
  | some p => match ps.find? fun x => x.2 == p with
    | some x => { b with bench := x.1 }
    | none => b

/-- A context slot of a bench's chisel changed. -/
def State.modCtx (s : State) (b : BenchId) (i : Fin 16) (c : Option ChCtx) : State :=
  s.modBench (s.chiselBench b) fun k => { k with chisel := k.chisel.set i.val c }

/-- A context slot of a bench's chisel. -/
def State.ctx (s : State) (b : BenchId) (i : Fin 16) : Option ChCtx := (s.benchAt (s.chiselBench b)).chisel[i]

/-- PROTECT with subcode ENGINE where a core has no chisel (R322). -/
def engine2 (k : State → State) (s : State) : State := if s.isCompute then k s else raise (engineCause 2 (protect 6)) s

/-- A submission of this cycle from a higher position of the bench has come before: this one is a later cycle's (R291). -/
def State.subLate (s : State) : Bool :=
  (s.benchAt (s.chiselBench s.bench)).sublast.any fun (c, p) => c == s.now && decide (benchPos s.wl s.core.id.lid < p)

/-- The chisel of the bench has taken a submission of this cycle from the current core (R291). -/
def State.noteSub (s : State) : State :=
  s.modBench (s.chiselBench s.bench) fun k => { k with sublast := some (s.now, benchPos s.wl s.core.id.lid) }

/-- CHSUB (R291). -/
def chsub (d b : Reg) (int : Bool) (k : R16) (s : State) : State :=
  let p := s.rx b
  if int && s.task.determinate then raise (engineCause 2 (detViolation 4)) s
  else if 2 ≤ pSpace p ∨ pAddr p % 64 ≠ 0 then raise (engineCause 2 shapeCause) s
  else if s.subLate then waitAs .stall s
  else match (List.finRange 16).find? fun i => (s.ctx s.bench i).isNone with
    | none => if s.task.determinate then waitAs .stall s else setX d (BitVec.allOnes 64) s
    | some i =>
      drainThen (fun s => settle ((loadRecord p 64 s).bind fun (s', bs) =>
        let c : ChCtx :=
          { who := s.core.id, launch := s.task.launch, index := s.task.index, st := .queued
            cmd := Vector.ofFn fun j => BitVec.ofNat 64 (doubleAt bs j.val), at_ := p, ctr := k.val, int := int, page := none }
        .ok (setX d (if s.task.determinate then 0 else BitVec.ofNat 64 i.val) ((s'.modCtx s.bench i (some c)).noteSub))) s) s

/-- CHSUB (R291). -/
def execChsub (d b : Reg) (int : Bool) (k : R16) (s : State) : Out := .next (engine2 (chsub d b int k) s)

/-- The state of a context as CHPOLL answers it. -/
def ChState.num : ChState → Nat
  | .queued => 1
  | .running => 2
  | .parked => 3

/-- CHPOLL (R293). -/
def chpoll (d b : Reg) (s : State) : State :=
  let x := (s.rx b).toNat
  if s.task.determinate then raise (engineCause 2 (detViolation 4)) s
  else if 16 ≤ x then raise (engineCause 2 shapeCause) s
  else
    let v := match s.ctx s.bench (Fin.ofNat 16 x) with
      | some c => if c.who = s.core.id then c.st.num else 0
      | none => 0
    setX d (BitVec.ofNat 64 v) s

/-- CHPOLL (R293). -/
def execChpoll (d b : Reg) (s : State) : Out := .next (engine2 (chpoll d b) s)

/-- A context is parked at an absent page (R293). -/
def parkCtx (b : BenchId) (i : Fin 16) (c : ChCtx) (va : Nat) (s : State) : State :=
  askPage (pageOf va) (s.modCtx b i (some { c with st := .parked, page := some (pageOf va) }))

/-- A command ends: its status is written, its slot freed, and its counter rises (R293). -/
def endCtx (b : BenchId) (i : Fin 16) (c : ChCtx) (e : ChEnd) (s : State) : State :=
  let close (s : State) : State := (s.modCtx b i none).modTask (Task.bump c.ctr c.int)
  match chWrite c.at_ ((pAddr c.at_ + 56 : Nat) : Int) (bytesOf e.status 8) s with
  | .ok s' => close (unwant s.core.id s')
  | .cause x => if x.code = .pageFault then parkCtx b i c (pAddr x.addr) s else close s
  | .wait w => engineHold w (s.modCtx b i (some c))

/-- A context served: its first turn makes it running, and each later one does 64 bytes of its destination, or one block. What was done stays;
a page fault parks it. -/
def serveCtx (b : BenchId) (i : Fin 16) (c : ChCtx) (s : State) : State :=
  let at_ (n : Nat) (g : Flags) : ChCtx := { c with step := n, flags := g }
  match c.st with
  | .parked => s
  | .queued => s.modCtx b i (some { c with st := .running })
  | .running =>
    match chPerform c s with
    | .ended s' e => endCtx b i (at_ (e.index / (chRec c.cmd).steps.2.1) e.flags) e (unwant s.core.id s')
    | .more s' n g => (unwant s.core.id s').modCtx b i (some (at_ n g))
    | .page s' n g va => parkCtx b i (at_ n g) va s'
    | .hold s' n g w => engineHold w (s'.modCtx b i (some (at_ n g)))

/-- The context whose turn it is: of those that are not parked, the next after the one served last (R293). -/
def Bench.turnOf (k : Bench) : Option (Fin 16) :=
  ((List.range 16).map fun n => Fin.ofNat 16 (k.served + 1 + n)).find? fun i => match k.chisel[i] with
    | some c => c.st != .parked
    | none => false

/-- CHISEL_COMPLETION: the context that is named has its turn, if it is next (R293). -/
def chiselCompletion (b : BenchId) (slot : Nat) (s : State) : State :=
  let i : Fin 16 := Fin.ofNat 16 slot
  match s.ctx b i with
  | none => s
  | some c =>
    let b := s.chiselBench b
    if (s.benchAt b).turnOf ≠ some i then s
    else onCore c.who (asOwner c.launch c.index (serveCtx b i c)) (s.modBench b fun k => { k with served := i.val })

/-- CHISEL_COMPLETION (R293). -/
def execChiselCompletion (b : BenchId) (slot : Nat) (s : State) : Out := .next (chiselCompletion b slot s)

/-- CHISEL_PAGE_RESUME (R293). -/
def chiselPageResume (b : BenchId) (slot : Nat) (s : State) : State :=
  let i : Fin 16 := Fin.ofNat 16 slot
  match s.ctx b i with
  | none => s
  | some c =>
    match c.page with
    | some page => onCore c.who (fun s => if s.present page then s.modCtx b i (some { c with st := .running, page := none }) else s) s
    | none => s

/-- CHISEL_PAGE_RESUME (R293). -/
def execChiselPageResume (b : BenchId) (slot : Nat) (s : State) : Out := .next (chiselPageResume b slot s)

end Sys2Proof.Machine
end

