-- ==== Sys2Proof/Machine/Copy.lean ====
section
/-!
DEFINITION. Shape records (R95, R283 to R285), the copy queue (R100, R286 to R288) and quarry pushes (R289, R290).
-/
namespace Sys2Proof.Machine

/-- SHAPE of engine 1. -/
def shape1 : Cause := engineCause 1 shapeCause

/-! ## Shape records -/

/-- SHW (R284). -/
def shw (a b : Reg) (n : R16) (s : State) : State :=
  let i := (s.rx b).toNat
  if 8 ≤ i then raise shape1 s
  else adv (s.modTask fun t =>
    { t with sh := t.sh.set n.val { d := t.sh[n].d.set (i % 8) (t.rx a) (Nat.mod_lt _ (by decide)), sealed := false } })

/-- SHW (R284). -/
def execShw (a b : Reg) (n : R16) (s : State) : Out := .next (shw a b n s)

/-- SHSEAL (R284). -/
def shseal (n : R16) (s : State) : State :=
  if s.task.sh[n].ok then adv (s.modTask fun t => { t with sh := t.sh.set n.val { t.sh[n] with sealed := true } })
  else raise shape1 s

/-- SHSEAL (R284). -/
def execShseal (n : R16) (s : State) : Out := .next (shseal n s)

/-- A record image (R283). -/
def recordOf (bs : List Byte) : ShapeRec := { d := Vector.ofFn fun i => BitVec.ofNat 64 (doubleAt bs i.val), sealed := true }

/-- SHLD (R95). -/
def shld (a : Reg) (n : R16) (s : State) : State :=
  settle ((loadRecord (s.rx a) 64 s).bind fun (s', bs) =>
    let r := recordOf bs
    if r.ok then .ok (adv (s'.modTask fun t => { t with sh := t.sh.set n.val r })) else .cause shape1) s

/-- SHLD (R95). -/
def execShld (a : Reg) (n : R16) (s : State) : Out := .next (shld a n s)

/-! ## Issue of a copy (R100, R285 to R288) -/

/-- The registers from `a` on, `n` of them. -/
def regRun (s : State) (a : Reg) (n : Nat) : List Word := (List.range n).map fun (i : Nat) => s.rx (regPlus a i)

/-- A copy or push word issued: the checks that are common to them (R274, R284, R285, R100, R226, R278, R397). `extra`
counts registers after the extents. The answer is the record and its box, whose origin registers are read as signed (R100; DESIGN CHOICE,
assumption log 102). -/
def boxOf (s : State) (a : Reg) (int : Bool) (n : R16) (extra : Nat) : Try (ShapeRec × List Word × List Word) :=
  let r := s.task.sh[n]
  if int && s.task.determinate then .cause (engineCause 1 (detViolation 4))
  else if !r.sealed ∨ pAddr r.base % 16 ≠ 0 ∨ a.val + 2 * r.rank + extra > 32 then .cause shape1
  else
    let o := regRun s a r.rank
    let e := regRun s (regPlus a r.rank) r.rank
    if r.boxOk (o.map (·.toInt)) (e.map (·.toNat)) then .ok (r, o, e) else .cause shape1

/-- The units of a box. -/
def boxUnits (r : ShapeRec) (o e : List Word) : Nat := boxSize (r.unitBox (o.map (·.toInt)) (e.map (·.toNat)))

/-- A box of a record fits an operand slot and its scale store (R100, R226, R278). -/
def slotFits (r : ShapeRec) (units : Nat) : Bool :=
  decide (units * r.dataBytes ≤ 8192) && (isPlain r.fmt || decide (units ≤ 512))

/-- The pin of a copy of the current core. -/
def State.copyPin (s : State) (seq : Nat) : Pin := { who := s.core.id, seq := seq }

/-- The destination pieces of a copy and the pointer they are formed from. -/
def Copy.targets (c : Copy) : Word × List (Int × Nat) :=
  match c.kind with
  | .cpin => (0, [])
  | .get => (c.buf, cutDst (pAddr c.buf : Nat) c.bytes)
  | .put => (c.shape.base, c.coords.flatMap fun q =>
      match c.shape.writeUnit q with
      | .at_ a => cutDst a c.shape.unit
      | .outside => [])

/-- The destination lines of a copy of the current core pinned (R188). -/
def pinCopy (c : Copy) (s : State) : Try State := pinAll (s.copyPin c.seq) c.targets.1 c.targets.2 s

/-- A copy queued: it stalls while 16 are, and it follows the core's earlier stores (R286; assumption log 17). -/
def queueCopy (c : Copy) (f : Task → Task) (s : State) : State :=
  if 16 ≤ s.task.copies.length then waitAs .stall s
  else drainThen (fun s =>
    let c : Copy := { c with seq := s.task.cseq }
    settle ((pinCopy c s).bind fun s => .ok (adv (s.modTask fun t => f { t with copies := t.copies ++ [c], cseq := t.cseq + 1 }))) s) s

/-- CPIN (R100): the conditions of SHAPE are checked before those of SLOT_BUSY (DESIGN CHOICE, assumption log 102). -/
def cpin (a b : Reg) (int : Bool) (n : R16) (s : State) : State :=
  let x := (s.rx b).toNat
  if !s.isCompute then raise (engineCause 1 (protect 6)) s
  else match boxOf s a int n 0 with
    | .cause c => raise c s
    | .wait w => settle (.wait w) s
    | .ok (r, o, e) =>
      let slot := x % 8
      if x ≠ bitsAt x 8 4 * 256 + slot ∨ !slotFits r (boxUnits r o e) then raise shape1 s
      else if !(s.task.slot slot).claimed then raise (engineCause 1 (slotBusy 1)) s
      else if s.task.slotInUse slot then raise (engineCause 1 (slotBusy 0)) s
      else queueCopy
        { seq := 0, kind := .cpin, shape := r, origin := o, extent := e, buf := 0, slot := slot, ctr := bitsAt x 8 4
          int := int, waiting := none, saved := false } (fun t => t.modSlot slot (Slot.setBlock r)) s

/-- CPIN (R100). -/
def execCpin (a b : Reg) (int : Bool) (n : R16) (s : State) : Out := .next (cpin a b int n s)

/-- CPOUT (R287). -/
def cpout (kind : CopyKind) (a b : Reg) (int : Bool) (n : R16) (s : State) : State :=
  match boxOf s a int n 1 with
  | .cause c => raise c s
  | .wait w => settle (.wait w) s
  | .ok (r, o, e) =>
    let ctr := (s.rx (regPlus a (2 * r.rank))).toNat
    let buf := s.rx b
    if 16 ≤ ctr ∨ 3 ≤ pSpace buf ∨ pAddr buf % 16 ≠ 0 ∨ (pFmt buf ≠ 0 ∧ pFmt buf ≠ r.fmt) ∨ boxUnits r o e * r.unit > 131072 then
      raise shape1 s
    else queueCopy
      { seq := 0, kind := kind, shape := r, origin := o, extent := e, buf := buf, slot := 0, ctr := ctr
        int := int, waiting := none, saved := false } id s

/-- CPOUT get (R287). -/
def execCpoutGet (a b : Reg) (int : Bool) (n : R16) (s : State) : Out := .next (cpout .get a b int n s)
/-- CPOUT put (R287). -/
def execCpoutPut (a b : Reg) (int : Bool) (n : R16) (s : State) : Out := .next (cpout .put a b int n s)

/-! ## A copy runs (R286 to R288) -/

/-- The poisoned lines that a transfer has written whole are poisoned no more (R356). -/
def clearPoison (t : Word × List (Int × Nat)) (s : State) : State :=
  if s.lines.all fun (_, ls) => !ls.poison then s else
  t.2.foldl (fun s (a, _) =>
    if coversLine t.2 (a / 64) then
      match pinTarget s t.1 a with
      | .ok (some (leaf, va)) => let l := lineOf leaf.pkg (leaf.pa va); s.setLine l { s.line l with poison := false }
      | _ => s
    else s) s

/-- What a copy of the current core does: it reads its whole source and writes its destination in box order. -/
def copyMove (c : Copy) (s : State) : Moved State :=
  let me := some (s.copyPin c.seq)
  let src : Word × List Src :=
    match c.kind with
    | .cpin => (c.shape.base, boxSources c.shape false c.coords)
    | .get => (c.shape.base, boxSources c.shape c.shape.edge c.coords)
    | .put =>
      let us := c.coords.zipIdx.filter fun (q, _) => c.shape.writeUnit q != .outside
      (c.buf, us.flatMap fun (_, i) => (Src.at_ ((pAddr c.buf + i * c.shape.unit : Nat) : Int) c.shape.unit).cut)
  match gather me src.1 src.2 s with
  | .page va => .page va
  | .hold w => .hold w
  | .did (s1, bs) stop =>
    match c.kind with
    | .cpin => .did (s1.modTask fun t => t.modSlot c.slot (Slot.fill c.shape bs)) stop
    | _ =>
      match scatter me (coversLine c.targets.2) c.targets.1 c.targets.2 bs s1 with
      | .did s2 stop' => .did (if stop'.isNone && stop.isNone then clearPoison c.targets s2 else s2) (stop'.orElse fun _ => stop)
      | .page va => .page va
      | .hold w => .hold w

/-- A copy of the task by its number. -/
def Task.copy? (t : Task) (n : Nat) : Option Copy := t.copies.find? fun c => c.seq == n

/-- The copy may run: it waits for no page, and no earlier copy goes into its slot (R100). -/
def Task.copyRuns (t : Task) (c : Copy) : Bool :=
  c.waiting.isNone && !c.saved
    && !t.copies.any fun d => c.kind == .cpin && d.kind == .cpin && d.slot == c.slot && decide (d.seq < c.seq)

/-- A copy changed, by its number. -/
def Task.modCopy (n : Nat) (f : Copy → Copy) (t : Task) : Task :=
  { t with copies := t.copies.map fun c => if c.seq = n then f c else c }

/-- A copy ends: its pins are released and its counter rises (R286, R274); a fault follows as an asynchronous cause
(R288). -/
def endCopy (c : Copy) (fault : Option Cause) (s : State) : State :=
  (unwant s.core.id (unpin (s.copyPin c.seq) s)).modTask fun t =>
    ({ t with
      copies := t.copies.filter fun d => d.seq != c.seq
      asyncs := t.asyncs ++ (fault.map (asyncCause 1 c.ctr)).toList } : Task).bump c.ctr c.int

/-- A copy of the current core tried: `faults` says which of its ends is asked for. A page that is absent stops it until
the supervisor brings the page in (R288). -/
def runCopy (n : Nat) (faults : Bool) (s : State) : State :=
  match s.task.copy? n with
  | none => s
  | some c =>
    if !s.task.copyRuns c then s
    else match copyMove c s with
      | .did s' fault => if fault.isSome = faults then endCopy c fault s' else s
      | .page va => if faults then s else askPage (pageOf va) (s.modTask (Task.modCopy n fun c => { c with waiting := some (pageOf va) }))
      | .hold w => engineHold w s

/-- COPY_COMPLETION (R286). -/
def execCopyCompletion (c : CoreId) (n : Nat) (s : State) : Out := .next (onCore c (atPlace (runCopy n false)) s)

/-- COPY_FAULT (R288). -/
def execCopyFault (c : CoreId) (n : Nat) (s : State) : Out := .next (onCore c (atPlace (runCopy n true)) s)

/-! ## Quarry pushes (R289, R290) -/

/-- The registers of X[b] of a push. -/
structure PushReq where
  bench  : Nat
  mask   : Nat
  toScratch : Bool
  offset : Nat
  ctr    : Nat
  span   : Nat
  tag    : Nat
  deriving DecidableEq, Repr, Inhabited

/-- X[b] of a push read. -/
def pushReq (v : Nat) : PushReq :=
  { bench := bitsAt v 48 16, mask := bitsAt v 40 8, toScratch := v.testBit 39, offset := bitsAt v 22 17
    ctr := bitsAt v 18 4, span := bitsAt v 8 3, tag := bitsAt v 0 8 }

/-- The bytes that a push lays down at a consumer: an operand slot takes scales apart, a scratchpad takes whole block
records (assumption log 18). -/
def pushBytes (q : PushReq) (r : ShapeRec) (units : Nat) : Nat := units * (if q.toScratch then r.unit else r.dataBytes)

/-- The operands of a push obey R289. -/
def pushOk (s : State) (v : Nat) (r : ShapeRec) (units : Nat) : Bool :=
  let q := pushReq v
  let t := s.tenant s.core.id.tenant
  q.mask != 0 && bitsAt v 11 7 == 0 && decide (q.bench < t.wl / 2 * (t.hl / 4)) && decide (pushBytes q r units ≤ 8192)
    && (if q.toScratch then
          q.offset % 64 == 0 && q.span != 7 && decide (q.offset + pushBytes q r units ≤ 2 ^ 17)
        else decide (q.offset < 8) && q.span == 0 && slotFits r units)

/-- CPUSH, the push form (R289). -/
def cpush (a b : Reg) (int : Bool) (n : R16) (s : State) : State :=
  let v := (s.rx b).toNat
  let q := pushReq v
  if s.core.kind ≠ .quarry then raise (engineCause 1 (protect 6)) s
  else match boxOf s a int n 0 with
    | .cause c => raise c s
    | .wait w => settle (.wait w) s
    | .ok (r, o, e) =>
      if !pushOk s v r (boxUnits r o e) then raise shape1 s
      else if s.core.pushes.any fun p => p.tag == q.tag && p.bench == q.bench then raise (engineCause 1 (slotBusy 2)) s
      else if 16 ≤ s.core.pushes.length then waitAs .stall s
      else drainThen (fun s =>
        let p : Push :=
          { launch := s.task.launch, index := s.task.index, tag := q.tag, bench := q.bench, mask := q.mask, todo := q.mask
            toScratch := q.toScratch, slot := q.offset % 8, offset := q.offset, span := q.span, ctr := q.ctr, int := int
            shape := r, origin := o, extent := e, data := none, waiting := none, retry := [] }
        adv { s with core := { s.core with pushes := s.core.pushes ++ [p] } }) s

/-- CPUSH (R289). -/
def execCpush (a b : Reg) (int : Bool) (n : R16) (s : State) : Out := .next (cpush a b int n s)

/-- The core of a quarry number (R392). -/
def quarryCore (tenant pkg number : Nat) : CoreId := { tenant := tenant, lid := 0xF000 + 192 * pkg + number }

/-- A push record changed on the current core, by its place. -/
def State.modPush (s : State) (i : Nat) (f : Push → Push) : State := { s with core := { s.core with pushes := s.core.pushes.modify i f } }

/-- The record that a release names, with the consumer's bit still set. -/
def pushFor (bench tag pos : Nat) (k : Core) : Option Nat :=
  k.pushes.findIdx? fun p => p.bench == bench && p.tag == tag && p.mask.testBit pos

/-- A consumer lets a record go; the record is freed when the last has (R290). -/
def releasePush (i pos : Nat) (s : State) : State :=
  match s.core.pushes[i]? with
  | none => s
  | some p =>
    let mask := p.mask - 2 ^ pos
    if mask = 0 then { s with core := { s.core with pushes := s.core.pushes.eraseIdx i } }
    else s.modPush i fun p => { p with mask := mask }

/-- CPUSH, the release form (R290). -/
def cpushRelease (a : Reg) (s : State) : State :=
  let x := (s.rx a).toNat
  let q := quarryCore s.core.id.tenant (bitsAt x 16 2) (bitsAt x 8 8)
  let pos := benchPos s.wl s.core.id.lid
  let record (s : State) : Option Nat := (s.findCore q).bind (pushFor s.bench.bench (bitsAt x 0 8) pos)
  if !s.isCompute then raise (engineCause 1 (protect 6)) s
  else if 2 ^ 18 ≤ x ∨ 191 < bitsAt x 8 8 then raise shape1 s
  else if (record s).isNone then raise (engineCause 1 (protect 6)) s
  else releaseThen (fun s => match record s with
    | some i => adv (onCore q (releasePush i pos) s)
    | none => raise (engineCause 1 (protect 6)) s) s

/-- CPUSH, the release form (R290). -/
def execCpushRelease (a : Reg) (s : State) : Out := .next (cpushRelease a s)

/-- The box of a push read whole by the quarry, which is current. -/
def pushGather (p : Push) (s : State) : Moved (State × List Byte) :=
  let coords := boxCoords (p.shape.unitBox (p.origin.map (·.toInt)) (p.extent.map (·.toNat)))
  gather none p.shape.base (boxSources p.shape false coords) s

/-- A consumer takes a push now: its task runs, and a slot is claimed and in no step's use (R289, R299). -/
def Task.takesPush (t : Task) (p : Push) : Bool :=
  t.st == .running && (p.toScratch || ((t.slot p.slot).claimed && !t.slotInUse p.slot))

/-- A push's bytes land at a consumer in a cycle, and its counter rises (R274, R289, R326). -/
def Task.land (now sender : Nat) (p : Push) (bs : List Byte) (t : Task) : Task :=
  let t := if p.toScratch then { spStore p.span p.offset { bytes := bs } t with xlast := some (now, sender) }
    else t.modSlot p.slot fun sl => (sl.fill p.shape bs).setBlock p.shape
  t.bump p.ctr (p.int && !t.determinate)

/-- Place `pos` of the consumers, written once the box has been read; a consumer that cannot take it is tried again after
64 cycles. -/
def pushLand (i pos : Nat) (p : Push) (bs : List Byte) (s : State) : State :=
  let c : CoreId := { tenant := s.core.id.tenant, lid := lidAt s.wl p.bench pos }
  match s.findCore c with
  | some k =>
    if p.toScratch && k.task.lineLate s.now s.core.id.lid then s
    else if k.task.takesPush p then
      modTaskOf c (Task.land s.now s.core.id.lid p bs) (s.modPush i fun p => { p with todo := p.todo - 2 ^ pos, retry := mapErase pos p.retry })
    else s.modPush i fun p => { p with retry := mapPut pos (s.now + 64) p.retry }
  | none => s.modPush i fun p => { p with retry := mapPut pos (s.now + 64) p.retry }

/-- A push writes at a consumer: the first write reads the whole box before it (R289). -/
def pushWrite (i pos : Nat) (s : State) : State :=
  match s.core.pushes[i]? with
  | none => s
  | some p =>
    if !p.todo.testBit pos || p.waiting.isSome then s
    else match p.data with
      | some bs => pushLand i pos p bs s
      | none =>
        match pushGather p s with
        | .did (s', bs) none => pushLand i pos p bs ((unwant s.core.id s').modPush i fun p => { p with data := some bs })
        | .did _ (some _) => s
        | .page va => askPage (pageOf va) (s.modPush i fun p => { p with waiting := some (pageOf va) })
        | .hold w => engineHold w s

/-- A write of a push at a consumer is due: at once, or when its refusal is 64 cycles old. -/
def State.pushDue (s : State) (i pos : Nat) (again : Bool) : Bool :=
  match s.core.pushes[i]? with
  | none => false
  | some p =>
    match mapFind pos p.retry with
    | none => !again
    | some t => again && decide (t ≤ s.now)

/-- PUSH_WRITE (R289). -/
def execPushWrite (q : CoreId) (rec pos : Nat) (s : State) : Out :=
  .next (onCore q (fun s => if s.pushDue rec pos false then pushWrite rec pos s else s) s)

/-- PUSH_RETRY (R289). -/
def execPushRetry (q : CoreId) (rec pos : Nat) (s : State) : Out :=
  .next (onCore q (fun s => if s.pushDue rec pos true then pushWrite rec pos s else s) s)

/-- PUSH_READ_FAULT: the push ends before any write, and its task takes the cause (R289). -/
def pushReadFault (i : Nat) (s : State) : State :=
  match s.core.pushes[i]? with
  | none => s
  | some p =>
    if p.data.isSome || p.waiting.isSome then s
    else match pushGather p s with
      | .did _ (some c) =>
        ({ s with core := { s.core with pushes := s.core.pushes.eraseIdx i } } : State).modOwn
          (fun t => t.launch == p.launch && t.index == p.index)
          (fun t => { t with asyncs := t.asyncs ++ [asyncCause 1 p.ctr c] })
      | .hold w => engineHold w s
      | _ => s

/-- PUSH_READ_FAULT (R289). -/
def execPushReadFault (q : CoreId) (rec : Nat) (s : State) : Out := .next (onCore q (pushReadFault rec) s)

/-! ## Pages brought in for engines (R288) -/

/-- A copy goes on once its page is present: it pins the lines it could not pin before. -/
def resumeCopy (n : Nat) (s : State) : State :=
  match s.task.copy? n with
  | none => s
  | some c =>
    match c.waiting with
    | some page =>
      if s.present page && !c.saved then
        match pinCopy c s with
        | .ok s => s.modTask (Task.modCopy n fun c => { c with waiting := none })
        | .wait w => engineHold w s
        | .cause _ => s
      else s
    | none => s

/-- A push goes on once its page is present. -/
def resumePush (i : Nat) (s : State) : State :=
  match s.core.pushes[i]? with
  | none => s
  | some p =>
    match p.waiting with
    | some page => if s.present page then s.modPush i fun p => { p with waiting := none } else s
    | none => s

/-- COPY_PAGE_RESUME (R288, R289): copy number `n` of the core, and on a quarry core the push record at place `n`. -/
def execCopyPageResume (c : CoreId) (n : Nat) (s : State) : Out := .next (onCore c (fun s => resumePush n (resumeCopy n s)) s)

end Sys2Proof.Machine
end

