-- ==== Sys2Proof/Machine/Launches.lean ====
section
/-!
DEFINITION. The levels above a task (R44 to R57, R147, R298): handles and completion words, kicks, the end of launches,
replays, phases and jobs, cancels, and the engine-4 instructions.
-/
namespace Sys2Proof.Machine

/-! ## Handles (R298) -/

/-- The levels of a handle. -/
inductive Level where
  | launch | graph | phase | job
  deriving DecidableEq, Repr, Inhabited

/-- The level of a handle. -/
def levelOf (h : Word) : Level :=
  match h.toNat / 2 ^ 62 with
  | 0 => .launch
  | 1 => .graph
  | 2 => .phase
  | _ => .job

/-- The number of a level. -/
def Level.num : Level → Nat
  | .launch => 0 | .graph => 1 | .phase => 2 | .job => 3

/-- The handle of a level. -/
def handleOf (v : Level) (tenant n : Nat) : Word := BitVec.ofNat 64 (v.num * 2 ^ 62 + tenant % 256 * 2 ^ 48 + n % 2 ^ 48)

/-- The tenant of a handle. -/
def handleTenant (h : Word) : Nat := bitsAt h.toNat 48 8

/-- The number of a handle. -/
def handleNum (h : Word) : Nat := h.toNat % 2 ^ 48

/-- Does a level of the tenant by that handle exist? -/
def State.hasLevel (s : State) (h : Word) : Bool :=
  let n := handleNum h
  let of (t : Option Nat) : Bool := t == some (handleTenant h)
  bitsAt h.toNat 56 6 == 0 && match levelOf h with
    | .launch => of ((mapFind n s.launches).map (·.tenant))
    | .graph => of ((mapFind n s.graphs).map (·.tenant))
    | .phase => of ((mapFind n s.phases).map (·.tenant))
    | .job => of ((mapFind n s.jobs).map (·.tenant))

/-- A graph changed. -/
def State.modGraph (s : State) (n : Nat) (f : Graph → Graph) : State :=
  match mapFind n s.graphs with
  | none => s
  | some g => { s with graphs := mapPut n (f g) s.graphs }

/-- A phase changed. -/
def State.modPhase (s : State) (n : Nat) (f : Phase → Phase) : State :=
  match mapFind n s.phases with
  | none => s
  | some p => { s with phases := mapPut n (f p) s.phases }

/-- A job changed. -/
def State.modJob (s : State) (n : Nat) (f : Job → Job) : State :=
  match mapFind n s.jobs with
  | none => s
  | some j => { s with jobs := mapPut n (f j) s.jobs }

/-! ## Completion words (R44, R298) -/

/-- A completion word. -/
def completionWord (counter status : Nat) : Word := BitVec.ofNat 64 (status % 256 * 2 ^ 48 + counter % 2 ^ 48)

/-- Every replay among the first `n` that the graph accepted has ended (R298). -/
def Graph.over (g : Graph) (n : Nat) : Bool :=
  g.kicks.all (fun k => decide (n ≤ k.seq)) && match g.running with
    | some k => decide (n ≤ k.seq)
    | none => true

/-- The completion word of a level that has ended; of a graph, once the replays among its first `n` have. -/
def State.levelWord (s : State) (h : Word) (n : Nat) : Option Word :=
  let k := handleNum h
  match levelOf h with
  | .launch => (mapFind k s.launches).bind fun l => if l.st = .ended then some (completionWord l.counter l.status) else none
  | .graph => (mapFind k s.graphs).bind fun g => if g.over n then some (completionWord g.counter g.status) else none
  | .phase => (mapFind k s.phases).bind fun p => if p.ended then some (completionWord p.counter p.status) else none
  | .job => (mapFind k s.jobs).bind fun j => if j.ended then some (completionWord j.counter j.status) else none

/-- How many kicks a graph has accepted; 0 for another level. -/
def State.accepted (s : State) (h : Word) : Nat :=
  match levelOf h with
  | .graph => ((mapFind (handleNum h) s.graphs).map (·.accepted)).getD 0
  | _ => 0

/-- A WAITL learns that its level has ended, though the level's graph may be replayed before the core goes on (R298). -/
def Task.latchLevel (s : State) (t : Task) : Task :=
  let latch (w : Wait) : Wait := match w with
    | .level h n none => .level h n (s.levelWord h n)
    | w => w
  { t with wait := latch t.wait, rep := { t.rep with wait := latch t.rep.wait } }

/-- WAITLs, and WAITs of clients, of levels that have ended are answered (R298, R407). -/
def answerWaits (s : State) : State :=
  let f (a : Answer) : Answer :=
    match a with
    | .waiting h n => match s.levelWord h n with
      | some w => .word w
      | none => a
    | a => a
  { s with
    core := { s.core with task := s.core.task.latchLevel s }
    others := s.others.map fun (i, k) => (i, { k with task := k.task.latchLevel s })
    clients := s.clients.map fun (i, c) => (i, { c with answers := c.answers.map f }) }

/-! ## Jobs and phases (R47, R49) -/

/-- Kicks accepted for phase `p` that still wait at a graph are discarded (R46, R49). -/
def dropKicks (p : Nat) (s : State) (gn : Nat) : State :=
  match mapFind gn s.graphs with
  | none => s
  | some g =>
    let n := (g.kicks.filter fun k => k.phase == p).length
    (s.modGraph gn fun g => { g with kicks := g.kicks.filter fun k => k.phase != p }).modPhase p fun p => { p with pending := p.pending - n }

/-- A job ends: its phases are closed, and kicks for those that have not ended are discarded (R47, R49). A phase that never
started ends with it, with status 0 or CANCELLED, and is not counted among the phases that the job has ended (DESIGN CHOICE,
assumption log 93). -/
def endJob (jn status : Nat) (s : State) : State :=
  match mapFind jn s.jobs with
  | none => s
  | some j =>
    let close (s : State) (pn : Nat) : State :=
      match mapFind pn s.phases with
      | none => s
      | some p =>
        if p.ended then s.modPhase pn fun p => { p with closed := true }
        else
          let s := p.graphs.foldl (dropKicks pn) s
          s.modPhase pn fun p => { p with closed := true, ended := true, status := if p.cancelled then 1 else p.status }
    (j.phases.foldl close s).modJob jn fun j =>
      { j with closed := true, ended := true, status := max status (if j.cancelled then 1 else 0) }

/-- The first phase of a list that has not ended starts; a phase that is closed and has nothing to run ends at once
(R47, R49). A job that is closed and has no phase at all ends COMPLETE at once (DESIGN CHOICE, assumption log 93). -/
def startPhase (jn : Nat) : List Nat → State → State
  | [], s =>
    match mapFind jn s.jobs with
    | none => s
    | some j => if j.closed then endJob jn 0 s else s
  | pn :: rest, s =>
    match mapFind pn s.phases with
    | none => s
    | some p =>
      if p.ended then startPhase jn rest s
      else
        let s := s.modPhase pn fun p => { p with started := true }
        if p.closed ∧ p.pending = 0 then
          let status := max p.status (if p.cancelled then 1 else 0)
          let s := (s.modPhase pn fun p => { p with ended := true, status := status }).modJob jn fun j => { j with counter := j.counter + 1 }
          if status = 0 then startPhase jn rest s else endJob jn status s
        else s

/-- A job looked at after a change: its current phase may have ended, the next one starts, and the job may end. A
cancelled job starts no later phase, and ends with the highest code among its current phase's and CANCELLED (R44, R46, R47, R49). -/
def settleJob (jn : Nat) (s : State) : State :=
  match mapFind jn s.jobs with
  | none => s
  | some j =>
    if j.ended then s
    else
      let phase (n : Nat) : Option Phase := mapFind n s.phases
      let current := j.phases.filter fun n => match phase n with
        | some p => p.started && !p.ended
        | none => false
      if j.cancelled then
        if current.all fun n => match phase n with
          | some p => p.pending == 0
          | none => true
        then endJob jn (current.foldl (fun m n => max m (((phase n).map (·.status)).getD 0)) 1) ((current.foldl (fun s n => s.modPhase n fun p => { p with ended := true, status := max p.status 1 }) s).modJob jn
          fun j => { j with counter := j.counter + current.length })
        else s
      else startPhase jn j.phases s

/-! ## Replays and launches (R48, R52, R56, R57) -/

/-- Event lines that a launch holds are released (R147). -/
def releaseLines (n : Nat) (s : State) : State :=
  { s with benches := s.benches.filterMap fun (k, b) =>
      let b' : Bench := { b with lines := b.lines.map fun l => if l.held = some n then {} else l }
      if b' = {} then none else some (k, b') }

/-- A launch ends (R44, R57): its status is final, and its lines are free. -/
def endLaunch (n : Nat) (s : State) : State :=
  releaseLines n (s.modLaunch n fun l => { l with st := .ended, token := none })

/-- A launch ends with a mark: CANCELLED before any grant, for instance (R45, R48). -/
def endLaunchAs (status n : Nat) (s : State) : State := endLaunch n (s.modLaunch n fun l => { l with status := max l.status status })

/-- The dies whose dispatchers serve a launch, by rank (R58, R392). -/
def State.serving (s : State) (l : Launch) : List Nat :=
  let lids := (List.range l.n).map (l.f + ·)
  let ranks := lids.filterMap fun lid => (s.findCore { tenant := l.tenant, lid := lid }).bind fun k =>
    k.place.die.map fun d => dieRank k.place.pkg d
  (List.range 16).filter ranks.contains

/-- The dies of a launch that are healthy: neither fenced nor failed, in rising rank (R58). -/
def Launch.healthy (l : Launch) : List Nat := (l.dies.filter fun v => !v.fenced && !v.failed).map (·.rank)

/-- The lowest-ranked healthy dies take the two roles (R58). -/
def Launch.roles (l : Launch) : Launch := { l with keystone := l.healthy[0]?, deputy := l.healthy[1]? }

/-- A launch enters the queue of its level at the tail (R52, R387), its dispatchers having heard from one another just now
(R58, R60). One whose every die has failed already ends ABORTED_PARTIAL (R60). -/
def queueLaunch (n : Nat) (s : State) : State :=
  match s.launch? n with
  | none => s
  | some l =>
    let ranks := s.serving l
    let fresh : Map Nat := ranks.map fun r => (r, s.time)
    let view (r : Nat) : DieView :=
      { rank := r, fenced := false, failed := s.failed.contains r, beat := s.time, heard := fresh, seen := fresh, acked := fresh }
    if !ranks.isEmpty && ranks.all s.failed.contains then endLaunchAs 2 n s else
    { s.modLaunch n fun l => ({ l with
        st := .queued, level := l.prio, since := s.now, order := s.serial, dies := ranks.map view
        token := if l.termdetect then some { at_ := l.f, marked := false, inRound := false, stayed := false } else none } : Launch).roles
      with serial := s.serial + 1 }

/-- An ARMED launch looked at: it is queued once every predecessor has ended COMPLETE, and ends CANCELLED when one has ended
with another status (R48, R52, R57). -/
def settleLaunch (s : State) (n : Nat) : State :=
  match s.launch? n with
  | none => s
  | some l =>
    if l.st ≠ .armed then s
    else
      let ended (ok : Bool) (p : Nat) : Bool := match s.launch? p with
        | some q => q.st == .ended && (q.status == 0) == ok
        | none => ok
      if l.preds.any (ended false) then endLaunchAs 1 n s
      else if l.preds.all (ended true) then queueLaunch n s
      else s

/-- Every launch of a graph looked at, as often as an effect may travel along its edges. -/
def settleLaunches (nodes : List Nat) (s : State) : State := nodes.foldl (fun s _ => nodes.foldl settleLaunch s) s

/-- A graph looked at after a change of its launches: successors start or end, and once every launch has ended, so has the
replay (R44, R48, R56). The graph's word keeps the highest status of all its replays that have ended, where R44 may also mean the last one's
launches (DESIGN CHOICE, assumption log 64). -/
def settleGraph (gn : Nat) (s : State) : State :=
  match mapFind gn s.graphs with
  | none => s
  | some g =>
    match g.running with
    | none => s
    | some k =>
      let s := settleLaunches g.nodes s
      let ls := g.nodes.filterMap s.launch?
      if ls.all fun l => l.st == .ended then
        let status := max (if g.cancelled then 1 else 0) (ls.foldl (fun m l => max m l.status) 0)
        let s := s.modGraph gn fun g => { g with running := none, cancelled := false, counter := g.counter + 1, status := max g.status status }
        let s := s.modPhase k.phase fun p => { p with pending := p.pending - 1, counter := p.counter + 1, status := max p.status status }
        settleJob g.job s
      else s

/-- The launch is in its dispatchers' hands. -/
def Launch.live (l : Launch) : Bool := l.st == .queued || l.st == .running || l.st == .draining

/-- A launch looked at: it ends when no task of it is left and none can start (R57, R44). -/
def Launch.spent (l : Launch) : Bool := l.st == .draining && l.lostIdx.isEmpty && l.grants.all fun g => g.done || g.lost

/-- A launch looked at after a task of it has ended or a cancel has reached it. -/
def checkLaunch (n : Nat) (s : State) : State :=
  match s.launch? n with
  | none => s
  | some l => if l.spent then answerWaits (settleGraph l.graph (endLaunch n s)) else s

/-! ## Cancels (R45, R46) -/

/-- A cancel of a launch at its dispatcher (R45, R57). -/
def cancelOne (n : Nat) (s : State) : State :=
  match s.launch? n with
  | none => s
  | some l =>
    match l.st with
    | .armed | .queued => endLaunch n (s.modLaunch n fun l => { l with status := max l.status 1, counter := 0 })
    | .running => s.modLaunch n fun l => { l with st := .draining, status := max l.status 1, lostIdx := [], stopped := true }
    | _ => s

/-- A cancel of a launch, and what follows from it. -/
def cancelLaunch (n : Nat) (s : State) : State :=
  match s.launch? n with
  | none => s
  | some l =>
    let s := checkLaunch n (cancelOne n s)
    settleGraph l.graph s

/-- A cancel of a graph's replay (R46). -/
def cancelReplay (gn : Nat) (s : State) : State :=
  match mapFind gn s.graphs with
  | none => s
  | some g =>
    if g.running.isNone then s
    else
      let s := s.modGraph gn fun g => { g with cancelled := true }
      let s := g.nodes.foldl (fun s n => cancelOne n s) s
      let s := g.nodes.foldl (fun s n => match s.launch? n with
        | some l => if l.spent then endLaunch n s else s
        | none => s) s
      settleGraph gn s

/-- A cancel of a graph: its replay, and the kicks that wait behind it (R46). -/
def cancelGraph (gn : Nat) (s : State) : State :=
  match mapFind gn s.graphs with
  | none => s
  | some g =>
    let s := g.kicks.foldl (fun s k => s.modPhase k.phase fun p => { p with pending := p.pending - 1 }) s
    settleJob g.job (cancelReplay gn (s.modGraph gn fun g => { g with kicks := [] }))

/-- A cancel of a phase (R46). -/
def cancelPhase (pn : Nat) (s : State) : State :=
  match mapFind pn s.phases with
  | none => s
  | some p =>
    if p.ended then s
    else
      let s := s.modPhase pn fun p => { p with cancelled := true, closed := true }
      let s := p.graphs.foldl (fun s gn =>
        let s := dropKicks pn s gn
        match (mapFind gn s.graphs).bind (·.running) with
        | some k => if k.phase = pn then cancelReplay gn s else s
        | none => s) s
      settleJob p.job s

/-- A cancel of a job: its current phase, and the kicks of later phases (R46). -/
def cancelJob (jn : Nat) (s : State) : State :=
  match mapFind jn s.jobs with
  | none => s
  | some j =>
    if j.ended then s
    else
      let s := s.modJob jn fun j => { j with cancelled := true, closed := true }
      let s := j.phases.foldl (fun s pn =>
        match mapFind pn s.phases with
        | none => s
        | some p =>
          if p.started then cancelPhase pn s
          else p.graphs.foldl (dropKicks pn) (s.modPhase pn fun p => { p with closed := true })) s
      settleJob jn s

/-- A cancel of the level that a handle names; a level that has ended is unaffected (R298). -/
def cancelLevel (h : Word) (s : State) : State :=
  if s.hasLevel h then
    let n := handleNum h
    answerWaits (match levelOf h with
      | .launch => cancelLaunch n s
      | .graph => cancelGraph n s
      | .phase => cancelPhase n s
      | .job => cancelJob n s)
  else s

/-! ## Kicks (R54, R55) -/

/-- The earliest phase of a graph's job that lists the graph and is open (R49). -/
def openPhase (s : State) (gn : Nat) (g : Graph) : Option Nat :=
  match mapFind g.job s.jobs with
  | none => none
  | some j => if j.ended then none else j.phases.find? fun pn => match mapFind pn s.phases with
    | some p => !p.closed && p.graphs.contains gn
    | none => false

/-- A patch table that R55 admits. -/
def patchesOk (size : Nat) (ps : List (Nat × Word)) : Bool :=
  decide (ps.length ≤ 256) && ps.all fun (o, _) => o % 8 == 0 && decide (o + 8 ≤ size)

/-- A kick of a graph that exists: its result code and, where it is accepted, its effect (R55). -/
def kickGraph (gn : Nat) (g : Graph) (ps : List (Nat × Word)) (s : State) : Nat × State :=
  if !patchesOk g.areaSize ps then (2, s)
  else match openPhase s gn g with
    | none => (4, s)
    | some pn =>
      if 16 ≤ g.kicks.length then (1, s)
      else
        let s := s.modGraph gn fun g => { g with kicks := g.kicks ++ [{ seq := g.accepted, phase := pn, patches := ps }], accepted := g.accepted + 1 }
        (0, s.modPhase pn fun p => { p with pending := p.pending + 1 })

/-- The graph that a handle names for a tenant. -/
def State.graphOf (s : State) (tenant : Nat) (h : Word) : Option (Nat × Graph) :=
  if levelOf h = .graph ∧ handleTenant h = tenant ∧ s.hasLevel h then (mapFind (handleNum h) s.graphs).map fun g => (handleNum h, g)
  else none

/-- The patch table that a pointer names, read by a load of `load`: none where its count breaks R55 (R54). -/
def patchTable (load : Word → Nat → State → Try (State × List Byte)) (p : Word) (s : State) : Try (State × Option (List (Nat × Word))) :=
  if p = 0 then .ok (s, some [])
  else (load p 8 s).bind fun (s1, head) =>
    let n := doubleAt head 0
    if 256 < n then .ok (s1, none)
    else (load p (8 + 16 * n) s1).bind fun (s2, bs) =>
      .ok (s2, some ((List.range n).map fun (i : Nat) => (doubleAt bs (1 + 2 * i), BitVec.ofNat 64 (doubleAt bs (2 + 2 * i)))))

/-! ## The instructions of engine 4 (R298) -/

/-- PROTECT with subcode ENGINE of engine 4. -/
def protect4 : Cause := engineCause 4 (protect 6)

/-- A KICK or CANCEL of the graph in this cycle from a core of a higher id has been taken already: this one is a later cycle's (R298). -/
def Graph.late (now lid : Nat) (g : Graph) : Bool := g.last.any fun (c, l) => c == now && decide (lid < l)

/-- The service has taken a KICK or CANCEL of a graph from the current core (R298). -/
def noteGraph (gn : Nat) (s : State) : State := s.modGraph gn fun g => { g with last := some (s.now, s.core.id.lid) }

/-- KICK accepted or refused: the code goes to `a`. In a DETERMINATE launch a full queue makes it wait (R397). -/
def kickNow (a b : Reg) (s : State) : State :=
  match s.graphOf s.core.id.tenant (s.rx a) with
  | none => setX a 3 s
  | some (gn, g) =>
    if g.late s.now s.core.id.lid then waitAs .stall s else
    settle ((patchTable loadRecord (s.rx b) s).bind fun (s1, ps) =>
      match ps with
      | none => .ok (setX a 2 (noteGraph gn s1))
      | some ps =>
        let (code, s2) := kickGraph gn { g with last := some (s.now, s.core.id.lid) } ps (noteGraph gn s1)
        if code = 1 ∧ s.task.determinate then .wait .stall else .ok (setX a (BitVec.ofNat 64 code) s2)) s

/-- The core waits for the service of its package. -/
def State.stillHeld (s : State) (c : CoreId) : Bool :=
  match s.findCore c with
  | some k => k.task.st == .running && k.task.wait == .stall
  | none => false

/-- Some engine of the current core waits for the page. -/
def State.engineWants (s : State) (page : Nat) : Bool :=
  (s.core.task :: s.core.saved).any (fun t => t.copies.any fun c => c.waiting == some page)
    || s.core.pushes.any (fun p => p.waiting == some page)
    || s.benches.any fun (_, b) => b.chisel.toList.any fun o => match o with
        | some c => c.who == s.core.id && c.page == some page
        | none => false

/-- Some task of the current core, or an engine, has asked for the page. -/
def State.wantsPage (s : State) (page : Nat) : Bool :=
  (s.core.task :: s.core.saved).any (fun t => t.requests.contains page || t.parkedPage page) || s.engineWants page

/-- What has waited for the service since a switchover is still due (R411). -/
def State.due (s : State) : Waiter → Bool
  | .call c => s.stillHeld c
  | .trap c => s.traps.contains c
  | .page c p => (s.findCore c).isSome && (switchTo c s).wantsPage p

/-- What waits for a package's service, in the order of its arrival; `w` counts as waiting. -/
def State.queueOf (s : State) (pkg : Nat) (w : Waiter) : List Waiter := (s.pkg pkg).held.filter fun x => x == w || s.due x

/-- The service of a package runs, and takes `w` up before anything that came earlier and waits (R411). -/
def State.takesUp (s : State) (pkg : Nat) (w : Waiter) : Bool := !s.paused pkg && (s.queueOf pkg w).head?.all (· == w)

/-- `f` done with the service: during the pause of a switchover, and until what came earlier has been served, the core waits (R411). -/
def serviceThen (f : State → State) (s : State) : State :=
  let pkg := s.core.place.pkg
  let me : Waiter := .call s.core.id
  let q := s.queueOf pkg me
  if !s.pausedHere && (s.pkg pkg).held.isEmpty then f s
  else if s.takesUp pkg me then f (s.modPkg pkg fun p => { p with held := q.filter (· != me) })
  else waitAs .stall (s.modPkg pkg fun p => { p with held := if q.contains me then q else q ++ [me] })

/-- What the service does for the current core's trap or page request, in its turn (R411). -/
def inTurn (w : Waiter) (f : State → State) (s : State) : State :=
  let pkg := s.core.place.pkg
  if !s.pausedHere && (s.pkg pkg).held.isEmpty then f s
  else if s.takesUp pkg w then f (s.modPkg pkg fun p => { p with held := (s.queueOf pkg w).filter (· != w) })
  else s

/-- KICK (R298): a release at domain scope. -/
def execKick (a b : Reg) (s : State) : Out := .next (releaseThen (serviceThen (kickNow a b)) s)

/-- CANCEL taken by the service (R298). -/
def cancelNow (h : Word) (s : State) : State :=
  if levelOf h ≠ .graph then adv (cancelLevel h s)
  else if (mapFind (handleNum h) s.graphs).any (Graph.late s.now s.core.id.lid) then waitAs .stall s
  else adv (cancelLevel h (noteGraph (handleNum h) s))

/-- CANCEL (R298). -/
def execCancel (a : Reg) (s : State) : Out :=
  let h := s.rx a
  .next (if handleTenant h ≠ s.core.id.tenant then raise protect4 s else serviceThen (cancelNow h) s)

/-- Does the handle name the current task's own launch, or a level that encloses it? -/
def ownLevel (h : Word) (s : State) : Bool :=
  let n := handleNum h
  match s.launch? s.task.launch with
  | none => false
  | some l =>
    let g := mapFind l.graph s.graphs
    match levelOf h with
    | .launch => n == s.task.launch
    | .graph => n == l.graph
    | .phase => match g.bind (·.running) with
      | some k => n == k.phase
      | none => false
    | .job => match g with
      | some g => n == g.job
      | none => false

/-- WAITL (R298). -/
def waitl (a d : Reg) (s : State) : State :=
  let h := s.rx a
  if handleTenant h ≠ s.core.id.tenant ∨ !s.hasLevel h ∨ ownLevel h s then raise protect4 s
  else
    let (n, seen) : Nat × Option Word := match s.task.wait with
      | .level h' n w => if h' = h then (n, w) else (s.accepted h, none)
      | _ => (s.accepted h, none)
    match seen.orElse fun _ => s.levelWord h n with
    | some w => acquire (setX d w s)
    | none => waitAs (.level h n none) s

/-- WAITL waits for its answer already. -/
def Wait.forLevel : Wait → Bool
  | .level _ _ _ => true
  | _ => false

/-- WAITL (R298). The service answers none during a switchover (R411). -/
def execWaitl (a d : Reg) (s : State) : Out :=
  .next (if s.task.wait.forLevel then (if s.pausedHere then s else waitl a d s) else serviceThen (waitl a d) s)

end Sys2Proof.Machine
end

