-- ==== Sys2Proof/Machine/Strata.lean ====
section
/-!
DEFINITION. Strata (R21 to R24, R66 to R94, R202, R203): keys and their slots, storing, resolving a load, waiting,
and the causality rule.
-/
namespace Sys2Proof.Machine

/-! ## Keys and slots (R67, R69, R71, R73) -/

/-- A number rounded up to a multiple of 64. -/
def up64 (n : Nat) : Nat := (n + 63) / 64 * 64

/-- The least power of two that is not below `n`. -/
def pow2Up (n : Nat) : Nat := if n ≤ 1 then 1 else 2 ^ ((n - 1).log2 + 1)

/-- The size of a key slot (R69). -/
def Region.slot (r : Region) : Nat := pow2Up (64 + up64 (8 * r.retain) + up64 (r.retain * r.payload))

/-- A key of a region; a key that no instruction has touched is as the declaration left it (R70). -/
def Region.key (r : Region) (k : Nat) : Key := mapGet {} r.keys k

/-- A key of the domain, with its region. -/
def State.keyAt (s : State) (id : KeyId) : Option (Region × Key) :=
  match mapFind id.rid s.regions with
  | none => none
  | some r => some (r, r.key id.k)

/-- The address of a key's slot. -/
def Region.keyAddr (r : Region) (k : Nat) : Nat := r.base + k * r.slot

/-- STATE of R70. -/
def KeySt.num : KeySt → Nat
  | .open_ => 0 | .closed => 1 | .retiring => 2

/-- OWNER and WRITER of R70. -/
def KeyOwner.fields : KeyOwner → Nat × Nat
  | .none => (0, 0) | .core lid => (1, lid) | .stream port n => (2, 256 * port + n)

/-- The first double of a key slot's control line (R70). -/
def Key.control (tenant : Nat) (k : Key) : Nat :=
  k.st.num * 2 ^ 62 + k.owner.fields.1 * 2 ^ 60 + k.count % 32 * 2 ^ 55 + k.newest % 16 * 2 ^ 51
    + k.owner.fields.2 % 65536 * 2 ^ 32 + tenant % 256 * 2 ^ 24

/-- The offsets of a record's time and payload in its slot (R69). -/
def Region.recordOffsets (r : Region) (i : Nat) : Nat × Nat := (64 + 8 * i, 64 + up64 (8 * r.retain) + i * r.payload)

/-- The home of a key: one quarry core for every key of a page (R72). -/
def Region.homeOf (r : Region) (k : Nat) : CoreId := (mapFind (k * r.slot / 65536) r.homes).getD r.home

/-- The package of a quarry core, by its id (R35). -/
def quarryPkg (c : CoreId) : Nat := (c.lid - 0xF000) / 192

/-- The translation of a key's address, as the tables of its home's package have it. -/
def State.slotXl (s : State) (r : Region) (k : Nat) : Xl :=
  let p := quarryPkg (r.homeOf k)
  walkSoft s (s.physD p ((s.pkg p).asidTable + 8 * (s.tenant r.tenant).asid)) (r.keyAddr k)

/-- Where a key's slot lies in physical memory. -/
def State.slotPhys (s : State) (r : Region) (k : Nat) : Option (Nat × Nat) :=
  match s.slotXl r k with
  | .leaf l => some (l.pkg, l.pa (r.keyAddr k))
  | _ => none

/-- A line of a key's slot holds an error that cannot be corrected (R184, R356). -/
def State.slotUe (s : State) (r : Region) (k : Nat) : Bool :=
  match s.slotPhys r k with
  | none => false
  | some (p, a) => (List.range ((r.slot + 63) / 64)).any fun i => (s.line (lineOf p (a + 64 * i))).poison

/-- A line of a key's slot that the key's home lacks: its 16 tokens do not rest at the memory home (R72, R348). -/
def State.slotLacks (s : State) (r : Region) (k : Nat) : Option Line :=
  match s.slotPhys r k with
  | none => none
  | some (p, a) => ((List.range ((r.slot + 63) / 64)).map fun i => lineOf p (a + 64 * i)).find? fun l => ((s.line l).gatherWrite .home).isNone

/-- What the homes of a region's keys do where they have the keys' slots; they ask for a line that one lacks, and do nothing yet (R72,
R348). -/
def atSlots (r : Region) (ks : List Nat) (f : State → State) (s : State) : State :=
  match ks.findSome? (s.slotLacks r) with
  | some l => askFor l .home true s
  | none => f s

/-- An event of this cycle at the home of a key comes too late for its place in the cycle's order: it is performed in a later cycle (R72). The
order is by logical core id, and ingress, as 65536, comes last. -/
def State.homeLate (s : State) (r : Region) (k lid : Nat) : Bool :=
  (mapFind (r.homeOf k).lid s.homed).any fun (c, l) => c == s.now && decide (lid < l)

/-- The home of a key has performed an event of this cycle (R72). -/
def State.noteHome (s : State) (r : Region) (k lid : Nat) : State := { s with homed := mapPut (r.homeOf k).lid (s.now, lid) s.homed }

/-- Memory with a key's control line, and one of its records, as the slot holds them (R69, R70). -/
def State.slotMem (s : State) (r : Region) (i : Nat) (k : Key) (rec_ : Option Nat) : Map Byte :=
  match s.slotPhys r i with
  | none => s.mem
  | some (p, a) =>
    let m := memStore s.mem (memKey p a) (bytesOf (k.control r.tenant) 8)
    match rec_.bind fun n => (mapFind n k.recs).map fun x => (n, x) with
    | none => m
    | some (n, t, v) =>
      let o := r.recordOffsets n
      memStore (memStore m (memKey p (a + o.1)) (bytesOf t 8)) (memKey p (a + o.2)) (bytesOf v.toNat r.payload)

/-- A region's key changed, as its home keeps it. -/
def Region.setKey (r : Region) (i : Nat) (k : Key) : Region := { r with keys := mapSet {} r.keys i k }

/-- A key changed, as its home keeps it. -/
def State.setKey (s : State) (id : KeyId) (f : Key → Key) : State :=
  match mapFind id.rid s.regions with
  | none => s
  | some r => { s with regions := mapPut id.rid (r.setKey id.k (f (r.key id.k))) s.regions }

/-- A key changed, with its control line and one of its records in memory. -/
def State.putKey (s : State) (id : KeyId) (rec_ : Option Nat) (f : Key → Key) : State :=
  match mapFind id.rid s.regions with
  | none => s
  | some r => { s.setKey id f with mem := s.slotMem r id.k (f (r.key id.k)) rec_ }

/-- A key changed, with its control line. -/
def State.modKey (s : State) (id : KeyId) (f : Key → Key) : State := s.putKey id none f

/-- The key whose slot begins at an address, in a tenant's regions (R67, R73). -/
def findKey (tenant va : Nat) : Map Region → Option KeyId
  | [] => none
  | (rid, r) :: rest =>
    let off := va - r.base
    if r.tenant = tenant ∧ r.kind = .strata ∧ r.base ≤ va ∧ off % r.slot = 0 ∧ off / r.slot < r.nkeys then
      some { rid := rid, k := off / r.slot }
    else findKey tenant va rest

/-- The states of a key in rising time: (time, payload) (R71). -/
def Key.states (k : Key) (retain : Nat) : List (Nat × Vec) :=
  (List.range k.count).filterMap fun i => mapFind ((k.newest + retain + i + 1 - k.count) % retain) k.recs

/-! ## Resolving (R77, R78) -/

/-- What a strata load answers at its key's home. -/
inductive Resolved where
  | value (status : Nat) (v : Vec)
  | refuse (status : Nat)
  | upcall (code : CauseCode) (sub : Nat)
  | waits
  deriving DecidableEq, Repr, Inhabited

/-- The number format of a region's elements, and its bytes. -/
def StrataFmt.ffmt : StrataFmt → FFmt × Nat
  | .f32 | .s32 => (fmtF32, 4)
  | .bf16 => (fmtBF16, 2)
  | .f16 => (fmtF16, 2)

/-- FROM at one element: FMA(w, FP32_RNE(b − a), a), rounded to the region's format (R78). -/
def fromElem (f : FFmt) (w : FVal) (a b : Nat) : Nat :=
  let va := fdecode f a
  let d := (rne32 (fsub (fdecode f b) va)).1
  (frne f (rne32 (ffma w d va))).1

/-- FROM over a payload of `p` bytes (R78). -/
def fromPayload (f : StrataFmt) (p : Nat) (w : FVal) (a b : Vec) : Vec :=
  let (ff, e) := f.ffmt
  let n := p / e
  let xs := (lanesFrom (8 * e) a.toNat n).zip (lanesFrom (8 * e) b.toNat n)
  vecOf (8 * e) (xs.map fun (x, y) => fromElem ff w x y)

/-- The weight FP32_RNE(n / d) (R77). -/
def strataWeight (n d : Nat) : FVal := fdecode fmtF32 (fdiv fmtF32 (fofInt n) (fofInt d)).1

/-- The value between or beyond two states by the LINEAR formula. -/
def Region.blend (r : Region) (t : Nat) (a b : Nat × Vec) : Vec :=
  fromPayload r.format r.payload (strataWeight (t - a.1) (b.1 - a.1)) a.2 b.2

/-- EXTEND(t): the newest payload, or in LINEAR mode the extension of the two newest states (R77). -/
def Region.extend (r : Region) (k : Key) (t : Nat) : Vec :=
  match (k.states r.retain).reverse with
  | [] => 0
  | [b] => b.2
  | b :: a :: _ => if r.mode = .linear then r.blend t a b else b.2

/-- The value at a time between two states (R77). -/
def Region.between (r : Region) (t : Nat) (a b : Nat × Vec) : Vec :=
  match r.mode with
  | .linear => r.blend t a b
  | .hold => a.2
  | .nearest => if t - a.1 ≤ b.1 - t then a.2 else b.2

/-- The states that bracket a time: the last below it and the first not below it. -/
def bracket (t : Nat) : List (Nat × Vec) → Option ((Nat × Vec) × (Nat × Vec))
  | a :: b :: rest => if t < b.1 then some (a, b) else bracket t (b :: rest)
  | _ => none

/-- A strata load resolved against its key (R77). -/
def Region.resolve (r : Region) (k : Key) (t : Nat) (ldtn : Bool) : Resolved :=
  let closed := if ldtn then Resolved.refuse 5 else .upcall .strataAhead 1
  let wait := if ldtn then Resolved.refuse 4 else .waits
  match k.states r.retain with
  | [] => if k.st = .open_ then wait else closed
  | o :: rest =>
    let h := (o :: rest).getLast (by simp)
    if t < o.1 then .upcall .strataBehind 0
    else match (o :: rest).find? fun x => x.1 == t with
      | some x => .value 0 x.2
      | none =>
        if t < h.1 then
          match bracket t (o :: rest) with
          | some (a, b) => .value 1 (r.between t a b)
          | none => .waits
        else if t ≤ h.1 + r.extrap then .value 2 (r.extend k t)
        else if k.st = .closed then closed
        else if t ≤ h.1 + r.reach then wait
        else .upcall .strataAhead 0

/-! ## Waiting loads (R79 to R84) -/

/-- A core's wait record: its key and requested time, and whether a home holds it in its wait table (R80). -/
structure WaitRec where
  who : CoreId
  key : KeyId
  t   : Nat
  inTable : Bool
  deriving DecidableEq, Repr, Inhabited

/-- The wait record of a core. -/
def Core.waitRec (c : Core) : Option WaitRec :=
  match c.task.wait with
  | .strata key t _ _ b _ _ => some { who := c.id, key := key, t := t, inTable := b }
  | _ => none

/-- Wait records in rising requested time, then rising logical id (R76). -/
def insertRec (x : WaitRec) : List WaitRec → List WaitRec
  | [] => [x]
  | y :: ys => if x.t < y.t ∨ (x.t = y.t ∧ x.who.lid ≤ y.who.lid) then x :: y :: ys else y :: insertRec x ys

/-- The loads that wait on a key, in the order in which they end. -/
def State.waitRecs (s : State) (key : KeyId) : List WaitRec :=
  ((s.cores.filterMap Core.waitRec).filter fun w => w.key == key).foldr insertRec []

/-- A use of a key as a whole slot, checked against its stamp (R398): the state with the stamp recorded. -/
def stampKey (p : Word) (id : KeyId) (k : Key) (u : StampUse) (s : State) : Try State :=
  (stampUses s.task s.core.id.lid p [u] k.stamp).bind fun st => .ok (s.setKey id fun k => { k with stamp := st })

/-- A load of the current core resolves: value and status are written (R21, R22). -/
def strataValue (v st : Reg) (status : Nat) (val : Vec) (s : State) : State :=
  adv ((s.wv v val).wx st (BitVec.ofNat 64 status))

/-- A waiting load of the current core resolves: it counts as performed now, and takes DET_CONFLICT where its stamp conflicts, and MEM_UE
where its slot cannot be read (R184, R367, R398; DESIGN CHOICE, assumption log 97). -/
def waitValue (id : KeyId) (v st : Reg) (status : Nat) (val : Vec) (s : State) : State :=
  match s.keyAt id with
  | none => s
  | some (r, k) =>
    match stampKey (BitVec.ofNat 64 (r.keyAddr id.k)) id k .read s with
    | .cause c => raise c s
    | .ok s' => if s.slotUe r id.k then raise (memUe (BitVec.ofNat 64 (r.keyAddr id.k))) s else strataValue v st status val s'
    | .wait _ => s

/-- A strata cause at a key (R88, R89). -/
def strataCause (code : CauseCode) (sub : Nat) (addr : Nat) : Cause := { code := code, sub := sub, addr := BitVec.ofNat 64 addr }

/-- A load of the current core that waits on the key ends with a cause. -/
def endLoad (code : CauseCode) (sub : Nat) (addr : Nat) (s : State) : State := raise (strataCause code sub addr) s

/-- A waiting load resolves anew against its key, as a load issued just now (R26). -/
def reResolve (s : State) : State :=
  match s.task.wait with
  | .strata id t v st _ _ _ =>
    match s.keyAt id with
    | none => s
    | some (r, k) =>
      match r.resolve k t false with
      | .value status x => waitValue id v st status x s
      | .upcall code sub => endLoad code sub (r.keyAddr id.k) s
      | _ => s
  | _ => s

/-- Every load that waits on the key at its home ends with STRATA_AHEAD (R84). One in backoff is not there, and its retry meets the key as it
then is (R81, R86). -/
def endLoads (id : KeyId) (sub : Nat) (s : State) : State :=
  let addr := match s.keyAt id with
    | some (r, _) => r.keyAddr id.k
    | none => 0
  onCores (endLoad .strataAhead sub addr) (((s.waitRecs id).filter (·.inTable)).map (·.who)) s

/-- The key closes; every load that waits on it upcalls CLOSED (R84). -/
def closeKey (id : KeyId) (s : State) : State :=
  endLoads id 1 (s.modKey id fun k => { k with st := .closed })

/-- A state stored at the key's home, and the loads that it covers (R75, R76). -/
def storeState (id : KeyId) (t : Nat) (val : Vec) (s : State) : State :=
  match s.keyAt id with
  | none => s
  | some (r, k) =>
    let n := if k.count = 0 then 0 else (k.newest + 1) % r.retain
    let val := BitVec.ofNat 512 (val.toNat % 2 ^ (8 * r.payload))
    let s := s.putKey id (some n) fun k =>
      { k with newest := n, count := min (k.count + 1) r.retain, recs := mapPut n (t, val) k.recs }
    let covered := (s.waitRecs id).filter fun w => w.inTable && decide (w.t ≤ t + r.extrap)
    onCores reResolve (covered.map (·.who)) s

/-! ## The causality rule (R85 to R87) -/

/-- The walk from the writer of the key just named: the members of the cycle that closes at core `c0`, if one
does within `n` hops. -/
def walk (s : State) (c0 : CoreId) : Nat → KeyId → List WaitRec → Option (List WaitRec)
  | 0, _, _ => none
  | n + 1, key, members =>
    match s.keyAt key with
    | none => none
    | some (_, k) =>
      match k.owner with
      | .core w =>
        if w = c0.lid then some members
        else match (s.findCore { tenant := c0.tenant, lid := w }).bind Core.waitRec with
          | none => none
          | some m => walk s c0 n m.key (members ++ [m])
      | _ => none

/-- The member that a cycle releases: the least time, then the lower id (R85). -/
def leastRec : List WaitRec → Option WaitRec
  | ms => (ms.foldr insertRec []).head?

/-- The entries of the wait table of a key's home (R81). -/
def State.tableSize (s : State) (home : CoreId) : Nat :=
  ((s.cores.filterMap Core.waitRec).filter fun w => w.inTable && match mapFind w.key.rid s.regions with
    | some r => r.homeOf w.key.k == home
    | none => false).length

/-- The load waits: in the wait table, or in backoff when the table is full (R80 to R82). -/
def strataWait (id : KeyId) (home : CoreId) (t : Nat) (v st : Reg) (delay : Nat) (s : State) : State :=
  let room := decide (s.tableSize home < 1024)
  waitAs (.strata id t v st room (if room then 0 else if delay = 0 then 64 else min (2 * delay) 4096) s.now) s

/-- A member of a cycle is released: EXTEND with status CAUSAL, or CYCLE_EMPTY (R85). -/
def causal (id : KeyId) (t : Nat) (v st : Reg) (s : State) : State :=
  match s.keyAt id with
  | none => s
  | some (r, k) =>
    if k.count = 0 then endLoad .strataAhead 3 (r.keyAddr id.k) s else waitValue id v st 3 (r.extend k t) s

/-- A load that must wait: the walk first, then the wait table (R82, R85). -/
def walkOrWait (id : KeyId) (home : CoreId) (t : Nat) (v st : Reg) (delay : Nat) (s : State) : State :=
  match (walk s s.core.id 8 id [{ who := s.core.id, key := id, t := t, inTable := false }]).bind leastRec with
  | none => strataWait id home t v st delay s
  | some m =>
    if m.who = s.core.id then causal id t v st s
    else strataWait id home t v st delay { s with net := s.net ++ [Msg.release m.who m.key m.t] }

/-! ## The instructions (R73, R74, R202, R203) -/

/-- The key that an instruction names: the checks of R184 and R73, by which every other pointer, a seam pointer too, raises PROTECT. -/
def strataKey (s : State) (p : Word) : Try KeyId :=
  if !ptrOk p then .cause (protect 0 p)
  else if pSpace p ≠ 0 then .cause (protect 0 p)
  else if 2 ^ 48 ≤ p.toNat then .cause (protect 4 p)
  else (xlate s p.toNat p).bind fun leaf =>
    if leaf.kind ≠ .strata then .cause (protect 2 p)
    else match findKey s.core.id.tenant p.toNat s.regions with
      | none => .cause (protect 4 p)
      | some id => .ok id

/-- Is the current core the key's writer? -/
def Key.ownedBy (k : Key) (lid : Nat) : Bool := k.owner == .core lid

/-- A strata instruction on the key it names, in its turn at the key's home (R72); `f` sees the region and the key, with the key's checks to
make. A slot that cannot be read gives none to check (R184, R356; DESIGN CHOICE, assumption log 97). -/
def onKey (a : Reg) (f : KeyId → Region → Key → State → Try State) (s : State) : State :=
  let p := s.rx a
  settle ((strataKey s p).bind fun id =>
    match s.keyAt id with
    | none => .cause (protect 4 p)
    | some (r, k) =>
      if s.homeLate r id.k s.core.id.lid then .wait .stall
      else match s.slotLacks r id.k with
      | some l => .wait (.home l .home true)
      | none =>
      if r.released ∨ k.st = .retiring then .cause (protect 4 p)
      else if s.slotUe r id.k then .cause (memUe p)
      else f id r k (s.noteHome r id.k s.core.id.lid)) s

/-- TOWN (R74). -/
def town (a : Reg) (s : State) : State :=
  onKey a (fun id _ k s =>
    let me := s.core.id.lid
    if k.ownedBy me then (stampKey (s.rx a) id k .write s).bind fun s => .ok (adv s)
    else if k.owner = .none ∧ k.st = .open_ then
      (stampKey (s.rx a) id k .write s).bind fun s => .ok (adv (s.modKey id fun k => { k with owner := .core me }))
    else .cause (protect 4 (s.rx a))) s

/-- TOWN (R74). -/
def execTown (a : Reg) (s : State) : Out := .next (town a s)

/-- STT (R74, R75): the checks of R74 come before that of the stamp (R398; DESIGN CHOICE, assumption log 97). -/
def stt (v a t : Reg) (s : State) : State :=
  onKey a (fun id r k s =>
    let time := (s.rx t).toNat
    let newest := ((k.states r.retain).map (·.1)).getLast?
    if !k.ownedBy s.core.id.lid then .cause (protect 4 (s.rx a))
    else if k.st = .closed then .cause (strataCause .strataOrder 1 (r.keyAddr id.k))
    else if (match newest with | some h => decide (time ≤ h) | none => false) then
      .cause (strataCause .strataOrder 0 (r.keyAddr id.k))
    else (stampKey (s.rx a) id k .write s).bind fun s' => .ok (adv (storeState id time (s.rv v) s'))) s

/-- STT (R75). -/
def execStt (v a t : Reg) (s : State) : Out := .next (stt v a t s)

/-- TCLOSE (R74, R84). -/
def tclose (a : Reg) (s : State) : State :=
  onKey a (fun id _ k s =>
    if !k.ownedBy s.core.id.lid then .cause (protect 4 (s.rx a))
    else (stampKey (s.rx a) id k .write s).bind fun s =>
      .ok (adv (if k.st = .open_ then closeKey id s else s))) s

/-- TCLOSE (R74). -/
def execTclose (a : Reg) (s : State) : Out := .next (tclose a s)

/-- A strata load at its home: it resolves, refuses, upcalls or waits (R77, R79 to R82). One that resolves or refuses is performed and
checked against the key's stamp; an upcall comes first, and one that waits is performed later (R398; DESIGN CHOICE, assumption log 97). -/
def performLoad (ldtn : Bool) (id : KeyId) (r : Region) (k : Key) (t : Nat) (v st : Reg) (delay : Nat) (s : State) :
    Try State :=
  let performed (f : State → State) : Try State :=
    (stampKey (BitVec.ofNat 64 (r.keyAddr id.k)) id k .read s).bind fun s => .ok (f s)
  match r.resolve k t ldtn with
  | .value status x => performed (strataValue v st status x)
  | .refuse status => performed (setX st (BitVec.ofNat 64 status))
  | .upcall code sub => .cause (strataCause code sub (r.keyAddr id.k))
  | .waits => .ok (walkOrWait id (r.homeOf id.k) t v st delay s)

/-- LDT (R77). -/
def execLdt (v a t st : Reg) (s : State) : Out :=
  .next (onKey a (fun id r k s => performLoad false id r k (s.rx t).toNat v st 0 s) s)

/-- LDTN (R77). -/
def execLdtn (v a t st : Reg) (s : State) : Out :=
  .next (onKey a (fun id r k s => performLoad true id r k (s.rx t).toNat v st 0 s) s)

/-! ## Happenings -/

/-- CAUSALITY_RELEASE: a release reaches a member's home; a load that no longer waits there is unaffected (R86). -/
def causalityRelease (n : Nat) (s : State) : State :=
  match s.take n with
  | some (.release who key t, s') =>
    match (s.keyAt key).bind fun x => s.slotLacks x.1 key.k with
    | some l => askFor l .home true s
    | none =>
      onCore who (fun s =>
        match s.task.wait with
        | .strata key' t' v st true _ _ => if key' = key ∧ t' = t then causal key t v st s else s
        | _ => s) s'
  | _ => s

/-- CAUSALITY_RELEASE (R86). -/
def execCausalityRelease (n : Nat) (s : State) : Out := .next (causalityRelease n s)

/-- STRATA_BACKOFF: a load refused by a full wait table is performed afresh, once its delay is over, in its turn at the home (R72, R81, R82,
R370). Where its region has given way to another declaration, the core issues it anew. -/
def strataBackoff (s : State) : State :=
  match s.task.wait with
  | .strata id t v st false delay since =>
    if s.now < since + delay then s else
    match s.keyAt id with
    | none => waitAs .none s
    | some (r, k) =>
      if s.homeLate r id.k s.core.id.lid then s
      else atSlots r [id.k] (fun s =>
        if r.released ∨ k.st = .retiring then raise (protect 4 (BitVec.ofNat 64 (r.keyAddr id.k))) s
        else if s.slotUe r id.k then raise (memUe (BitVec.ofNat 64 (r.keyAddr id.k))) s
        else settle (performLoad false id r k t v st delay (s.noteHome r id.k s.core.id.lid)) s) s
  | _ => s

/-- STRATA_BACKOFF (R81). -/
def execStrataBackoff (c : CoreId) (s : State) : Out := .next (onCore c strataBackoff s)

/-- REGION_RELEASE: the keys of a region retire and the loads that wait on them end; with no load left, its slots are free, and a later
declaration may take its addresses (R74, R84; assumption log 98). The supervisor unbinds every stream first (R94). -/
def regionRelease (rid : Nat) (s : State) : State :=
  match mapFind rid s.regions with
  | none => s
  | some r =>
    if r.released ∨ s.streams.any fun (_, st) => match st.key with
        | some (id, _) => id.rid == rid
        | none => false
    then s
    else atSlots r (List.range r.nkeys) (fun s =>
      let ws := ((s.cores.filterMap Core.waitRec).filter fun w => w.key.rid == rid && w.inTable).foldr insertRec []
      let s := ws.foldl (fun s w => onCore w.who (endLoad .strataAhead 2 (r.keyAddr w.key.k)) s) s
      let s := { s with regions := mapPut rid { r with released := true } s.regions }
      (List.range r.nkeys).foldl (fun s k => s.modKey { rid := rid, k := k } fun k => { k with st := .retiring }) s) s

/-- REGION_RELEASE (R74). -/
def execRegionRelease (rid : Nat) (s : State) : Out := .next (regionRelease rid s)

end Sys2Proof.Machine
end

