-- ==== Sys2Proof/Machine/Paging.lean ====
section
/-!
DEFINITION. What the supervisor does to page tables (R357 to R362, R364) and to the memory of a tenant: entries and
tables written into every package's replica, pages mapped, bytes read and written through a tenant's tables, and regions
declared (R66, R67, R69, R142, R148).
-/
namespace Sys2Proof.Machine

/-! ## What the service writes (R348) -/

/-- The keys at which two memories differ; `n` bounds how many pairs are compared. -/
def diffKeys : Nat → Map Byte → Map Byte → List Nat
  | 0, _, _ => []
  | _ + 1, [], bs => bs.map (·.1)
  | _ + 1, as, [] => as.map (·.1)
  | n + 1, (k, v) :: as, (l, w) :: bs =>
    if k = l then (if v = w then diffKeys n as bs else k :: diffKeys n as bs)
    else if k < l then k :: diffKeys n as ((l, w) :: bs) else l :: diffKeys n ((k, v) :: as) bs

/-- The lines in which two memories differ. -/
def changedLines (a b : Map Byte) : List Line :=
  (diffKeys (a.length + b.length) a b).map fun k => { pkg := k / 2 ^ 52, idx := k % 2 ^ 52 / 64 }

/-- The holder through which a package's service asks for tokens: that of its supervisor cores (assumption log 7). -/
def State.serviceHolder (s : State) (pkg : Nat) : Holder := s.holderAt { pkg := pkg, unit := 12 }

/-- The service of a package may write a line: its 16 tokens rest at the memory home or are with the service's holder, and no access, lease, pin or
recreation is there before it (R115, R188, R323, R348, R355; DESIGN CHOICE, assumption log 7). -/
def State.serviceHas (s : State) (pkg : Nat) (l : Line) : Bool :=
  let ls := s.line l
  (ls.homeCount == 16 || (ls.at_ (s.serviceHolder pkg)).count == 16) && ls.pins.isEmpty && (s.leaseOf l).isNone && (s.waiting l).isEmpty
    && ls.collecting.isNone

/-- What the service of a package does where it has the lines that it writes; it asks for those that it lacks, and does nothing yet (R348). -/
def guarded (pkg : Nat) (f : State → State) (s : State) : State :=
  let t := f s
  let lacking := (changedLines s.mem t.mem).filter fun l => !s.serviceHas pkg l
  if lacking.isEmpty then t
  else lacking.foldl (fun s l => if ((s.line l).gatherWrite (s.serviceHolder pkg)).isNone then askFor l (s.serviceHolder pkg) true s else s) s

/-- What the service of a core's package does, where it has the lines that it writes. -/
def guardedFor (c : CoreId) (f : State → State) (s : State) : State := guarded (((s.findCore c).map (·.place.pkg)).getD 0) f s

/-- A request of the service that touches tenants' memory: it waits while a page moves, and has the lines that it writes (R348, R365; DESIGN
CHOICE, assumption log 7). -/
def onStill (pkg : Nat) (f : State → State) (s : State) : State := if s.moving.isEmpty then guarded pkg f s else s

/-! ## Entries and tables -/

/-- The kind code of R359. -/
def PageKind.num : PageKind → Nat
  | .priv => 0 | .readonly => 1 | .shared => 2 | .nearmem => 3 | .strata => 4 | .readdup => 5

/-- A leaf as an entry (R359). -/
def Leaf.entry (l : Leaf) : Nat :=
  let b (x : Bool) (n : Nat) : Nat := if x then 2 ^ n else 0
  2 ^ 63 + l.kind.num * 2 ^ 60 + b l.tier 59 + 2 ^ 58 + b l.x 57 + b l.w 56 + l.pkg % 4 * 2 ^ 54 + l.addr % 2 ^ 52

/-- The entry of a table (R359), or of a root (R357). -/
def tableEntry (pkg addr : Nat) : Nat := 2 ^ 63 + pkg % 4 * 2 ^ 54 + addr % 2 ^ 52

/-- Bytes of one line written by the service (assumption log 7); a whole line is poisoned no more (R356). -/
def serviceWrite (pkg pa : Nat) (bs : List Byte) (s : State) : State := applyStore pkg pa { bytes := bs } s

/-- An entry of a table written by the supervisor's software, as by a strong store at domain scope (R364). -/
def State.putD (s : State) (pkg pa v : Nat) : State := serviceWrite pkg pa (bytesOf v 8) s

/-- The table that the entry at an address names: where there is none, a cleared one of `size` bytes is taken from the
address `free` on, at its own alignment. The answer is its package and address, what is free after it, and the state. -/
def ensureTable (pkg at_ size free : Nat) (s : State) : Nat × Nat × Nat × State :=
  let e := s.physD pkg at_
  if e.testBit 63 then (bitsAt e 54 2, e % 2 ^ 52, free, s)
  else
    let a := (free + size - 1) / size * size
    (pkg, a, a + size, (s.zeroPhys pkg a size).putD pkg at_ (tableEntry pkg a))

/-- The address of an ASID's root entry in a package (R357). -/
def State.rootAt (s : State) (pkg asid : Nat) : Nat := (s.pkg pkg).asidTable + 8 * asid

/-- An entry written at a level of one package's replica of an ASID's tables: what is free after it, and the state. -/
def putEntry (pkg asid level va e free : Nat) (s : State) : Nat × State :=
  let (p1, t1, free, s) := ensureTable pkg (s.rootAt pkg asid) (2 ^ 21) free s
  let at1 := t1 + 8 * levelIndex 1 va
  if level = 1 then (free, s.putD p1 at1 e)
  else
    let (p2, t2, free, s) := ensureTable p1 at1 4096 free s
    let at2 := t2 + 8 * levelIndex 2 va
    if level = 2 then (free, s.putD p2 at2 e)
    else
      let (p3, t3, free, s) := ensureTable p2 at2 256 free s
      (free, s.putD p3 (t3 + 8 * levelIndex 3 va) e)

/-- The level at which a page of a size has its leaf (R358). -/
def levelOfSize (size : Nat) : Nat := if size = 2 ^ 30 then 1 else if size = 2 ^ 21 then 2 else 3

/-- A leaf as package `p` holds it: of a READDUP page, its own frame (R362). -/
def Leaf.onPkg (l : Leaf) (p : Nat) : Leaf := if l.kind = .readdup then { l with pkg := p } else l

/-- Pages mapped in one package's replica: `n` of them from `va` on, with consecutive frames. -/
def mapIn (p asid va n free : Nat) (l : Leaf) (s : State) : State :=
  ((List.range n).foldl (fun r (i : Nat) =>
    let l' : Leaf := { l.onPkg p with addr := l.addr + i * l.size }
    putEntry p asid (levelOfSize l.size) (va + i * l.size) l'.entry r.1 r.2) (free, s)).2

/-- Pages mapped in every replica (R362), with new tables taken from `free` on in each package. -/
def mapPages (asid va n free : Nat) (l : Leaf) (s : State) : State := s.packages.foldl (fun s p => mapIn p asid va n free l s) s

/-! ## A tenant's memory -/

/-- The translation of an address under an ASID on a package, by a walk (R358). -/
def State.walkOn (s : State) (pkg asid va : Nat) : Xl := walkSoft s (s.physD pkg (s.rootAt pkg asid)) va

/-- Does no package map an address of the tenant? -/
def State.unmapped (s : State) (asid va : Nat) : Bool :=
  s.packages.all fun p => match s.walkOn p asid va with
    | .fault => true
    | _ => false

/-- The package on which the resident service acts for a tenant: that of its first bench. -/
def State.servicePkg (s : State) (tenant : Nat) : Nat := s.benchPkg { tenant := tenant, bench := 0 }

/-- A tenant's leaf for an address. -/
def State.leafOf (s : State) (tenant va : Nat) : Option Leaf :=
  match s.walkOn (s.servicePkg tenant) (s.tenant tenant).asid va with
  | .leaf l => some l
  | _ => none

/-- Bytes of a tenant's memory read piece by piece; `none` where a page is absent or a line is poisoned (R356). -/
def readPieces (tenant : Nat) : List (Nat × Nat) → State → Option (List Byte)
  | [], _ => some []
  | (a, n) :: rest, s =>
    match s.leafOf tenant a, readPieces tenant rest s with
    | some l, some more => if (s.line (lineOf l.pkg (l.pa a))).poison then none else some (s.readPhys l.pkg (l.pa a) n ++ more)
    | _, _ => none

/-- Bytes written to a tenant's memory piece by piece. A piece whose page is absent is not written. -/
def writePieces (tenant : Nat) : List (Nat × Nat) → List Byte → State → State
  | [], _, s => s
  | (a, n) :: rest, bs, s =>
    let s := match s.leafOf tenant a with
      | some l => serviceWrite l.pkg (l.pa a) (bs.take n) s
      | none => s
    writePieces tenant rest (bs.drop n) s

/-- Bytes written to a tenant's memory. -/
def writeVa (tenant va : Nat) (bs : List Byte) (s : State) : State := writePieces tenant (pieces va bs.length) bs s

/-! ## Regions (R66, R67, R142, R148) -/

/-- The page size of a request (R148). -/
def pageBytes : Nat → Nat
  | 0 => 2 ^ 16 | 1 => 2 ^ 21 | _ => 2 ^ 30

/-- The element format of a request (R148). -/
def strataFmtOf : Nat → StrataFmt
  | 0 => .f32 | 1 => .bf16 | 2 => .f16 | _ => .s32

/-- The mode of a request (R148). -/
def strataModeOf : Nat → StrataMode
  | 0 => .linear | 1 => .hold | _ => .nearest

/-- A request obeys R66 and R148. One of another kind than STRATA with a size of 0 is refused (DESIGN CHOICE, assumption log 106). -/
def requestOk (r : RegionReq) : Bool :=
  decide (r.kind ≤ 5) && decide (r.page ≤ 2) && decide (r.tier ≤ 1) && ((r.kind != 3 && r.kind != 4) || (r.page == 0 && r.tier == 0)) &&
  (if r.kind = 4 then
    decide (r.format ≤ 3) && [4, 8, 16, 32, 64].contains r.payload && decide (1 ≤ r.retain) && decide (r.retain ≤ 16) && decide (r.mode ≤ 2)
      && r.size == 0 && decide (r.extrap < 2 ^ 63) && decide (r.extrap ≤ r.reach) && decide (r.reach < 2 ^ 63) && decide (1 ≤ r.keys)
      && decide (r.keys ≤ 2 ^ 24) && (r.format != 3 || r.mode == 1)
  else
    r.format == 0 && r.payload == 0 && r.retain == 0 && r.mode == 0 && r.extrap == 0 && r.reach == 0 && r.keys == 0
      && r.size != 0 && r.size % pageBytes r.page == 0)

/-- The region that a request declares at a base, its strata home being a quarry core of the frame's package (R67, R69,
R72). -/
def requestRegion (r : RegionReq) (tenant : Nat) (g : Grant) : Region :=
  let bare : Region :=
    { tenant := tenant, kind := (pageKindOf r.kind).getD .priv, base := g.base, size := r.size, page := pageBytes r.page, tier := r.tier
      format := strataFmtOf r.format, payload := r.payload, retain := r.retain, mode := strataModeOf r.mode, extrap := r.extrap
      reach := r.reach, nkeys := r.keys, home := { tenant := 0, lid := 0xF000 + 192 * g.pkg + g.quarry }, homes := [], keys := [], released := false }
  if r.kind = 4 then { bare with size := (r.keys * bare.slot + 65535) / 65536 * 65536 } else bare

/-- The leaf of a region's first page (R360). -/
def Region.leaf (r : Region) (g : Grant) : Leaf :=
  let w := match r.kind with
    | .priv | .shared | .nearmem => true
    | _ => false
  { kind := r.kind, tier := r.tier == 1, x := false, w := w, pkg := g.pkg, addr := g.frame, size := r.page }

/-- No store or reduction that a translation of the address range gave waits at its home: what was translated has been performed or parked
(R180, R364). -/
def State.shotClear (s : State) (asid va size : Nat) : Bool :=
  !s.lines.any fun (_, ls) => ls.queue.any fun e =>
    !e.again && (s.tenant e.who.tenant).asid == asid && decide (va ≤ pAddr e.ptr) && decide (pAddr e.ptr < va + size)

/-- A page whose region has been released, and to which no store is on its way: its slots are free, and it may be declared again (R74,
R364). -/
def State.freedPage (s : State) (tenant va : Nat) : Bool :=
  (s.regions.any fun (_, r) => r.released && r.tenant == tenant && decide (r.base ≤ va) && decide (va < r.base + r.size))
    && s.shotClear (s.tenant tenant).asid va 65536

/-- NEARMEM and STRATA pages take quarry-local frames: the quarry core is one beside the stack of the frame (R72, R320). -/
def quarryFits (k : PageKind) (frame size quarry : Nat) : Bool :=
  (k != .nearmem && k != .strata) || (frame / 2 ^ 36 == quarry / 24 && (frame + size - 1) / 2 ^ 36 == quarry / 24)

/-- The supervisor can grant a region as chosen: aligned, inside the address space and the memory, its frames beside its quarry core, its
pages not yet mapped (R67, R320, R360), and not over the page of the end-of-task address (R33). -/
def grantOk (s : State) (asid : Nat) (r : Region) (g : Grant) : Bool :=
  let l := r.leaf g
  g.base % r.page == 0 && g.frame % r.page == 0 && decide (g.base + r.size ≤ 2 ^ 48 - 65536) && s.packages.contains g.pkg
    && decide (g.quarry < 192) && inTier l.tier g.frame && inTier l.tier (g.frame + r.size - 1)
    && quarryFits r.kind g.frame r.size g.quarry
    && (List.range (r.size / 65536)).all fun (i : Nat) =>
      s.unmapped asid (g.base + 65536 * i) || s.freedPage r.tenant (g.base + 65536 * i)

/-- Two regions that one request declares. -/
def Region.alike (a b : Region) : Bool :=
  a.tenant == b.tenant && a.kind == b.kind && a.base == b.base && a.size == b.size && a.page == b.page && a.tier == b.tier
    && a.format == b.format && a.payload == b.payload && a.retain == b.retain && a.mode == b.mode && a.extrap == b.extrap
    && a.reach == b.reach && a.nkeys == b.nkeys

/-- The bytes that a tenant's regions take (R142). -/
def State.granted (s : State) (tenant : Nat) : Nat := ((s.regions.filter fun (_, r) => r.tenant == tenant && !r.released).map fun (_, r) => r.size).sum

/-- The frames of NEARMEM and STRATA pages are quarry-local, and those that the supervisor allocates for other pages are stack-spread (R320).
-/
def noteLocal (k : PageKind) (pkg frame size quarry : Nat) (s : State) : State :=
  let a := memKey pkg frame
  let rest := s.locals.filter fun r => !(decide (a ≤ r.1) && decide (r.1 + r.2.1 ≤ a + size))
  { s with locals := if k = .nearmem ∨ k = .strata then (a, size, quarry) :: rest else rest }

/-- Two regions of a tenant share an address. -/
def Region.meets (a b : Region) : Bool := a.tenant == b.tenant && decide (a.base < b.base + b.size) && decide (b.base < a.base + a.size)

/-! ## Frames -/

/-- The line of a key lies in a frame. -/
def inFrame (pkg addr size key : Nat) : Bool :=
  key / 2 ^ 46 == pkg && decide (addr ≤ key % 2 ^ 46 * 64) && decide (key % 2 ^ 46 * 64 < addr + size)

/-- The lines of a frame of which the domain keeps anything. -/
def State.frameLines (s : State) (pkg addr size : Nat) : List (Line × LineState) :=
  (s.lines.filter fun (k, _) => inFrame pkg addr size k).map fun (k, ls) => ({ pkg := k / 2 ^ 46, idx := k % 2 ^ 46 }, ls)

/-- The lines of a frame leave every L2 set. -/
def dropWays (pkg addr size : Nat) (s : State) : State :=
  { s with l2 := s.l2.filterMap fun (k, set) =>
      let set' := set.filter fun w => !inFrame pkg addr size (lineKey w.line)
      if set'.isEmpty then none else some (k, set') }

/-- A frame's lines written out of every L2 slice, as CACHEINV l2 does (R181, R364). -/
def purgeFrame (pkg addr size : Nat) (s : State) : State :=
  (s.frameLines pkg addr size).foldl (fun s r => r.2.others.foldl (fun s t => sendAll r.1 t.holder .home s) s) (dropWays pkg addr size s)

/-- The frames that the tables map at the pages of an address range written out of the L2 slices, before they are used again (R364). -/
def purgeOld (tenant base n : Nat) (s : State) : State :=
  (List.range n).foldl (fun s i => match s.leafOf tenant (base + 65536 * i) with
    | some l => purgeFrame l.pkg (l.pa (base + 65536 * i)) 65536 s
    | none => s) s

/-- The declaration of a region takes the place of released ones, whose translations are shot down and whose frames leave the L2s (R364);
NEARMEM and STRATA frames are noted as quarry-local (R320), and the key slots of a STRATA region are as the declaration writes them (R70,
R74). -/
def placeRegion (r : Region) (g : Grant) (s : State) : State :=
  let asid := (s.tenant r.tenant).asid
  let s := { purgeOld r.tenant r.base (r.size / 65536) s with regions := s.regions.filter fun (_, x) => !(x.released && x.meets r) }
  let s := dropTranslations (fun _ => true) (fun e => e.asid == asid && decide (e.va < r.base + r.size) && decide (r.base < e.va + e.leaf.size))
    (fun l => l.asid == asid && decide (r.base ≤ l.tag * 64) && decide (l.tag * 64 < r.base + r.size)) s
  let s := mapPages asid g.base (r.size / r.page) g.tables (r.leaf g) s
  let s := noteLocal r.kind g.pkg g.frame r.size g.quarry s
  if r.kind = .strata then
    (List.range r.nkeys).foldl (fun s k => s.writePhys g.pkg (g.frame + k * r.slot) (bytesOf (({} : Key).control r.tenant) 8))
      (s.zeroPhys g.pkg g.frame r.size)
  else s

/-- A region declared and mapped; `none` where the supervisor refuses it: it breaks R66, or exceeds the tenant's memory (R142). The
grant may name a region that stands already for a like request (assumption log 32). -/
def declareRegion (tenant : Nat) (q : RegionReq) (g : Grant) (s : State) : Option (Region × State) :=
  let asid := (s.tenant tenant).asid
  let r := requestRegion q tenant g
  if !requestOk q then none
  else match s.regions.find? fun (_, x) => !x.released && x.alike r with
    | some (_, x) => some (x, s)
    | none =>
      if grantOk s asid r g && decide (s.granted tenant + r.size ≤ (s.tenant tenant).memory) then
        let s := placeRegion r g s
        some (r, { s with regions := mapPut s.serial r s.regions, serial := s.serial + 1 })
      else none

end Sys2Proof.Machine
end

