-- ==== Sys2Proof/Machine/Remote.lean ====
section
/-!
DEFINITION. Happenings at a core (R191, R273, R288, R310 to R313, R332, R343, R378, R379): accesses that reach a remote
scratchpad, merge steps, asynchronous causes and completion interrupts, parked stores replayed, and page notices.
-/
namespace Sys2Proof.Machine

/-! ## REMOTE_SCRATCHPAD_ACCESS (R310, R311, R313) -/

/-- An access of a remote scratchpad at its owner: the state after it and the bytes read. -/
def remoteNow (p : Word) (n : Nat) (store : Option (List Byte)) (owner : Nat) (s : State) : Try (State × List Byte) :=
  let o := pAddr p % 2 ^ 17
  (remoteCheck s p owner o n store.isSome).bind fun k =>
    match store with
    | none =>
      if s.scratchBusy k.id (pSpan p) o n then .wait .remote
      else if spUe k.task (pSpan p) o n then .cause (memUe p)
      else .ok (admitPeer k false s, spRead k.task (pSpan p) o n)
    | some bs =>
      if k.task.lineLate s.now s.core.id.lid then .wait .remote
      else if spSpoils k.task (pSpan p) o bs.length false then .cause (memUe p)
      else .ok (arrival s.task.launch k.id (markSent k (admitPeer k true (modTaskOf k.id (spStore (pSpan p) o { bytes := bs }) s))), [])

/-- REMOTE_SCRATCHPAD_ACCESS: while the owner is away the access stays where it is (R313). -/
def remoteAccess (n : Nat) (s : State) : State :=
  match s.take n with
  | some (.remote sender owner p size store dst acq, s1) =>
    let here := s.core.id
    let s2 := switchTo sender s1
    if s2.core.id ≠ sender ∨ s2.task.wait ≠ .remote then s1
    else
      match remoteNow p size store owner s2 with
      | .wait _ => s
      | .cause c => switchTo here (raise c s2)
      | .ok (s3, bs) =>
        let s4 := if store.isSome then s3 else s3.modTask (dst.put bs)
        switchTo here (adv (if acq then acquire s4 else s4))
  | _ => s

/-- REMOTE_SCRATCHPAD_ACCESS (R310). -/
def execRemoteScratchpadAccess (n : Nat) (s : State) : Out := .next (remoteAccess n s)

/-! ## MERGE_STEP (R206, R332) -/

/-- The stores and reductions at the head of a queue, at most `n` of them; where an engine has the line pinned, those that came before it
(R188, R339). -/
def headOps (pinned : Bool) : Nat → List HomeReq → List HomeReq
  | 0, _ => []
  | _, [] => []
  | n + 1, e :: es => if e.again || (pinned && e.behind) then [] else e :: headOps pinned n es

/-- The requests that a merge step performs at a home: those of the lease's holder, or those at the head of the queue (R115,
R332). -/
def mergeOps (lease : Option CoreId) (pinned : Bool) (q : List HomeReq) : List HomeReq :=
  match lease with
  | some c => (headOps pinned q.length (q.filter fun e => e.who == c)).take 8
  | none => headOps pinned 8 q

/-- The requests that wait at one home of a line. -/
def atHome (h : Holder) (q : List HomeReq) : List HomeReq := q.filter fun e => e.home == h

/-- The requests that a merge step of a line would perform at a home. -/
def State.mergeable (s : State) (l : Line) (h : Holder) : List HomeReq :=
  mergeOps (s.leaseOf l) ((s.line l).pinned h) (atHome h (s.waiting l))

/-- The first `n` requests that `p` admits taken out of a queue. -/
def dropReqs (p : HomeReq → Bool) : Nat → List HomeReq → List HomeReq
  | 0, q => q
  | _, [] => []
  | n + 1, e :: es => if p e then dropReqs p n es else e :: dropReqs p (n + 1) es

/-- The frame of a moving page holds the line (R365). -/
def State.movingLine (s : State) (l : Line) : Bool :=
  s.moving.any fun m => m.1 == l.pkg && decide (m.2.1 ≤ l.idx * 64) && decide (l.idx * 64 < m.2.1 + m.2.2)

/-- A queued store or reduction performed at the home of its line, with an access of the die's L2: a poisoned line takes whole lines only,
and the cause is held for the request's core (R192, R199, R207, R317, R356). A reduction on a page that moves is answered MOVED (R208). -/
def mergeOne (l : Line) (s : State) (e : HomeReq) : State :=
  let pa := l.idx * 64 + e.offset
  let poison := (s.line l).poison
  let put (d : StoreData) : State :=
    if poison && decide (d.bytes.length < 64) then onCore e.who (holdCause { memUe e.ptr with lane := e.lane }) s
    else applyStore l.pkg pa d ((homeTouch e.home l e.hint s).getD s)
  match e.op with
  | .access => s
  | .store d => put d
  | .reduce op z b =>
    if s.movingLine l then onCore e.who (turnAway e.ptr op z b) s
    else match (op.eval z (leOf (s.readPhys l.pkg pa z)) b 0).1 with
      | some v => put { bytes := bytesOf v z }
      | none => s

/-- A merge step may go on at a home: no recreation, and a way for the line (R318, R355). -/
def mergeFree (l : Line) (h : Holder) (s : State) : Bool := (s.line l).collecting.isNone && (homeTouch h l .dflt s).isSome

/-- MERGE_STEP: up to 8 waiting requests of a line at one home are applied in the order of their arrival, once that home has the
line's tokens, for which it asks. -/
def mergeStep (l : Line) (s : State) : State :=
  let q := s.waiting l
  match q.find? fun e => !(s.mergeable l e.home).isEmpty with
  | none => s
  | some e =>
    let h := e.home
    let es := s.mergeable l h
    if !mergeFree l h s then s
    else match (s.line l).gatherWrite h with
      | none => askFor l h true s
      | some ls' =>
        let mine (x : HomeReq) : Bool := x.home == h && !x.again && (s.leaseOf l).all fun c => x.who == c
        es.foldl (mergeOne l) (s.setLine l { ls' with queue := dropReqs mine es.length q })

/-- MERGE_STEP (R332). -/
def execMergeStep (l : Line) (s : State) : Out := .next (mergeStep l s)

/-! ## Boundaries (R273, R378) -/

/-- An abandoned TERMWAIT has left it (R65). -/
def abandon (s : State) : State :=
  match s.task.wait with
  | .term _ => leftTerm s
  | _ => s

/-- COMPLETION_INTERRUPT (R378): the gang of the task splits first (assumption log 22). -/
def completionInterrupt (s : State) : State :=
  if s.interruptDue then
    (splitGang (abandon s)).modTask Task.enterInterrupt
  else s

/-- COMPLETION_INTERRUPT (R378). -/
def execCompletionInterrupt (c : CoreId) (s : State) : Out := .next (onCore c completionInterrupt s)

/-- ASYNC_CAUSE (R273): at EXIT it names the EXIT (R168). -/
def asyncDeliver (s : State) : State :=
  match s.task.asyncs with
  | [] => s
  | c :: rest => if s.asyncDue then raise c ((abandon s).modTask fun t => { t with asyncs := rest }) else s

/-- ASYNC_CAUSE (R273). -/
def execAsyncCause (c : CoreId) (s : State) : Out := .next (onCore c asyncDeliver s)

/-! ## Parked stores replayed (R191, R192, R343) -/

/-- A parked store performed at its home, for which it waits (R192, R329, R343); an MX element is made now, with its flags (R196). -/
def replayStore (e : Parked) (s : State) : Try State :=
  match e.mx with
  | none => storeAt s e.ptr e.data 1 false true e.hint true
  | some (block, x) => (mxData s (pFmt e.ptr) block e.data.nib x).bind fun (s1, d, f) =>
    (storeAt s1 e.ptr d 1 true true e.hint true).bind fun s2 => .ok (s2.modTask (·.orFlags f))

/-- A cause of a parked store that the task takes at its next boundary. -/
def laterCause (c : Cause) (s : State) : State := s.modTask fun t => { t with asyncs := t.asyncs ++ [c] }

/-- A parked store replayed, as entry `i` of the queue. One that meets a READDUP page stays parked and traps, one at a time (R340); another
cause is held for the next release (R192); one that meets an absent page stays parked, and asks for that page if it has waited for another.
The answer is what stays of it. -/
def replayOne (i : Nat) (e : Parked) (s : State) : Try (State × Option Parked) :=
  match replayStore e s with
  | .ok s' => .ok (s', none)
  | .wait w => .wait w
  | .cause c =>
    if c.code = .pageFault then
      let page := pageOf (pAddr c.addr)
      if page = e.page then .ok (s, some e) else .ok (laterCause { c with sub := 1, parked := true } s, some { e with page := page })
    else if c.code = .protect ∧ c.sub = 8 then
      .ok (if s.task.asyncs.any fun c => c.code == .protect && c.sub == 8 then s else laterCause { c with parked := true, entry := i } s, some e)
    else .ok (holdCause c s, none)

/-- The parked stores that `pick` chooses performed in program order: the state after them, and those that stay parked; `i` entries stay
before them. A store does not pass an earlier one to its page that stays (R223); `stay` lists their pages. -/
def replayList (pick : Parked → Bool) : Nat → List Nat → List Parked → State → Try (State × List Parked)
  | _, _, [], s => .ok (s, [])
  | i, stay, e :: es, s =>
    let page := pageOf (pAddr e.ptr)
    if pick e && !stay.contains page then
      (replayOne i e s).bind fun (s1, left) =>
      (replayList pick (if left.isSome then i + 1 else i) (if left.isSome then page :: stay else stay) es s1).bind fun (s2, rest) =>
        .ok (s2, left.toList ++ rest)
    else (replayList pick (i + 1) (page :: stay) es s).bind fun (s2, left) => .ok (s2, e :: left)

/-- Parked stores of the current task replayed. -/
def replayStores (pick : Parked → Bool) (s : State) : Try State :=
  (replayList pick 0 [] s.task.replay (s.modTask fun t => { t with replay := [] })).bind fun (s', left) =>
    .ok (s'.modTask fun t => { t with replay := left })

/-- A replay that must wait asks for the tokens that it lacks. -/
def replayHold (w : Wait) (s : State) : State :=
  match w with
  | .queued l h => if ((s.line l).gatherWrite h).isNone then askFor l h true s else s
  | w => engineHold w s

/-! ## PAGE_NOTICE and PAGE_REFUSAL (R379) -/

/-- A notice of PGNOTE. -/
def noticeOf (page : Nat) (fail : Bool) : Word := BitVec.ofNat 64 (2 ^ 63 + (if fail then 2 ^ 62 else 0) + page % 2 ^ 48)

/-- A request of the task is answered: a notice joins its queue of 16, and a core that waits for one goes on (R379). -/
def Task.noticed (page : Nat) (fail : Bool) (t : Task) : Task :=
  if t.requests.contains page then
    { t with requests := t.requests.erase page, notices := t.notices ++ [noticeOf page fail]
             wait := if t.wait = .notice then .none else t.wait
             rep := if t.rep.wait = .notice then { t.rep with wait := .none } else t.rep }
  else t

/-- A task's image while it is saved: the notice is held (R385, R401). -/
def Task.noticeAway (page : Nat) (fail : Bool) (t : Task) : Task :=
  if t.requests.contains page then { t with requests := t.requests.erase page, arrived := t.arrived ++ [noticeOf page fail] } else t

/-- Copies of the task that wait for the page pin their lines before any parked store is replayed (R188). -/
def repinCopies (page : Nat) (s : State) : State :=
  (s.task.copies.filter fun c => c.waiting == some page && !c.saved).foldl (fun s c => match pinCopy c s with
    | .ok s => s
    | _ => s) s

/-- A page has been made present for the current core's tasks: parked stores replay, then the notice is appended. -/
def pageArrived (page : Nat) (s : State) : State :=
  let s := { s with core := { s.core with saved := s.core.saved.map (Task.noticeAway page false) } }
  let t := s.task
  if t.st = .running then
    let s := repinCopies page s
    if t.requests.contains page && decide (16 ≤ t.notices.length) then s
    else match replayStores (fun e => e.page == page || (!e.readdup && s.present e.page)) s with
      | .ok s' => s'.modTask (Task.noticed page false)
      | .wait w => replayHold w s
      | .cause _ => s
  else (repinCopies page s).modTask (Task.noticeAway page false)

/-- PAGE_NOTICE: the supervisor maps the 64 KiB page by the leaf it has chosen, if it is not mapped yet, with new tables from
`tables` on. It maps no page over the end-of-task address (R33), and the pages of NEARMEM and STRATA regions with their declaration only. -/
def pageNotice (page leaf tables : Nat) (s : State) : State :=
  let page := pageOf page
  if !s.wantsPage page then s
  else
    let s := match s.mapped page, entryAt 3 leaf with
      | .fault, .leaf l false =>
        if page = 2 ^ 48 - 65536 ∨ l.kind = .nearmem ∨ l.kind = .strata then s
        else guarded s.core.place.pkg (mapPages s.asid page 1 tables l) s
      | _, _ => s
    if s.present page then pageArrived page s else s

/-- PAGE_NOTICE (R379). -/
def execPageNotice (c : CoreId) (page : Nat) (leaf : Word) (tables : Nat) (s : State) : Out :=
  .next (onCore c (inTurn (.page c (pageOf page)) (pageNotice page leaf.toNat tables)) s)

/-- PROTECT with subcode UNMAPPED at a page (R379). -/
def unmappedCause (page : Nat) : Cause := protect 10 (BitVec.ofNat 64 page)

/-- A refusal at a task: its parked stores to the page go, a notice with FAIL follows, and PROTECT comes at the next
boundary. -/
def Task.refused (page : Nat) (t : Task) : Task :=
  { t with
    replay := t.replay.filter fun e => e.page != page
    asyncs := if t.requests.contains page || t.parkedPage page then t.asyncs ++ [unmappedCause page] else t.asyncs }

/-- Copies of the current task that wait for a refused page end with PROTECT (R288; assumption log 23). -/
def refuseCopies (page : Nat) (s : State) : State :=
  (s.task.copies.filter fun c => c.waiting == some page).foldl (fun s c => endCopy c (some (unmappedCause page)) s) s

/-- Pushes that wait for a refused page end before any write (R289). -/
def refusePushes (page : Nat) (s : State) : State :=
  let gone := s.core.pushes.filter fun p => p.waiting == some page
  let s := { s with core := { s.core with pushes := s.core.pushes.filter fun p => p.waiting != some page } }
  gone.foldl (fun s p => s.modOwn (fun t => t.launch == p.launch && t.index == p.index)
    (fun t => { t with asyncs := t.asyncs ++ [asyncCause 1 p.ctr (unmappedCause page)] })) s

/-- A command that waits for a refused page ends with FAULT and PROTECT (R292, R293; assumption log 23): the status is
written where its page is there, the slot freed and the counter raised. -/
def refuseCtx (b : BenchId) (i : Fin 16) (c : ChCtx) (s : State) : State :=
  let e : ChEnd := { result := 5, cause := CauseCode.protect.num, flags := 0, index := 0 }
  let s' := match chWrite c.at_ ((pAddr c.at_ + 56 : Nat) : Int) (bytesOf e.status 8) s with
    | .ok s' => s'
    | _ => s
  (s'.modCtx b i none).modTask (Task.bump c.ctr c.int)

/-- Chisel contexts of the current core that wait for a refused page. -/
def refuseChisel (page : Nat) (s : State) : State :=
  (List.finRange 16).foldl (fun s i =>
    match s.ctx s.bench i with
    | some c => if c.who = s.core.id ∧ c.page = some page then asOwner c.launch c.index (refuseCtx s.bench i c) s else s
    | none => s) s

/-- PAGE_REFUSAL (R379): a page that is present is not refused. -/
def pageRefusal (page : Nat) (s : State) : State :=
  let page := pageOf page
  if !s.wantsPage page || s.present page then s
  else if s.task.st = .running ∧ s.task.requests.contains page ∧ 16 ≤ s.task.notices.length then s
  else
    let away (t : Task) : Task := (t.refused page).noticeAway page true
    let s := { s with core := { s.core with saved := s.core.saved.map away } }
    let s := s.modTask fun t => if t.st = .running then (t.refused page).noticed page true else away t
    refuseChisel page (refusePushes page (refuseCopies page s))

/-- PAGE_REFUSAL (R379). -/
def execPageRefusal (c : CoreId) (page : Nat) (s : State) : Out := .next (onCore c (inTurn (.page c (pageOf page)) (pageRefusal page)) s)

end Sys2Proof.Machine
end

