-- ==== Sys2Proof/Machine/Service.lean ====
section
/-!
DEFINITION. The resident service's requests (R49 to R56, R129, R142, R147, R392, R407, R416, R417): version negotiation,
jobs, graph objects, phases, kicks, cancels and waits of clients, and the start of a replay.
-/
namespace Sys2Proof.Machine

/-! ## Connections (R407, R416, R417) -/

/-- A connection. -/
def State.client (s : State) (conn : Nat) : Client := mapGet {} s.clients conn

/-- A connection changed. -/
def State.modClient (s : State) (conn : Nat) (f : Client → Client) : State := { s with clients := mapPut conn (f (s.client conn)) s.clients }

/-- An answer to a request of a connection. -/
def answerTo (conn : Nat) (a : Answer) (s : State) : State := s.modClient conn fun c => { c with answers := c.answers ++ [a] }

/-- The highest minor of a major in a list of versions. -/
def minorOf (major : Nat) (vs : List (Nat × Nat)) : Option Nat :=
  (vs.filter fun v => v.1 == major).foldl (fun m v => some (max v.2 (m.getD 0))) none

/-- The version that two partners select: the highest major common to both, and the lower of their highest minors in it
(R416). -/
def selectVersion (ours theirs : List (Nat × Nat)) : Option (Nat × Nat) :=
  ours.foldl (fun best v => match minorOf v.1 theirs with
    | none => best
    | some m =>
      let mine := (minorOf v.1 ours).getD 0
      match best with
      | some b => if b.1 < v.1 then some (v.1, min m mine) else best
      | none => some (v.1, min m mine)) none

/-- The versions of the client protocol that the device supports (R417). -/
def clientVersions : List (Nat × Nat) := [(1, 2), (2, 1)]

/-! ## Tenants (R3, R8, R35, R38, R392, R393) -/

/-- The place of the core at a position of a physical bench (R3, R35). -/
def Place.core (p : Place) (pos : Nat) : CorePlace :=
  { pkg := p.pkg, unit := p.die, bench := p.bench
    row := p.die / 2 * 64 + p.bench / 16 * 4 + pos / 2, col := p.die % 2 * 32 + p.bench % 16 * 2 + pos % 2 }

/-- Two rectangles share no bench. -/
def Rect.apart (a b : Rect) : Bool :=
  decide (a.col + a.cols ≤ b.col) || decide (b.col + b.cols ≤ a.col) || decide (a.row + a.rows ≤ b.row) || decide (b.row + b.rows ≤ a.row)

/-- A physical bench may take a tenant's logical bench: it lies in the tenant's rectangle, on a die that has not failed (R38,
R393). -/
def benchOk (s : State) (t : Tenancy) (p : Place) : Bool :=
  !s.failed.contains (dieRank p.pkg p.die) && match mapFind p.pkg t.rects with
    | some r => Place.inRect p r
    | none => false

/-- The pool holds enough context areas for a tenant's cores and its spares, each in HBM4E at a multiple of 64 KiB (R383). -/
def Tenancy.areasOk (t : Tenancy) : Bool :=
  decide (t.wl * t.hl + t.quarries.length + t.spares ≤ t.areas.length) && t.areas.all fun (p, a) => decide (p < 4) && a % 65536 == 0 && decide (a + 409600 ≤ 2 ^ 39)

/-- Context areas of 400 KiB that share no byte (R383). -/
def areasApart : List (Nat × Nat) → Bool
  | [] => true
  | (p, a) :: rest => rest.all (fun (q, b) => p != q || decide (a + 409600 ≤ b) || decide (b + 409600 ≤ a)) && areasApart rest

/-- The supervisor may set up a tenant so: the grid obeys R35, the ASID is its own, its rectangles overlap no other tenant's, at
most 64 tenants are active on a package, every logical bench has its place, and the quantum and the time slice lie in their ranges
(R8, R38, R383, R390, R391, R393). -/
def tenancyOk (s : State) (tenant : Nat) (t : Tenancy) : Bool :=
  decide (1 ≤ tenant) && decide (tenant ≤ 255) && t.wl % 2 == 0 && t.hl % 4 == 0 && decide (0 < t.wl * t.hl) && decide (t.wl * t.hl ≤ 61440)
    && decide (t.asid < 65536) && s.tenants.all (fun (_, u) => u.asid != t.asid)
    && t.rects.all (fun (p, r) => (s.pkg p).runs && decide (r.col + r.cols ≤ 32) && decide (r.row + r.rows ≤ 32)
      && decide ((s.tenants.filter fun (_, u) => (mapFind p u.rects).isSome).length < 64)
      && s.tenants.all fun (_, u) => match mapFind p u.rects with
        | some q => Rect.apart r q
        | none => true)
    && (List.range (t.wl * t.hl / 8)).all (fun b => match mapFind b t.places with
      | some p => benchOk s t p
      | none => false)
    && t.quarries.all (fun q => (s.pkg (q / 192)).runs)
    && t.seats.all (fun (i, p) => decide (i < t.wl * t.hl) && decide (p < 8))
    && (t.quantum == 0 || (decide (2 ^ 14 ≤ t.quantum) && decide (t.quantum ≤ 2 ^ 32))) && decide (2 ^ 12 ≤ t.tslice) && decide (t.tslice ≤ 2 ^ 24)
    && Tenancy.areasOk t && areasApart (t.areas ++ s.tenants.flatMap fun (_, u) => u.areas)

/-- The logical cores of a tenant, each in its place (R35, R38), and its quarry cores (R392). -/
def tenantCores (tenant : Nat) (t : Tenancy) : List Core :=
  let grid := (List.range (t.wl * t.hl)).map fun lid =>
    let p := (mapFind (benchOf t.wl lid) t.places).getD default
    { Core.idle { tenant := tenant, lid := lid } .compute with place := Place.core p (Tenancy.seat t lid) }
  grid ++ t.quarries.map fun q =>
    { Core.idle { tenant := tenant, lid := 0xF000 + q } .quarry with place := { pkg := q / 192, unit := 4 + q % 192 / 24, col := q % 24 } }

/-- Cores that the domain does not hold yet are added. -/
def addCores (ks : List Core) (s : State) : State :=
  ks.foldl (fun s k => if (s.findCore k.id).isSome then s else { s with others := mapPut (coreKey k.id) k s.others }) s

/-- The supervisor sets up a tenant that has no grid yet. -/
def setupTenant (tenant : Nat) (t : Tenancy) (s : State) : State :=
  if (mapFind tenant s.tenants).isNone && tenancyOk s tenant t then
    addCores (tenantCores tenant t) { s with tenants := mapPut tenant t s.tenants }
  else s

/-- HELLO (R408, R416, R417): which tenant a new connection belongs to, and what a new tenant is given, is the supervisor's choice. -/
def hello (conn tenant pkg : Nat) (versions : List (Nat × Nat)) (t : Tenancy) (s : State) : State :=
  if !(s.pkg pkg).runs || s.paused pkg then s else
  let s := match mapFind conn s.clients with
    | some _ => s
    | none => setupTenant tenant t (s.modClient conn fun c => { c with tenant := tenant, pkg := pkg })
  match selectVersion clientVersions versions with
  | some v => answerTo conn (.version v.1 v.2) (s.modClient conn fun c => { c with version := some v })
  | none => answerTo conn .refused (s.modClient conn fun c => { c with version := none })

/-- HELLO (R416). -/
def execHello (conn tenant pkg : Nat) (versions : List (Nat × Nat)) (tenancy : Tenancy) (s : State) : Out :=
  .next (hello conn tenant pkg versions tenancy s)

/-- A request on a connection, of which the supervisor is notified (R182): refused before HELLO (R407). `f` acts for the tenant. -/
def request (conn : Nat) (f : Nat → State → State) (s : State) : State :=
  if !(s.pkg (s.client conn).pkg).runs || s.paused (s.client conn).pkg then s
  else
  let s := notify (s.client conn).pkg (.client conn) s
  if (s.client conn).version.isNone then answerTo conn .refused s else f (s.client conn).tenant s

/-! ## REGION and JOB -/

/-- REGION (R66, R142, R148): the answer is the region's base. -/
def execRegion (conn : Nat) (req : RegionReq) (g : Grant) (s : State) : Out :=
  .next (onStill (s.client conn).pkg (request conn fun t s => match declareRegion t req g s with
    | some (r, s') => answerTo conn (.handle (BitVec.ofNat 64 r.base)) s'
    | none => answerTo conn .refused s) s)

/-- JOB (R49). -/
def execJob (conn : Nat) (s : State) : Out :=
  .next (request conn (fun t s =>
    let n := s.serial
    let j : Job := { tenant := t, phases := [], closed := false, cancelled := false, ended := false, counter := 0, status := 0 }
    answerTo conn (.handle (handleOf .job t n)) { s with jobs := mapPut n j s.jobs, serial := n + 1 }) s)

/-! ## Graph objects (R50 to R53, R147, R148) -/

/-- A field of an object: `n` bytes at an offset. -/
def fieldAt (bs : List Byte) (off n : Nat) : Nat := leOf ((bs.drop off).take n)

/-- A binding of a node (R147). -/
structure BindRec where
  kind : Nat
  line : Nat
  arrivals : Nat
  record : Nat
  deriving DecidableEq, Repr, Inhabited

/-- A node of an object (R51). -/
structure NodeRec where
  entry : Nat
  gx : Nat
  gy : Nat
  gz : Nat
  flags : Nat
  f : Nat
  n : Nat
  param : Nat
  stackBase : Nat
  stackSize : Nat
  binds : List BindRec
  upvec : Nat
  uivec : Nat
  deriving DecidableEq, Repr, Inhabited

/-- An object parsed. -/
structure GraphObj where
  nodes : List NodeRec
  edges : List (Nat × Nat)
  area : List Byte
  deriving DecidableEq, Repr, Inhabited

/-- A binding record (R147). -/
def bindAt (bs : List Byte) (at_ : Nat) : BindRec :=
  { kind := fieldAt bs at_ 1, line := fieldAt bs (at_ + 1) 1, arrivals := fieldAt bs (at_ + 2) 1, record := fieldAt bs (at_ + 8) 8 }

/-- A binding obeys R147; its region record lies in the object. -/
def bindOk (bs : List Byte) (at_ : Nat) : Bool :=
  let b := bindAt bs at_
  fieldAt bs (at_ + 3) 5 == 0 && decide (1 ≤ b.kind) && decide (b.kind ≤ 4) &&
  (if b.kind = 1 then b.line == 0 && b.arrivals == 0 && decide (b.record + 64 ≤ bs.length)
   else decide (b.line < 32) && b.record == 0 && (if b.kind = 3 then decide (1 ≤ b.arrivals) && decide (b.arrivals ≤ 8) else b.arrivals == 0))

/-- No number occurs twice. -/
def distinct : List Nat → Bool
  | [] => true
  | n :: ns => !ns.contains n && distinct ns

/-- The binding list at an offset of the object, none for offset 0 (R147). -/
def bindings (bs : List Byte) (off : Nat) : Option (List BindRec) :=
  if off = 0 then some []
  else
    let n := fieldAt bs off 4
    let at_ (i : Nat) : Nat := off + 8 + 16 * i
    if off + 8 ≤ bs.length ∧ 1 ≤ n ∧ n ≤ 48 ∧ fieldAt bs (off + 4) 4 = 0 ∧ at_ n ≤ bs.length ∧ (List.range n).all fun i => bindOk bs (at_ i) then
      let l := (List.range n).map fun i => bindAt bs (at_ i)
      if (l.filter fun b => b.kind == 1).length ≤ 16 ∧ distinct ((l.filter fun b => b.kind != 1).map (·.line)) then some l else none
    else none

/-- A node record (R51, R53, R147). -/
def nodeAt (bs : List Byte) (at_ areaSize : Nat) : Option NodeRec :=
  (bindings bs (fieldAt bs (at_ + 44) 4)).bind fun binds =>
    let r : NodeRec :=
      { entry := fieldAt bs at_ 8, gx := fieldAt bs (at_ + 8) 2 + 1, gy := fieldAt bs (at_ + 10) 2 + 1, gz := fieldAt bs (at_ + 12) 2 + 1
        flags := fieldAt bs (at_ + 14) 2, f := fieldAt bs (at_ + 16) 4, n := fieldAt bs (at_ + 20) 4 + 1, param := fieldAt bs (at_ + 24) 8
        stackBase := fieldAt bs (at_ + 32) 8, stackSize := fieldAt bs (at_ + 40) 4, binds := binds
        upvec := fieldAt bs (at_ + 48) 8, uivec := fieldAt bs (at_ + 56) 8 }
    if r.entry % 4 = 0 ∧ r.flags < 64 ∧ r.param % 8 = 0 ∧ r.param + 8 * binds.length ≤ areaSize ∧ r.stackBase % 16 = 0 ∧ r.stackSize % 16 = 0
        ∧ (r.flags.testBit 2 → r.gx * r.gy * r.gz = r.n) then some r else none

/-- Every answer of a list of them, if each is there. -/
def allSome : List (Option α) → Option (List α)
  | [] => some []
  | none :: _ => none
  | some a :: rest => (allSome rest).map (a :: ·)

/-- The nodes without a predecessor among those left are taken away. -/
def peel (edges : List (Nat × Nat)) (left : List Nat) : List Nat :=
  left.filter fun n => edges.any fun e => e.2 == n && left.contains e.1

/-- The edges form no cycle (R50). -/
def acyclic (n : Nat) (edges : List (Nat × Nat)) : Bool := ((List.range n).foldl (fun l _ => peel edges l) (List.range n)).isEmpty

/-- An object parsed and checked (R50 to R53, R147). -/
def parseGraph (bs : List Byte) : Option GraphObj :=
  let nodes := fieldAt bs 8 4
  let edges := fieldAt bs 12 4
  let area := fieldAt bs 16 8
  let nt := fieldAt bs 24 8
  let et := fieldAt bs 32 8
  let ai := fieldAt bs 40 8
  if 64 ≤ bs.length ∧ fieldAt bs 0 4 = 0x4F474C57 ∧ fieldAt bs 4 2 = 1 ∧ fieldAt bs 6 2 = 0 ∧ 1 ≤ nodes ∧ nodes ≤ 4096 ∧ edges ≤ 65536
      ∧ area % 8 = 0 ∧ area ≤ 2 ^ 24 ∧ nt + 64 * nodes ≤ bs.length ∧ et + 8 * edges ≤ bs.length ∧ ai + area ≤ bs.length ∧ fieldAt bs 48 16 = 0 then
    let es := (List.range edges).map fun i => (fieldAt bs (et + 8 * i) 4, fieldAt bs (et + 8 * i + 4) 4)
    (allSome ((List.range nodes).map fun i => nodeAt bs (nt + 64 * i) area)).bind fun ns =>
      if (es.all fun e => decide (e.1 < nodes) && decide (e.2 < nodes)) ∧ acyclic nodes es then
        some { nodes := ns, edges := es, area := (bs.drop ai).take area }
      else none
  else none

/-- A core set lies in the tenant's grid, or wholly among its quarry cores (R36, R392). -/
def coreSetOk (s : State) (tenant : Nat) (r : NodeRec) : Bool :=
  let t := s.tenant tenant
  decide (r.f + r.n ≤ t.wl * t.hl) ||
    (decide (0xF000 ≤ r.f) && decide (r.f + r.n ≤ 0xF300) && (List.range r.n).all fun i => (s.findCore { tenant := tenant, lid := r.f + i }).isSome)

/-- A region request record (R148). -/
def recordAt (bs : List Byte) (at_ : Nat) : Option RegionReq :=
  if fieldAt bs (at_ + 7) 1 = 0 ∧ fieldAt bs (at_ + 36) 28 = 0 then
    some { kind := fieldAt bs at_ 1, page := fieldAt bs (at_ + 1) 1, tier := fieldAt bs (at_ + 2) 1, format := fieldAt bs (at_ + 3) 1
           payload := fieldAt bs (at_ + 4) 1, retain := fieldAt bs (at_ + 5) 1, mode := fieldAt bs (at_ + 6) 1, size := fieldAt bs (at_ + 8) 8
           extrap := fieldAt bs (at_ + 16) 8, reach := fieldAt bs (at_ + 24) 8, keys := fieldAt bs (at_ + 32) 4 }
  else none

/-- The object offsets of the region records that some binding names, each once. -/
def GraphObj.records (o : GraphObj) : List Nat :=
  (o.nodes.flatMap fun n => (n.binds.filter fun b => b.kind == 1).map (·.record)).foldl (fun l r => if l.contains r then l else l ++ [r]) []

/-- The regions of an object granted one after another: their bases by record offset, and the state (R142). -/
def grantRegions (tenant : Nat) (bs : List Byte) (grants : List (Nat × Grant)) : List Nat → State → Option (Map Nat × State)
  | [], s => some ([], s)
  | r :: rest, s =>
    match recordAt bs r, mapFind r grants with
    | some q, some g => (declareRegion tenant q g s).bind fun (x, s1) =>
        (grantRegions tenant bs grants rest s1).map fun (m, s2) => (mapPut r x.base m, s2)
    | _, _ => none

/-- A leaf of the same kind and rights. -/
def Leaf.alike (a b : Leaf) : Bool := a.kind == b.kind && a.x == b.x && a.w == b.w

/-- The 64 KiB pages of `size` bytes mapped at a base, a multiple of `align`, as `l` says, where they are not yet. Pages that stand already
must be alike. -/
def mapArea (tenant size align : Nat) (l : Leaf) (g : Grant) (s : State) : Option State :=
  let asid := (s.tenant tenant).asid
  let n := (g.base % 65536 + size + 65535) / 65536
  let va := pageOf g.base
  let page (i : Nat) : Nat := va + 65536 * i
  if g.base % align = 0 ∧ va + 65536 * n ≤ 2 ^ 48 - 65536 then
    if (List.range n).all fun i => s.unmapped asid (page i) then
      if g.frame % 65536 = 0 ∧ inTier false (g.frame + 65536 * n - 1) ∧ s.packages.contains g.pkg ∧ g.quarry < 192
          ∧ quarryFits l.kind g.frame (65536 * n) g.quarry then
        some (noteLocal l.kind g.pkg g.frame (65536 * n) g.quarry (mapPages asid va n g.tables { l with pkg := g.pkg, addr := g.frame } s))
      else none
    else if (List.range n).all fun i => ((s.leafOf tenant (page i)).any (Leaf.alike l)) then some s
    else none
  else none

/-- How pages of tasks' own data are mapped: as PRIVATE memory (R50, R145). -/
def dataLeaf : Leaf := { kind := .priv, tier := false, x := false, w := true, pkg := 0, addr := 0, size := 65536 }

/-- How a section is mapped, and its alignment (R145). -/
def SectionKind.leaf : SectionKind → Leaf × Nat
  | .text => ({ dataLeaf with kind := .readonly, x := true, w := false }, 64)
  | .data => (dataLeaf, 64)
  | .ring => ({ dataLeaf with kind := .nearmem }, 65536)

/-- The sections that go with an object mapped and written by the service, before the graph is installed (R129, R145). -/
def placeSections (tenant : Nat) : List Section → State → Option State
  | [], s => some s
  | c :: cs, s =>
    (mapArea tenant c.bytes.length (SectionKind.leaf c.kind).2 (SectionKind.leaf c.kind).1 c.grant s).bind fun s =>
      placeSections tenant cs (writeVa tenant c.grant.base c.bytes s)

/-- The pointer that the service writes for a binding (R147). -/
def bindPtr (bases : Map Nat) (b : BindRec) : Word :=
  if b.kind = 1 then BitVec.ofNat 64 (mapGet 0 bases b.record % 2 ^ 48) else BitVec.ofNat 64 (3 * 2 ^ 48 + 8 * b.line)

/-- The line kind of a binding. -/
def bindKind : Nat → LineKind
  | 2 => .event | 3 => .barrier | _ => .mutex

/-- The launch of a node (R51): its predecessors by their numbers, the first launch of the graph being number `first`. -/
def launchOf (tenant graph first i : Nat) (bases : Map Nat) (edges : List (Nat × Nat)) (r : NodeRec) : Launch :=
  { tenant := tenant, graph := graph, st := .defined, status := 0, counter := 0, entry := BitVec.ofNat 64 r.entry
    gx := r.gx, gy := r.gy, gz := r.gz, noreissue := r.flags.testBit 0, determinate := r.flags.testBit 1, termdetect := r.flags.testBit 2
    prio := r.flags / 8 % 8, f := r.f, n := r.n, paramOff := r.param, stackBase := BitVec.ofNat 64 r.stackBase, stackSize := r.stackSize
    upvec := BitVec.ofNat 64 (r.upvec / 4 * 4), uivec := BitVec.ofNat 64 (r.uivec / 4 * 4)
    regions := (r.binds.filter fun b => b.kind == 1).map fun b => mapGet 0 bases b.record
    lines := (r.binds.filter fun b => b.kind != 1).map fun b => (b.line, bindKind b.kind, b.arrivals)
    bindings := r.binds.map (bindPtr bases)
    preds := (edges.filter fun e => e.2 == i).map fun e => first + e.1
    level := 0, since := 0, order := 0, nextIdx := 0, lostIdx := [], grants := [], pending := [], stopped := false, dies := [], keystone := none, deputy := none
    taken := false, waitingPkgs := [], startedAt := 0, sentBy := [], token := none, finished := false }

/-- A graph installed in a job: its launches take the numbers that follow its own, and the instruction caches of the
tenant's cores are emptied (R49, R129). -/
def installGraph (tenant job area : Nat) (bases : Map Nat) (o : GraphObj) (s : State) : Nat × State :=
  let gn := s.serial
  let first := gn + 1
  let n := o.nodes.length
  let ls := o.nodes.zipIdx.map fun (r, i) => (first + i, launchOf tenant gn first i bases o.edges r)
  let g : Graph :=
    { tenant := tenant, job := job, nodes := ls.map (·.1), area := area, areaSize := o.area.length, kicks := [], running := none, accepted := 0
      counter := 0, status := 0, cancelled := false }
  let s := writeVa tenant area o.area { s with launches := s.launches ++ ls, graphs := mapPut gn g s.graphs, serial := first + n }
  (gn, s.packages.foldl (fun s p => clearIcache p tenant s) s)

/-- The job that a handle names for a tenant. -/
def State.jobOf (s : State) (tenant : Nat) (h : Word) : Option (Nat × Job) :=
  if levelOf h = .job ∧ handleTenant h = tenant ∧ s.hasLevel h then (mapFind (handleNum h) s.jobs).map fun j => (handleNum h, j) else none

/-- An object uploaded with its sections: `none` where the service refuses it (R36, R50 to R53, R129, R142, R145, R147). -/
def uploadGraph (tenant job : Nat) (bs : List Byte) (area : Grant) (grants : List (Nat × Grant)) (secs : List Section) (s : State) :
    Option (Nat × State) :=
  (parseGraph bs).bind fun o =>
    if o.nodes.all (coreSetOk s tenant) then
      ((placeSections tenant secs s).bind (mapArea tenant o.area.length 8 dataLeaf area)).bind fun s1 =>
      (grantRegions tenant bs grants o.records s1).map fun (bases, s2) => installGraph tenant job area.base bases o s2
    else none

/-- UPLOAD (R49, R50). -/
def execUpload (conn : Nat) (job : Word) (object : List Byte) (area : Grant) (regions : List (Nat × Grant)) (sections : List Section)
    (s : State) : Out :=
  .next (onStill (s.client conn).pkg (request conn fun t s => match s.jobOf t job with
    | none => answerTo conn .refused s
    | some (jn, _) => match uploadGraph t jn object area regions sections s with
      | some (gn, s') => answerTo conn (.handle (handleOf .graph t gn)) s'
      | none => answerTo conn .refused s) s)

/-! ## PHASE, CLOSE, KICK, CANCEL and WAIT -/

/-- PHASE (R49). -/
def execPhase (conn : Nat) (job : Word) (graphs : List Word) (s : State) : Out :=
  .next (request conn (fun t s => match s.jobOf t job with
    | none => answerTo conn .refused s
    | some (jn, j) =>
      let gs := graphs.filterMap fun h => match s.graphOf t h with
        | some (gn, g) => if g.job = jn then some gn else none
        | none => none
      if j.closed ∨ j.cancelled ∨ j.ended ∨ graphs = [] ∨ 256 < graphs.length ∨ gs.length ≠ graphs.length then answerTo conn .refused s
      else
        let n := s.serial
        let p : Phase :=
          { tenant := t, job := jn, graphs := gs, closed := false, cancelled := false, started := false, ended := false, pending := 0, counter := 0, status := 0 }
        let s := ({ s with phases := mapPut n p s.phases, serial := n + 1 } : State).modJob jn fun j => { j with phases := j.phases ++ [n] }
        answerTo conn (.handle (handleOf .phase t n)) (settleJob jn s)) s)

/-- CLOSE (R49). -/
def execClose (conn : Nat) (handle : Word) (s : State) : Out :=
  .next (request conn (fun t s =>
    let n := handleNum handle
    if handleTenant handle ≠ t ∨ !s.hasLevel handle then answerTo conn .refused s
    else match levelOf handle with
      | .phase =>
        let s := s.modPhase n fun p => { p with closed := true }
        answerTo conn .done (answerWaits (match mapFind n s.phases with
          | some p => settleJob p.job s
          | none => s))
      | .job => answerTo conn .done (answerWaits (settleJob n (s.modJob n fun j => { j with closed := true })))
      | _ => answerTo conn .refused s) s)

/-- `n` bytes of a tenant's memory at a pointer, for the service. -/
def clientLoad (tenant : Nat) (p : Word) (n : Nat) (s : State) : Try (State × List Byte) :=
  match readPieces tenant (pieces (pAddr p) n) s with
  | some bs => if p.toNat < 2 ^ 48 then .ok (s, bs) else .cause (protect 0 p)
  | none => .cause { code := .pageFault, addr := p }

/-- KICK of a client (R54, R55): a patch table that the tenant's tables do not map is refused (assumption log 21). -/
def execClientKick (conn : Nat) (graph patch : Word) (s : State) : Out :=
  .next (onStill (s.client conn).pkg (request conn fun t s => match s.graphOf t graph with
    | none => answerTo conn (.result 3) s
    | some (gn, g) => match patchTable (clientLoad t) patch s with
      | .ok (s1, some ps) =>
        let (code, s2) := kickGraph gn g ps s1
        answerTo conn (.result code) s2
      | .ok (s1, none) => answerTo conn (.result 2) s1
      | _ => answerTo conn .refused s) s)

/-- CANCEL of a client (R45, R46). -/
def execClientCancel (conn : Nat) (handle : Word) (s : State) : Out :=
  .next (request conn (fun t s =>
    if handleTenant handle ≠ t ∨ !s.hasLevel handle then answerTo conn .refused s
    else answerTo conn .done (cancelLevel handle s)) s)

/-- WAIT of a client (R44, R407). -/
def execWait (conn : Nat) (handle : Word) (s : State) : Out :=
  .next (request conn (fun t s =>
    if handleTenant handle ≠ t ∨ !s.hasLevel handle then answerTo conn .refused s
    else answerWaits (answerTo conn (.waiting handle (s.accepted handle)) s)) s)

/-! ## REPLAY_START (R56, R57, R147) -/

/-- The double of each patch written into the area, in the order of the table. -/
def writePatches (tenant area : Nat) (ps : List (Nat × Word)) (s : State) : State :=
  ps.foldl (fun s p => writeVa tenant (area + p.1) (bytesOf p.2.toNat 8) s) s

/-- A launch put back into DEFINED and ARMED, with its binding pointers written (R57, R147). -/
def armLaunch (area : Nat) (s : State) (n : Nat) : State :=
  match s.launch? n with
  | none => s
  | some l =>
    let s := writeVa l.tenant (area + l.paramOff) (l.bindings.flatMap fun w => bytesOf w.toNat 8) s
    s.modLaunch n fun l =>
      { l with st := .armed, status := 0, counter := 0, nextIdx := 0, lostIdx := [], grants := [], pending := [], stopped := false, sentBy := [], token := none
               finished := false, taken := false, waitingPkgs := [] }

/-- REPLAY_START: the oldest kick of a graph starts once its phase has and no replay runs. -/
def replayStart (gn : Nat) (s : State) : State :=
  match mapFind gn s.graphs with
  | none => s
  | some g =>
    match g.kicks with
    | [] => s
    | k :: rest =>
      let started := match mapFind k.phase s.phases with
        | some p => p.started
        | none => false
      if g.running.isSome ∨ !started then s
      else onStill (s.servicePkg g.tenant) (fun s =>
        let s := writePatches g.tenant g.area k.patches (s.modGraph gn fun g => { g with kicks := rest, running := some { k with patches := [] } })
        answerWaits (settleGraph gn (g.nodes.foldl (armLaunch g.area) s))) s

/-- REPLAY_START (R56). -/
def execReplayStart (graph : Nat) (s : State) : Out := .next (replayStart graph s)

end Sys2Proof.Machine
end

