-- ==== Sys2Proof/Machine/Dispatcher.lean ====
section
/-!
DEFINITION. The dispatchers (R30 to R37, R57, R59, R61 to R65, R147, R387 to R391, R400): grants and binding, turns on a
shared physical core, reports of completion, aging, the start across packages, and the termination token.
-/
namespace Sys2Proof.Machine

/-! ## Places and turns (R38, R391) -/

/-- Tasks that hold a context area beyond the one of their core (R383). -/
def Core.extra (k : Core) : Nat :=
  let bound : Nat := match k.task.st with
    | .none | .ended | .lost => 0
    | _ => 1
  k.saved.length + bound - 1 + (if k.task.draining = some .preempted then 1 else 0)

/-- The tenant's pool has a spare context area for one more task on the current core, which would then hold `n` beyond its own
(R383, R390). -/
def State.spareFor (s : State) (n : Nat) : Bool :=
  let others := (s.cores.filter fun k => k.id.tenant == s.core.id.tenant && k.id != s.core.id).map Core.extra
  decide (others.sum + n ≤ (s.tenant s.core.id.tenant).spares)

/-- The task occupies its physical core until it has been saved or has ended. -/
def Task.occupies (t : Task) : Bool := t.st == .running || t.st == .faulted

/-- It is the current core's turn: no task occupies the physical core, and going round in ascending logical id from the last
turn it is the first that wants one (R391). -/
def State.myTurn (s : State) : Bool :=
  let ks := s.cores.filter fun k => samePlace s.core k
  let last := (s.core :: ks).foldl (fun m k => if m.turn < k.turn then k else m) s.core
  let wants := (s.core :: ks.filter (Core.wants s.now)).map (·.id.lid)
  let later := wants.filter fun i => decide (last.id.lid < i)
  let least (l : List Nat) : Option Nat := l.foldl (fun m i => some (min i (m.getD i))) none
  !ks.any (fun k => k.task.occupies) && (if last.turn = 0 ∨ later.isEmpty then least wants else least later) == some s.core.id.lid

/-- The L1 and the instruction cache of the physical core, which the logical cores that share it use in turn (R4, R38), come to the
current core. -/
def takeCaches (s : State) : State :=
  match s.others.find? fun (_, k) => samePlace s.core k && !(k.l1.isEmpty && k.icache.isEmpty) with
  | none => s
  | some (i, k) => { s with core := { s.core with l1 := k.l1, icache := k.icache }, others := mapPut i { k with l1 := [], icache := [] } s.others }

/-- The current core's turn begins. -/
def State.startTurn (s : State) : State :=
  let s := takeCaches s
  { s with core := { s.core with turn := s.moves + 1, task := { s.core.task with slice := 0 } } }

/-! ## Which launch may take a core (R37, R147, R387, R389, R400) -/

/-- The number of tile indices (R32). -/
def Launch.total (l : Launch) : Nat := l.gx * l.gy * l.gz

/-- The index granted next, and whether it is one that was lost (R37, R61). -/
def Launch.next (l : Launch) : Option (Nat × Bool) :=
  match l.lostIdx with
  | i :: _ => some (i, true)
  | [] => if (l.st = .queued ∨ l.st = .running) ∧ l.nextIdx < l.total then some (l.nextIdx, false) else none

/-- A core lies on a die that has not failed (R61). -/
def State.coreHealthy (s : State) (k : Core) : Bool :=
  match k.place.die with
  | some d => !s.failed.contains (dieRank k.place.pkg d)
  | none => true

/-- The launch's dispatchers have declared a die failed (R58). -/
def Launch.knowsFailed (l : Launch) (rank : Nat) : Bool := l.dies.any fun v => v.rank == rank && v.failed

/-- The core of a first-wave index, where its die has not failed. -/
def State.firstCore (s : State) (l : Launch) (i : Nat) : Bool :=
  match s.findCore { tenant := l.tenant, lid := l.f + i } with
  | some k => s.coreHealthy k && !(k.place.die.any fun d => l.knowsFailed (dieRank k.place.pkg d))
  | none => false

/-- The placement of an index admits a core (R37, R61). A first-wave index whose own core lies on a failed die may go to any core of the
set (DESIGN CHOICE, assumption log 92). -/
def placeOk (s : State) (l : Launch) (i : Nat) (lost : Bool) (lid : Nat) : Bool :=
  decide (l.f ≤ lid) && decide (lid < l.f + l.n) &&
    (if l.determinate then lid == l.f + i % l.n
     else if !lost && decide (i < l.n) && s.firstCore l i then lid == l.f + i
     else true)

/-- The logical benches of a tenant that lie in the physical bench of bench `c`. -/
def benchMates (t : Tenant) (c : Nat) : List Nat :=
  match mapFind c t.places with
  | none => [c]
  | some p => c :: (t.places.filter fun (b, q) => q == p && b != c).map (·.1)

/-- The logical benches of a launch's core set (R36, R301). A quarry core has none. -/
def State.launchBenches (s : State) (l : Launch) : List Nat :=
  let t := s.tenant l.tenant
  ((List.range l.n).map (l.f + ·)).foldl (fun bs lid =>
    let b := benchOf t.wl lid
    if t.wl * t.hl ≤ lid || bs.contains b then bs else bs ++ [b]) []

/-- The lines that a launch binds are held by no other launch in any physical bench of its core set (R147, R301; assumption
log 94). -/
def linesFree (n : Nat) (l : Launch) (s : State) : Bool :=
  l.lines.all fun (i, _, _) => (s.launchBenches l).all fun c => (benchMates (s.tenant l.tenant) c).all fun b =>
    match (s.evLine { tenant := l.tenant, bench := b } (Fin.ofNat 32 i)).held with
    | none => true
    | some m => m == n

/-- A core's package has answered the start message (R400). -/
def Launch.answered (l : Launch) (pkg : Nat) : Bool := !l.waitingPkgs.contains pkg

/-- The dies' rank of a core. -/
def Core.rank (k : Core) : Nat :=
  match k.place.die with
  | some d => dieRank k.place.pkg d
  | none => 4 * k.place.pkg

/-- A die of the launch that is neither fenced nor failed holds the role (R58, R60). -/
def Launch.up (l : Launch) (role : Option Nat) : Bool := role.any l.healthy.contains

/-- The keystone may grant: a fenced die grants no index (R60). -/
def Launch.keystoneUp (l : Launch) : Bool := l.up l.keystone

/-- The conditions of R389 for the current core. -/
def State.mayTake (s : State) (n : Nat) (l : Launch) : Bool :=
  match l.next with
  | none => false
  | some (i, lost) =>
    l.tenant == s.core.id.tenant && placeOk s l i lost s.core.id.lid && linesFree n l s && l.answered s.core.place.pkg
      && l.healthy.contains s.core.rank && l.keystoneUp

/-- Does launch `a` come before launch `b` in the dispatch order (R387)? -/
def before (a b : Nat × Launch) : Bool := decide (b.2.level < a.2.level) || (a.2.level == b.2.level && decide (a.2.order ≤ b.2.order))

/-- The first launch in dispatch order that may take the current core and whose level is at least `level` (R389, R390). -/
def State.offer (s : State) (level : Nat) : Option (Nat × Launch) :=
  (s.launches.filter fun (n, l) => decide (level ≤ l.level) && s.mayTake n l).foldl (fun best c => match best with
    | none => some c
    | some b => if before b c then some b else some c) none

/-! ## Grants and binding (R30 to R32, R59, R147) -/

/-- The packed coordinate of a tile index (R30, R32). -/
def Launch.coord (l : Launch) (i : Nat) : Word :=
  BitVec.ofNat 64 (i % l.gx % 65536 + i / l.gx % l.gy % 65536 * 65536 + i / (l.gx * l.gy) % 65536 * 2 ^ 32)

/-- The task holds its context area: from binding until it ends (R383). -/
def Task.holdsArea (t : Task) : Bool := t.st != .none && t.st != .ended && t.st != .lost

/-- A context area of a tenant's pool that no task holds (R383). -/
def State.freeArea (s : State) (tenant : Nat) : Option (Nat × Nat) :=
  (s.tenant tenant).areas.find? fun a => !(s.cores.any fun k => (k.task :: k.saved).any fun t => t.area == some a && t.holdsArea)

/-- The task that binding makes (R30, R31, R172, R383). -/
def boundTask (s : State) (n : Nat) (l : Launch) (i lid : Nat) : Task :=
  let area := match mapFind l.graph s.graphs with
    | some g => g.area
    | none => 0
  let stack : Word := if l.stackSize = 0 then 0 else l.stackBase + BitVec.ofNat 64 ((lid - l.f + 1) * l.stackSize)
  let x : Vector Word 32 := ((((Vector.replicate 32 0).set 1 endOfTask).set 2 stack).set 3 (BitVec.ofNat 64 (area + l.paramOff))).set 4 (l.coord i)
  { Task.empty with
    st := .granted, launch := n, handle := handleOf .launch l.tenant n, index := i, determinate := l.determinate, termdetect := l.termdetect
    pc := l.entry, x := x.set 5 (BitVec.ofNat 64 lid), tile := l.coord i, upvec := l.upvec, uivec := l.uivec, area := s.freeArea l.tenant, drainFrom := s.now }

/-- The lines that a launch binds are configured in every bench of its core set, where it does not hold them yet (R147, R301). -/
def configureLines (n : Nat) (l : Launch) (s : State) : State :=
  (s.launchBenches l).foldl (fun s b => l.lines.foldl (fun s (i, kind, arr) =>
    s.modLine { tenant := l.tenant, bench := b } (Fin.ofNat 32 i) fun e =>
      if e.held = some n then e else { kind := kind, arrivals := arr, held := some n }) s) s

/-- The current core is bound to an index (R31). -/
def bindTask (n : Nat) (l : Launch) (i : Nat) (s : State) : State := s.withTask (boundTask s n l i s.core.id.lid)

/-- The launch after a grant of its next index (R57, R59, R61). -/
def Launch.granted (l : Launch) (i lid rank : Nat) (lost : Bool) : Launch :=
  let rec_ : GrantRec := { index := i, lid := lid, rank := rank, done := false, lost := false }
  let l := if lost then { l with lostIdx := l.lostIdx.tail } else { l with nextIdx := l.nextIdx + 1 }
  { l with
    grants := (l.grants.filter fun g => g.index != i) ++ [rec_]
    st := if l.nextIdx = l.total ∧ (l.st = .queued ∨ l.st = .running) then .draining else if l.st = .queued then .running else l.st
    pending := if l.deputy.isSome then l.pending ++ [(i, lid)] else l.pending }

/-- The packages of a launch other than its keystone's (R400). -/
def Launch.farPkgs (l : Launch) : List Nat :=
  match l.keystone with
  | none => []
  | some r => (List.range 4).filter fun p => p != r / 4 && l.healthy.any fun q => q / 4 == p

/-- A dispatcher takes a QUEUED launch: its start messages leave (R57, R400), and its lines are configured (R147). It is RUNNING at its
first grant (R389; assumption log 95). -/
def startLaunch (n : Nat) (l : Launch) (s : State) : State :=
  if l.st = .queued ∧ !l.taken then
    let s := configureLines n l (s.modLaunch n fun l => { l with taken := true, waitingPkgs := l.farPkgs, startedAt := s.time })
    { s with net := s.net ++ l.farPkgs.map fun p => Msg.start n p }
  else s

/-- A grant that waits for the deputy names the current core (R59). -/
def State.promised (s : State) : Bool :=
  s.launches.any fun (_, l) => l.tenant == s.core.id.tenant && l.pending.any fun p => p.2 == s.core.id.lid

/-- Grants may go to the current core: its task is over, or it has just been pre-empted for a launch of a higher level than the
task that was (R389, R390). -/
def State.grantLevel (s : State) : Option Nat :=
  let areas := s.core.saved.isEmpty || s.spareFor s.core.saved.length
  if !s.task.over ∨ !areas ∨ s.promised ∨ s.core.kind = .supervisor ∨ !s.coreHealthy s.core ∨ !(s.pkg s.core.place.pkg).runs then none
  else match s.core.top with
    | none => some 0
    | some t =>
      if s.task.st = .none ∧ s.core.vacated then (s.launch? t.launch).map fun l => l.level + 1 else none

/-- A launch may be granted to the current core now. -/
def State.offered (s : State) : Bool := match s.grantLevel with
  | some level => (s.offer level).isSome
  | none => false

/-- Of the cores of the tenant to which a launch may be granted now, the current one became free first, and of those that became free in
one cycle it has the lowest id (R37, R389). -/
def State.firstFree (s : State) : Bool :=
  let earlier (k : Core) : Bool := decide (k.freed < s.core.freed) || (k.freed == s.core.freed && decide (k.id.lid < s.core.id.lid))
  s.cores.all fun k => k.id.tenant != s.core.id.tenant || !earlier k || !(switchTo k.id s).offered

/-- TILE_GRANT (R389). -/
def tileGrant (s : State) : State :=
  match s.grantLevel with
  | none => s
  | some level =>
    match s.offer level with
    | none => s
    | some (n, l) =>
      if !s.firstFree then s else
      let s := startLaunch n l s
      match s.launch? n, l.next with
      | some l, some (i, lost) =>
        if !l.answered s.core.place.pkg then s
        else
          let s := s.modLaunch n fun l => l.granted i s.core.id.lid s.core.rank lost
          if l.deputy.isSome then s else bindTask n l i s
      | _, _ => s

/-- TILE_GRANT (R389). -/
def execTileGrant (c : CoreId) (s : State) : Out := .next (onCore c tileGrant s)

/-- The oldest grant that waits reaches its core. -/
def releaseGrant (n : Nat) (s : State) : State :=
  match s.launch? n with
  | none => s
  | some l =>
    match l.pending with
    | [] => s
    | (i, lid) :: rest =>
      onCore { tenant := l.tenant, lid := lid } (bindTask n l i) (s.modLaunch n fun l => { l with pending := rest })

/-- DEPUTY_ACK (R59). A grant that a deputy was to acknowledge goes on without it once the launch has none left (R61). -/
def deputyAck (n : Nat) (s : State) : State :=
  match s.launch? n with
  | some l => if (l.deputy.isNone || l.up l.deputy) && l.keystoneUp then releaseGrant n s else s
  | none => s

/-- DEPUTY_ACK (R59). -/
def execDeputyAck (launch : Nat) (s : State) : Out := .next (deputyAck launch s)

/-- BINDING_COMPLETE (R31, R34, R390): its accesses follow the KICK that the replay came from (R335). -/
def bindingComplete (s : State) : State :=
  if s.task.bound s.now && s.myTurn && !s.fenced then
    acquire (s.startTurn.modTask fun t => { t with st := .running, ran := 0 })
  else s

/-- BINDING_COMPLETE (R31). -/
def execBindingComplete (c : CoreId) (s : State) : Out := .next (onCore c bindingComplete s)

/-! ## Completion and aging -/

/-- An index's task is reported complete to the keystone and the deputy, and the launch looked at (R57, R59). -/
def report (n i : Nat) (s : State) : State :=
  checkLaunch n (s.modLaunch n fun l => { l with grants := l.grants.map fun g => if g.index = i then { g with done := true } else g })

/-- COMPLETION_REPORT (R59): a fenced die reports none (R60). -/
def completionReport (s : State) : State :=
  let t := s.task
  if t.st = .ended ∧ !t.reported then
    if s.fenced then s else report t.launch t.index (s.modTask fun t => { t with reported := true })
  else match s.core.saved.find? fun t => t.st == .ended && !s.fencedFor t.launch with
    | none => s
    | some t =>
      report t.launch t.index { s with core := { s.core with saved := s.core.saved.filter fun u => !(u.st == .ended && u.launch == t.launch && u.index == t.index) } }

/-- COMPLETION_REPORT (R59). -/
def execCompletionReport (c : CoreId) (s : State) : Out := .next (onCore c completionReport s)

/-- AGING (R388). -/
def aging (n : Nat) (s : State) : State :=
  match s.launch? n with
  | none => s
  | some l =>
    if l.st = .queued ∧ l.level < 7 ∧ l.since + 2 ^ 20 ≤ s.now then
      let s1 := s.modLaunch n fun l => { l with level := l.level + 1, since := s.now, order := s.serial }
      { s1 with serial := s.serial + 1 }
    else s

/-- AGING (R388). -/
def execAging (launch : Nat) (s : State) : Out := .next (aging launch s)

/-! ## The start of a launch across packages (R400) -/

/-- START_MESSAGE: the package answers once its dispatchers hold the launch. -/
def startMessage (n : Nat) (s : State) : State :=
  match s.take n with
  | some (.start l p, s) =>
    match s.launch? l with
    | some r => if r.healthy.any fun q => q / 4 == p then { s with net := s.net ++ [Msg.startAnswer l p] } else s
    | none => s
  | _ => s

/-- START_MESSAGE (R400). -/
def execStartMessage (n : Nat) (s : State) : Out := .next (startMessage n s)

/-- START_ANSWER: the keystone may grant to the package's cores. -/
def startAnswer (n : Nat) (s : State) : State :=
  match s.take n with
  | some (.startAnswer l p, s) => s.modLaunch l fun l => { l with waitingPkgs := l.waitingPkgs.filter (· != p) }
  | _ => s

/-- START_ANSWER (R400). -/
def execStartAnswer (n : Nat) (s : State) : Out := .next (startAnswer n s)

/-- A launch stops granting and drains with a mark (R45, R57, R61, R400). -/
def drainLaunch (status n : Nat) (s : State) : State :=
  checkLaunch n (s.modLaunch n fun l =>
    if l.st = .queued ∨ l.st = .running ∨ l.st = .draining then { l with st := .draining, status := max l.status status, lostIdx := [], stopped := true } else l)

/-- START_TIMEOUT (R400): an answer at 50 µs itself still counts. The launch is cancelled as R45 gives, which leaves a DRAINING one as it is. -/
def startTimeout (n : Nat) (s : State) : State :=
  match s.launch? n with
  | none => s
  | some l =>
    if (l.st = .queued ∨ l.st = .running) ∧ !l.waitingPkgs.isEmpty ∧ l.startedAt + micros 50 < s.time then
      drainLaunch 2 n (s.modLaunch n fun l => { l with waitingPkgs := [] })
    else s

/-- START_TIMEOUT (R400). -/
def execStartTimeout (launch : Nat) (s : State) : Out := .next (startTimeout launch s)

/-! ## The termination token (R63 to R65, R169) -/

/-- What the token sees of a core: its task waits in TERMWAIT or has ended (idle), its sent bit, and whether every message that
it has sent is acknowledged. -/
structure TermView where
  idle  : Bool
  sent  : Bool
  acked : Bool
  deriving DecidableEq, Repr, Inhabited

/-- A message of R63 that a core has sent and whose acknowledgement it has not had: an MCMD or a store to another core's scratchpad. -/
def Msg.unacked (c : CoreId) : Msg → Bool
  | .mcmd who _ _ _ _ => who == c
  | .remote who _ _ _ store _ _ => who == c && store.isSome
  | _ => false

/-- The view of a core of a launch. A task that has ended counts as idle (R64). -/
def termView (s : State) (n : Nat) (l : Launch) (lid : Nat) : TermView :=
  let c : CoreId := { tenant := l.tenant, lid := lid }
  let left := l.sentBy.contains lid
  let done := l.grants.any fun g => g.lid == lid && g.done
  match s.findCore c with
  | some k =>
    if k.task.launch = n ∧ k.task.st ≠ .none then
      let waits := match k.task.wait with
        | .term _ => true
        | _ => false
      { idle := (k.task.st == .running && waits) || k.task.st == .ended, sent := k.task.sent || left, acked := !s.net.any (Msg.unacked c) }
    else { idle := done && !k.saved.any (fun t => t.launch == n && t.st != .ended), sent := left, acked := true }
  | none => { idle := done, sent := left, acked := true }

/-- A core's sent bit cleared. -/
def clearSent (n : Nat) (l : Launch) (lid : Nat) (s : State) : State :=
  let c : CoreId := { tenant := l.tenant, lid := lid }
  modTaskOf c (fun t => if t.launch = n then { t with sent := false } else t) (s.modLaunch n fun l => { l with sentBy := l.sentBy.filter (· != lid) })

/-- The launch is found finished: every TERMWAIT of it returns 1, as an acquire (R64, R169). -/
def finishTerm (n : Nat) (l : Launch) (s : State) : State :=
  let s := s.modLaunch n fun l => { l with finished := true, token := none }
  onCores (fun s => match s.task.wait with
    | .term d => if s.task.launch = n ∧ s.task.st = .running then acquire (setX d 1 (s.modTask fun t => { t with termdone := true })) else s
    | _ => s) ((List.range l.n).map fun i => { tenant := l.tenant, lid := l.f + i }) s

/-- The token moves on from a core, or a round ends or begins at the initiator (R65). An initiator whose task has ended counts as having
stayed in TERMWAIT (DESIGN CHOICE, assumption log 96). -/
def moveToken (n : Nat) (l : Launch) (k : TermToken) (s : State) : State :=
  let put (k : TermToken) (s : State) : State := s.modLaunch n fun l => { l with token := some k }
  let v := termView s n l k.at_
  let next := if k.at_ + 1 < l.f + l.n then k.at_ + 1 else l.f
  if k.at_ = l.f ∧ k.inRound then
    if !k.marked && k.stayed && !v.sent then finishTerm n l s else put { k with inRound := false, marked := false } s
  else if !v.idle then s
  else
    let s := if v.acked then clearSent n l k.at_ s else s
    if k.at_ = l.f then put { at_ := next, marked := false, inRound := true, stayed := true } s
    else put { k with at_ := next, marked := k.marked || v.sent } s

/-- TERMINATION_TOKEN (R65). -/
def terminationToken (n : Nat) (s : State) : State :=
  match s.launch? n with
  | some l => match l.token with
    | some k => if l.st = .running ∨ l.st = .draining then moveToken n l k s else s
    | none => s
  | none => s

/-- TERMINATION_TOKEN (R65). -/
def execTerminationToken (launch : Nat) (s : State) : Out := .next (terminationToken launch s)

end Sys2Proof.Machine
end

