-- ==== Sys2Proof/Machine/Context.lean ====
section
/-!
DEFINITION. Tasks that leave and return (R34, R83, R84, R166, R217, R299, R313, R381 to R386, R390, R391, R401): the
quantum and the time slice, saving and restoring a context, and what the supervisor does with a faulted task.
-/
namespace Sys2Proof.Machine

/-! ## The end of a turn (R384) -/

/-- A core's load waits at the line no more; those of its cycle are one fewer (R27). -/
def EvLine.leave (lid : Nat) (l : EvLine) : EvLine :=
  let old := l.waiters.length - l.together
  { l with
    waiters := l.waiters.filter (· != lid), later := l.later.filter (· != lid)
    together := ((l.waiters.drop old).filter (· != lid)).length }

/-- The task waits no more at its event line, where that wait is withdrawn: at an event or mutex line (R217). -/
def leaveLine (n : Nat) (s : State) : State :=
  let i : Fin 32 := Fin.ofNat 32 n
  match (s.evLine s.bench i).kind with
  | .barrier | .span => s
  | _ => waitAs .none (s.modLine s.bench i (EvLine.leave s.core.id.lid))

/-- Waits are withdrawn and issue anew on resume (R83, R217, R384); an arrival at a barrier or span stays, and an access whose
answer is on its way is completed first. A FUSE that waits for a member stays while its own task is SUSPENDED, so that members that take
turns on one physical core can meet (R38, R43). -/
def withdraw (st : TaskSt) (s : State) : State :=
  let s := s.modTask fun t => { t with
    fusing := if st = .suspended then t.fusing else 0
    rep := if t.rep.wait = .remote ∨ t.rep.wait = .slot then t.rep else { t.rep with wait := .none } }
  match s.task.wait with
  | .line n _ => leaveLine n s
  | .term _ => waitAs .none (leftTerm s)
  | .remote | .slot | .await _ _ | .level _ _ (some _) | .none => s
  | _ => waitAs .none s

/-- The turn of the current core ends. -/
def beginDrain (st : TaskSt) (s : State) : State := giveUp st (withdraw st s)

/-- The current task runs and its turn may end now: an armed exchange phase defers it (R299, R384). -/
def State.mayLeave (s : State) : Bool := s.task.st == .running && s.task.draining.isNone && !s.phaseOpen

/-- An asynchronous cause that traps is due at the same boundary: the trap comes first (R401). -/
def State.asyncTraps (s : State) : Bool := s.asyncDue && (s.task.asyncs.head?).any s.task.traps

/-- QUANTUM_EXPIRY (R390): the task is pre-empted for a launch of a higher level where a spare context area is free, and else
its count restarts. -/
def quantumExpiry (s : State) : State :=
  let q := (s.tenant s.core.id.tenant).quantum
  if q = 0 ∨ s.task.ran < q ∨ !s.mayLeave ∨ s.asyncTraps then s
  else
    let level := match s.launch? s.task.launch with
      | some l => l.level + 1
      | none => 8
    if (s.offer level).isSome ∧ s.spareFor (s.core.saved.length + 1) then beginDrain .preempted s
    else s.modTask fun t => { t with ran := 0 }

/-- QUANTUM_EXPIRY (R390). -/
def execQuantumExpiry (c : CoreId) (s : State) : Out := .next (onCore c quantumExpiry s)

/-- TSLICE_EXPIRY (R391): with no other logical core ready the turn goes on. -/
def tsliceExpiry (s : State) : State :=
  let n := (s.tenant s.core.id.tenant).tslice
  if s.task.slice < n ∨ !s.mayLeave then s
  else if s.cores.any fun k => samePlace s.core k && k.wants s.now then beginDrain .suspended s
  else s.modTask fun t => { t with slice := 0 }

/-- TSLICE_EXPIRY (R391). -/
def execTsliceExpiry (c : CoreId) (s : State) : Out := .next (onCore c tsliceExpiry s)

/-! ## CONTEXT_SAVE (R299, R384, R386) -/

/-- The task's messages have settled and its matrix queue has drained (R299, R384). -/
def State.settled (s : State) : Bool :=
  let t := s.task
  t.steps.all (·.done) && t.guests.isEmpty && t.wait != .remote && t.rep.wait != .remote && !s.phaseOpen && !s.net.any (Msg.sentBy s.core.id)

/-- Copies have completed, but for those that are saved with their progress (R299). -/
def Task.copiesSaved (t : Task) : Bool := t.copies.all fun c => c.waiting.isSome || c.saved

/-- A task's copies put away: their lines are no longer pinned. -/
def putAwayCopies (s : State) : State :=
  let s := s.task.copies.foldl (fun s c => unpin (s.copyPin c.seq) s) s
  s.modTask fun t => { t with copies := t.copies.map fun c => { c with saved := true } }

/-- The current core's task put away in `saved`, with a state, and its context area written; the core is free. -/
def putAway (st : TaskSt) (s : State) : State :=
  let s := saveImage (putAwayCopies s)
  let t : Task := { s.task with st := st, draining := none }
  freeCore { s with core := { s.core with task := Task.empty, saved := t :: s.core.saved, vacated := st == .preempted } }

/-- CONTEXT_SAVE: a turn ends as SUSPENDED with its copies running on (R386), a pre-emption as PREEMPTED, and a FAULTED task
frees its core (R381). In each case the state is saved to the context area (R383, R384). -/
def contextSave (s : State) : State :=
  if !s.settled then s
  else match s.task.draining with
    | some .suspended => saveImage (s.modTask fun t => { t with st := .suspended, draining := none })
    | some st => if s.task.copiesSaved then putAway st s else s
    | none => if s.task.st = .faulted ∧ s.task.copiesSaved then putAway .faulted s else s

/-- CONTEXT_SAVE (R384). -/
def execContextSave (c : CoreId) (s : State) : Out := .next (guardedFor c (onCore c contextSave) s)

/-- COPY_DRAIN_TIMEOUT (R384): 100 µs after issue stopped, the copies that are left are saved. -/
def copyDrainTimeout (s : State) : State :=
  if (s.task.draining = some .preempted ∨ s.task.st = .faulted) ∧ s.task.drainFrom + micros 100 ≤ s.time then putAwayCopies s else s

/-- COPY_DRAIN_TIMEOUT (R384). -/
def execCopyDrainTimeout (c : CoreId) (s : State) : Out := .next (onCore c copyDrainTimeout s)

/-! ## CONTEXT_RESTORE (R385) -/

/-- Saved copies go on: those that wait for no page pin their lines again. -/
def resumeCopies (s : State) : State :=
  let s1 := s.modTask fun t => { t with copies := t.copies.map fun c => { c with saved := false } }
  (s.task.copies.filter fun c => c.saved && c.waiting.isNone).foldl (fun s c => match pinCopy { c with saved := false } s with
    | .ok s => s
    | _ => s) s1

/-- The notices that arrived while the task was away, as far as the queue of 16 has room (R379, R385). -/
def Task.takeNotices (t : Task) : Task :=
  let room := 16 - t.notices.length
  { t with notices := t.notices ++ t.arrived.take room, arrived := t.arrived.drop room }

/-- A task is back on its core: parked stores whose page is there are replayed before its next instruction issues, and the
gang goes on once every member is back (R42, R385). The core's PRIVATE lines are dropped, so that none outlives a phase that began while the
task was away (R399). Where a replay has to wait, or a parked store's page moves, the restore waits (R343, R365, R366). -/
def resumeTask (back : State → State) (s : State) : State :=
  let s1 := acquire (resumeCopies (back s).startTurn)
  if s1.task.replay.any fun e => s1.mapped e.page == .mig || s1.mapped (pAddr e.ptr) == .mig then s else
  match replayStores (fun e => s1.present e.page) s1 with
  | .ok s2 =>
    let s3 := s2.modTask fun t => { t.takeNotices with st := .running }
    if s3.task.gang ≠ 0 ∧ s3.gangMembers.all s3.memberDone then
      onCores (modGang s3.task.launch Task.goAhead) s3.gangMembers s3
    else s3
  | .wait w => replayHold w s
  | .cause _ => s

/-- A task removed from those saved. -/
def unsave (t : Task) (ts : List Task) : List Task :=
  match ts.findIdx? fun u => u.launch == t.launch && u.index == t.index && u.st == t.st with
  | some i => ts.eraseIdx i
  | none => ts

/-- A saved task put back on the current core, as its context area holds it. A task that still stands on the core is not loaded. -/
def putBack (t : Task) (s : State) : State :=
  let rest := unsave t s.core.saved
  { s with core := { s.core with task := if rest.length = s.core.saved.length then t else t.loadImage s, saved := rest } }

/-- No launch of a higher level waits for a core whose task has been pre-empted for one (R390). -/
def State.noRival (s : State) (t : Task) : Bool :=
  s.task.st != .none || !s.core.vacated || match s.launch? t.launch with
    | some l => (s.offer (l.level + 1)).isNone
    | none => true

/-- CONTEXT_RESTORE: a SUSPENDED task in its turn, or the most recently PREEMPTED task of a core that is free, whose quantum
starts anew (R385, R390, R391). -/
def contextRestore (s : State) : State :=
  if !s.myTurn || s.fenced then s
  else if s.task.ready then
    resumeTask (fun s => s.modTask fun t => match t.wait with
      | .await _ _ => { t.loadImage s with wait := .none }
      | _ => t.loadImage s) s
  else match s.core.top with
    | none => s
    | some t => if s.task.over && !s.promised && s.noRival t then resumeTask (putBack { t with ran := 0 }) s else s

/-- CONTEXT_RESTORE (R385). -/
def execContextRestore (c : CoreId) (s : State) : Out := .next (onCore c contextRestore s)

/-! ## The supervisor's answers (R84, R382) -/

/-- The engines of the current task stop: its copies, steps, pushes and chisel contexts are gone (R382). -/
def stopEngines (s : State) : State :=
  let t := s.task
  let s := t.copies.foldl (fun s c => unpin (s.copyPin c.seq) s) s
  let steps := t.steps.filter fun m => !m.done
  let s := onCores (fun u => u.modTask fun v => { v with guests := v.guests.filter fun g => !(g.leader == s.core.id.lid && steps.any fun m => m.seq == g.step) })
    ((steps.flatMap fun m => m.others s)) s
  let mine (c : ChCtx) : Bool := c.who == s.core.id && c.launch == t.launch && c.index == t.index
  let s := unwant s.core.id s
  { s with
    core := { s.core with
      task := { s.task with copies := [], steps := [], commits := [] }
      pushes := s.core.pushes.filter fun p => !(p.launch == t.launch && p.index == t.index && p.todo != 0) }
    benches := s.benches.map fun (i, b) => (i, { b with chisel := b.chisel.map fun o => match o with
      | some c => if mine c then none else some c
      | none => none }) }

/-- The current task leaves the line or the TERMWAIT that it waits at. -/
def dropWait (s : State) : State :=
  match s.task.wait with
  | .line n _ => s.modLine s.bench (Fin.ofNat 32 n) (EvLine.leave s.core.id.lid)
  | .term _ => leftTerm s
  | _ => s

/-- The current task is ended by the supervisor, without EXIT's drain: its parked stores are discarded, its engines stopped and
its windows cleared (R382). -/
def endBySupervisor (s : State) : State :=
  let s := stopEngines (dropWait (splitGang s))
  let here := s.core.id
  let s := { s with net := s.net.filter fun m => match m with
    | .remote who _ _ _ _ _ _ => who != here
    | _ => true }
  endTask (s.modTask fun t => { t with replay := [], held := [], asyncs := [], rep := {}, trap := none, inBody := false })

/-- The faulted task of the current core: the bound one, or a saved one. -/
def State.faulted (s : State) : Option Task := if s.task.st = .faulted then some s.task else s.core.saved.find? fun t => t.st == .faulted

/-- The trap of the current core has been answered. -/
def State.answered (s : State) : State := { s with traps := s.traps.erase s.core.id }

/-- TRAP_END: the launch's status becomes at least FAULTED (R34, R44, R382). -/
def trapEnd (s : State) : State :=
  match s.faulted with
  | none => s
  | some t =>
    let s := (asOwner t.launch t.index endBySupervisor s).answered
    s.modLaunch t.launch fun l => { l with status := max l.status 3 }

/-- TRAP_END (R382). -/
def execTrapEnd (c : CoreId) (s : State) : Out := .next (onCore c (inTurn (.trap c) trapEnd) s)

/-- A double of a wide register changed. -/
def putPart (v : Vec) (i : Fin 8) (w : Word) : Vec :=
  let below := v.toNat % 2 ^ (64 * i.val)
  let above := v.toNat / 2 ^ (64 * i.val + 64)
  BitVec.ofNat 512 (above * 2 ^ (64 * i.val + 64) + w.toNat * 2 ^ (64 * i.val) + below)

/-- A system register of a saved context changed. LCID and LAUNCH name the task, and REPSTATE and REPCNT its repetition buffer, which is no
register; PGNOTE reads the notices. -/
def Task.pokeSys (r : SysReg) (w : Word) (t : Task) : Task :=
  match r with
  | .fstat => { t with fstat := w.setWidth 5 }
  | .tstat => { t with rngwrap := w.getLsbD 0, termdone := w.getLsbD 1 }
  | .cycle => { t with cycle := w }
  | .tile => { t with tile := w }
  | .upmask => { t with upmask := w &&& upmaskBits }
  | .upvec => { t with upvec := w / 4 * 4 }
  | .uivec => { t with uivec := w / 4 * 4 }
  | .upepc => { t with upepc := w }
  | .upcause => { t with upcause := w }
  | .upaddr => { t with upaddr := w }
  | .upinfo => { t with upinfo := w }
  | .uiepc => { t with uiepc := w }
  | .uipend => { t with uictr := w.setWidth 16 }
  | .rngc i => { t with rngc := t.rngc.set i.val w }
  | .win i => { t with win := t.win.set i.val (w &&& winBits) }
  | .lcid | .launch | .repstate | .repcnt | .pgnote => t

/-- A saved register changed (R382, R383). -/
def Task.poke (t : Task) (rw : SavedReg × Word) : Task :=
  match rw.1 with
  | .x r => if r = 0 then t else { t with x := t.x.set r.val rw.2 }
  | .xs i => { t with xs := t.xs.set i.val rw.2 }
  | .v r part => { t with v := t.v.set r.val (putPart t.v[r] part rw.2) }
  | .k i => if i = 0 then t else { t with k := t.k.set i.val rw.2 }
  | .q i part => { t with q := t.q.set i.val (putPart t.q[i] part rw.2) }
  | .c n => { t with c := t.c.set n.val (rw.2.setWidth 32) }
  | .sh n part => { t with sh := t.sh.set n.val { t.sh[n] with d := t.sh[n].d.set part.val rw.2 } }
  | .seal n => { t with sh := t.sh.set n.val { t.sh[n] with sealed := rw.2.getLsbD 0 } }
  | .mg n => { t with mg := t.mg.set n.val rw.2 }
  | .sys r => t.pokeSys r rw.2

/-- The faulted task as the supervisor resumes it: at the resume address, with registers changed, and with the body that the
cause froze reopened (R164, R382). -/
def Task.resumed (resume : Word) (regs : List (SavedReg × Word)) (t : Task) : Task :=
  let body := match t.trap with
    | some r => r.body
    | none => false
  let t := regs.foldl Task.poke t
  { t with
    pc := resume, trap := none
    rep := if body && t.rep.frozen then { t.rep with frozen := false, running := true } else t.rep }

/-- A faulted task of a launch may be resumed on the current core, which must be free or still hold the task (R382). -/
def State.resumable (s : State) (t : Task) : Bool :=
  !(s.cores.any fun k => samePlace s.core k && k.task.occupies) && !s.fencedFor t.launch && (s.task == t || (s.task.over && !s.promised))

/-- A faulted task of the current core resumes, if it may. -/
def resumeFault (t : Task) (resume : Word) (regs : List (SavedReg × Word)) (s : State) : State :=
  if !s.resumable t then s
  else
    let s' := resumeTask (fun s => (putBack t s).modTask (Task.resumed resume regs)) s
    if s'.task.st = .running then s'.answered else s'

/-- TRAP_RESUME (R382): the core must be free, or still hold the task. -/
def trapResume (resume : Word) (regs : List (SavedReg × Word)) (s : State) : State :=
  match s.faulted with
  | none => s
  | some t => resumeFault t resume regs s

/-- TRAP_RESUME (R382). -/
def execTrapResume (c : CoreId) (resume : Word) (regs : List (SavedReg × Word)) (s : State) : Out :=
  .next (onCore c (inTurn (.trap c) (trapResume resume regs)) s)

/-- TASK_END_BY_SUPERVISOR: a RUNNING task is ended, such as one that waits at a strata key for ever (R84). The spec gives its launch no mark for
that, and the launch's status stays as it is (R44; DESIGN CHOICE, assumption log 113). -/
def taskEndBySupervisor (s : State) : State := if s.task.st = .running then endBySupervisor s else s

/-- TASK_END_BY_SUPERVISOR (R84). -/
def execTaskEndBySupervisor (c : CoreId) (s : State) : Out := .next (onCore c (servedHere taskEndBySupervisor) s)

end Sys2Proof.Machine
end

