-- ==== Sys2Proof/Machine/Counter.lean ====
section
/-!
DEFINITION. Counter instructions (R218 to R220).
-/
namespace Sys2Proof.Machine

/-- WAITC: the condition holds and the wait acquires, or the core idles (R219, R220, R315). -/
def waitc (n : R16) (b : Reg) (s : State) : State :=
  if ctrReached s.task.c[n] (s.rx b) then acquire (adv s) else waitAs .idle s

/-- WAITC (R219). -/
def execWaitc (n : R16) (b : Reg) (s : State) : Out := .next (waitc n b s)

/-- CGET; in a DETERMINATE launch DET_VIOLATION (R218, R397). -/
def execCget (d : Reg) (n : R16) (s : State) : Out :=
  .next (if s.task.determinate then raise (detViolation 4) s else setX d (s.task.c[n].setWidth 64) s)

/-- A counter written. -/
def setC (n : R16) (v : BitVec 32) (s : State) : State := adv (s.modTask fun t => { t with c := t.c.set n.val v })

/-- CSET (R218). -/
def execCset (n : R16) (b : Reg) (s : State) : Out := .next (setC n ((s.rx b).setWidth 32) s)

/-- CADD (R218). -/
def execCadd (n : R16) (b : Reg) (s : State) : Out := .next (setC n (s.task.c[n] + (s.rx b).setWidth 32) s)

end Sys2Proof.Machine
end

