-- ==== Sys2Proof/Machine/Exchange.lean ====
section
/-!
DEFINITION. The exchange engine (R294 to R297, R303 to R305): arming a phase, compiler-timed sends, and the lines that
land.
-/
namespace Sys2Proof.Machine

/-- PROTECT with subcode ENGINE where a core has no exchange engine (R322). -/
def engine3 (k : State → State) (s : State) : State := if s.isCompute then k s else raise (engineCause 3 (protect 6)) s

/-- SHAPE of engine 3. -/
def shape3 : Cause := engineCause 3 { code := .shape }

/-- SLOT_LATE with a subcode of R295 and R296: 0 LATE, 1 MISMATCH, 2 EXHAUSTED, 3 AREA. -/
def slotLate (sub : Nat) : Cause := engineCause 3 { code := .slotLate, sub := sub }

/-! ## XSCHED (R294, R303) -/

/-- An entry of the table. -/
def xEntry (e : Nat) : XEntry := { o := bitsAt e 0 32, dest := bitsAt e 32 16, lines := bitsAt e 48 9 + 1 }

/-- Entries in rising order, no two overlapping. -/
def xOrdered : List XEntry → Bool
  | a :: b :: rest => decide (b.o ≥ a.o + a.lines) && xOrdered (b :: rest)
  | _ => true

/-- The phase that a table describes, for a grid of `grid` cores; `none` where R294 refuses the table. -/
def xTable (line ctr grid : Nat) (bs : List Byte) : Option XPhase :=
  let n := doubleAt bs 0
  let area := doubleAt bs 1
  let off := bitsAt area 0 17
  let len := bitsAt area 17 18
  let raw := (List.range n).map fun (i : Nat) => doubleAt bs (2 + i)
  let es := raw.map xEntry
  if 256 < n ∨ 2 ^ 35 ≤ area ∨ off % 64 ≠ 0 ∨ len % 64 ≠ 0 ∨ 131072 < len ∨ 131072 < off + len ∨ raw.any (fun e => 2 ^ 57 ≤ e)
      ∨ !xOrdered es ∨ es.any (fun e => grid ≤ e.dest) then none
  else
    let last := match es.getLast? with
      | some e => e.o + 16 + e.lines - 1
      | none => 0
    some { line := line, entries := es, ctr := ctr, areaOff := off, areaLen := len, zero := none, pending := none
           leaving := none, out := none, lastCycle := last, passed := es.isEmpty }

/-- The barrier or span line that XSCHED names (R294). -/
def xLine (s : State) (p : Word) : Try (Fin 32) :=
  let refuse : Try (Fin 32) := .cause (engineCause 3 (protect 5 p))
  match heldLine s p with
  | .ok (n, l) => if l.kind = .barrier ∨ l.kind = .span then .ok n else refuse
  | _ => refuse

/-- XSCHED (R294). -/
def xsched (a b : Reg) (k : R16) (s : State) : State :=
  let p := s.rx a
  let t := s.tenant s.core.id.tenant
  settle ((xLine s (s.rx b)).bind fun n =>
    if 2 ≤ pSpace p ∨ pAddr p % 64 ≠ 0 then .cause shape3
    else if (match s.task.xphase with
        | some x => !x.entries.isEmpty || !x.over s.now
        | none => false) then .cause (engineCause 3 { code := .slotBusy, sub := 0 })
    else (loadRecord p 16 s).bind fun (s1, head) =>
      let m := doubleAt head 0
      if 256 < m then .cause shape3
      else (loadRecord p (16 + 8 * m) s1).bind fun (s2, bs) =>
        match xTable n.val k.val (t.wl * t.hl) bs with
        | none => .cause shape3
        | some x => .ok (adv (s2.modTask fun t => { t with xphase := some x }))) s

/-- XSCHED (R294). -/
def execXsched (a b : Reg) (k : R16) (s : State) : Out := .next (engine3 (xsched a b k) s)

/-! ## XSEND (R295, R304) -/

/-- The next entry is sent: its lines leave one per cycle, and the task issues nothing until the last has left (R304). -/
def sendEntry (x : XPhase) (z : Nat) (src : Word) (off : Nat) (s : State) : State :=
  match x.entries with
  | [] => s
  | e :: rest =>
    let first := z + e.o + 16
    let out : XOut := { src := src, off := off, dest := e.dest, first := first, lines := e.lines, next := 0, good := true }
    emitLines s.now (adv (s.modTask fun t =>
      { t with xphase := some { x with entries := rest, pending := none, leaving := some (first + e.lines - 1), out := some out } }))

/-- The operands of XSEND (R295). -/
def xsendOk (e : XEntry) (src dst : Word) : Bool :=
  pSpace src == 1 && pAddr src % 64 == 0 && decide (pAddr src + 64 * e.lines ≤ 2 ^ 17)
    && bitsAt dst.toNat 0 17 % 64 == 0 && bitsAt dst.toNat 17 15 == 0 && bitsAt dst.toNat 48 16 == 0

/-- The phase cycle is past the end of the entry's slot. -/
def slotPassed (x : XPhase) (e : XEntry) (now : Nat) : Bool :=
  match x.zero with
  | some z => decide (z + e.o + 15 < now)
  | none => false

/-- XSEND (R295). -/
def xsend (a b : Reg) (s : State) : State :=
  match s.task.xphase with
  | none => raise (slotLate 2) s
  | some x =>
    match x.entries with
    | [] => raise (slotLate 2) s
    | e :: _ =>
      let src := s.rx a
      let dst := s.rx b
      if bitsAt dst.toNat 32 16 ≠ e.dest then raise (slotLate 1) s
      else if slotPassed x e s.now then raise (slotLate 0) s
      else if !ptrOk src then raise (engineCause 3 (protect 0 src)) s
      else if !xsendOk e src dst then raise shape3 s
      else
        let off := bitsAt dst.toNat 0 17
        match x.zero with
        | some z =>
          if z + e.o ≤ s.now then sendEntry x z src off s
          else waitAs .slot (s.modTask fun t => { t with xphase := some { x with pending := some (src, off) } })
        | none => waitAs .slot (s.modTask fun t => { t with xphase := some { x with pending := some (src, off) } })

/-- XSEND (R295). -/
def execXsend (a b : Reg) (s : State) : Out := .next (engine3 (xsend a b) s)

/-- The XSEND that waits is a word of the repetition body, or else the task's scalar instruction: `f` completes it there (R304). -/
def atSender (f : State → State) (s : State) : State := if s.task.rep.wait = .slot then (f s.enterBody).leaveBody else f s

/-- EXCHANGE_SLOT_OPEN (R295). -/
def slotOpen (s : State) : State :=
  match s.task.xphase with
  | none => s
  | some x =>
    match x.pending, x.zero, x.entries with
    | some (src, off), some z, e :: _ => if z + e.o ≤ s.now then atSender (sendEntry x z src off) s else s
    | _, _, _ => s

/-- EXCHANGE_SLOT_OPEN (R295). -/
def execExchangeSlotOpen (c : CoreId) (s : State) : Out := .next (onCore c slotOpen s)

/-! ## Lines that land (R296, R305) -/

/-- An exchange line of a sender. -/
def Msg.lineOf (c : CoreId) : Msg → Bool
  | .xline who _ _ _ _ _ => who == c
  | _ => false

/-- The next `left` lines of a sender belong to a send whose receipt will not count. -/
def spoil (c : CoreId) : Nat → List Msg → List Msg
  | 0, ms => ms
  | _, [] => []
  | n + 1, m :: ms =>
    match m with
    | .xline who t o b l _ => if who = c then .xline who t o b l false :: spoil c n ms else m :: spoil c (n + 1) ms
    | m => m :: spoil c (n + 1) ms

/-- A task that takes exchange lines: it is bound and has armed a receive area (R296, R303). -/
def Task.receives (t : Task) : Option XPhase :=
  match t.st with
  | .none | .ended | .lost => none
  | _ => t.xphase

/-- A line reaches its receiver, which is current. -/
def landLine (off : Nat) (bs : List Byte) (left : Nat) (good : Bool) (x : XPhase) (s : State) : State :=
  if x.areaOff ≤ off ∧ off + 64 ≤ x.areaOff + x.areaLen then
    s.modTask fun t =>
      let t := spStore 0 off { bytes := bs } t
      if left = 0 ∧ good then t.bump x.ctr false else t
  else if good then s.modTask fun t => { t with asyncs := t.asyncs ++ [asyncCause 3 x.ctr (slotLate 3)] }
  else s

/-- Lines of a send that has lost one count for no receipt: the next `left` of its sender, on their way or still to leave. -/
def spoilSend (c : CoreId) (left : Nat) (s : State) : State :=
  let s1 := { s with net := spoil c left s.net }
  if left ≤ (s.net.filter (Msg.lineOf c)).length then s1
  else modTaskOf c (fun t => { t with xphase := t.xphase.map fun x => { x with out := x.out.map fun o => { o with good := false } } }) s1

/-- The task of a core that a line reaches: the bound one, or one that is saved with its area armed (R296, R303). -/
def Core.receiver (k : Core) : Option (Task × XPhase) :=
  (k.task :: k.saved).findSome? fun t => t.receives.map fun x => (t, x)

/-- EXCHANGE_LINE (R296, R305): lines of one sender land in the order in which they left, and those that reach a receiver in one cycle in
ascending sender id. The routers discard a line to a core outside the tenant's rectangle (R325). -/
def exchangeLine (n : Nat) (s : State) : State :=
  match s.take n with
  | some (.xline who target off bs left good, s') =>
    if (s.net.take n).any (Msg.lineOf who) then s
    else
      match s'.findCore target with
      | none => spoilSend who left s'
      | some k =>
        if !Tenancy.holdsRouter (s.tenant who.tenant) k.place then
          modTaskOf who (fun t => { t with asyncs := t.asyncs ++ [asyncCause 3 0 (protect 7)] }) (spoilSend who left s')
        else match k.receiver with
        | none => spoilSend who left s'
        | some (t, x) =>
          if t.lineLate s.now who.lid then s else
          let s1 := if x.areaOff ≤ off ∧ off + 64 ≤ x.areaOff + x.areaLen then s' else spoilSend who left s'
          onCore target (asOwner t.launch t.index fun s =>
            (landLine off bs left good x s).modTask fun t => { t with xlast := some (s.now, who.lid) }) s1
  | _ => s

/-- EXCHANGE_LINE (R296). -/
def execExchangeLine (n : Nat) (s : State) : Out := .next (exchangeLine n s)

/-- EXCHANGE_PHASE_END (R294, R299). -/
def phaseEnd (s : State) : State :=
  match s.task.xphase with
  | none => s
  | some x =>
    match x.zero with
    | some z => if z + x.lastCycle < s.now then s.modTask fun t => { t with xphase := some { x with passed := true } } else s
    | none => s

/-- EXCHANGE_PHASE_END (R299). -/
def execExchangePhaseEnd (c : CoreId) (s : State) : Out := .next (onCore c phaseEnd s)

end Sys2Proof.Machine
end

