-- ==== Sys2Proof/Machine/Tokens.lean ====
section
/-!
DEFINITION. Tokens between dies (R347 to R356): transient requests, token messages, attempts, persistent requests and their
arbiters, and the recreation of a line after a loss.
-/
namespace Sys2Proof.Machine

/-! ## Holders -/

/-- The line is pinned or leased at the holder, which answers once the pin or lease ends (R349, R353). A pin or a lease counts where the
line's 16 tokens are. -/
def State.heldFast (s : State) (l : Line) (h : Holder) : Bool :=
  let ls := s.line l
  (ls.at_ h).count == 16 && (ls.pinned h || (s.leaseOf l).isSome)

/-- A die that has failed: it answers nothing and receives nothing (R58, R355). -/
def State.gone (s : State) (h : Holder) : Bool :=
  match h with
  | .die p d => decide (d < 4) && s.failed.contains (dieRank p d)
  | .home => false

/-! ## TRANSIENT_READ and TRANSIENT_WRITE (R349) -/

/-- A holder's answer to a transient read: data and one token from the owner. -/
def answerRead (l : Line) (h req : Holder) (s : State) : State :=
  let ls := s.line l
  let t := ls.at_ h
  if !t.owner then s
  else if t.count ≤ 1 then sendAll l h req s
  else
    let s := s.setLine l (ls.put { t with count := t.count - 1 })
    { s with net := s.net ++ [.tokens l h req 1 false false true (ls.genAt h) t.stamp] }

/-- A transient request reaches a holder. A line that is held fast, or that is being recreated, keeps it waiting (R349, R355). -/
def transient (write : Bool) (n : Nat) (s : State) : State :=
  match s.take n with
  | some (.transient l pkg die w h, s1) =>
    if w ≠ write then s
    else if s.gone h || s.gone (reqHolder pkg die) then s1
    else if s.heldFast l h || (s.line l).collecting.isSome then s
    else if write then sendAll l h (reqHolder pkg die) s1
    else answerRead l h (reqHolder pkg die) s1
  | _ => s

/-- TRANSIENT_READ (R349). -/
def execTransientRead (n : Nat) (s : State) : Out := .next (transient false n s)

/-- TRANSIENT_WRITE (R349). -/
def execTransientWrite (n : Nat) (s : State) : Out := .next (transient true n s)

/-! ## TOKEN_MESSAGE (R349, R351, R352) -/

/-- An attempt has what its access needs: a token and data for a read, all tokens for a write; a persistent request collects all
of them (R348, R352). -/
def Attempt.satisfied (a : Attempt) (t : Tokens) : Bool :=
  t.data && (if a.write || a.persistent then t.count == 16 else decide (1 ≤ t.count))

/-- The attempt of a die for a line. -/
def State.attempt (s : State) (pkg die : Nat) (l : Line) : Option Attempt :=
  s.attempts.find? fun a => a.pkg == pkg && a.die == die && a.line == l

/-- The die's attempts for a line removed. -/
def dropAttempt (pkg die : Nat) (l : Line) (s : State) : State :=
  { s with attempts := s.attempts.filter fun a => !(a.pkg == pkg && a.die == die && a.line == l) }

/-- A requester whose persistent request is active, and which ACTIVE has reached, sends DONE once it holds 16 tokens and data
(R352). -/
def sayDone (pkg die : Nat) (l : Line) (s : State) : State :=
  let ls := s.line l
  let me : Holder := reqHolder pkg die
  let t := ls.at_ me
  let said := s.net.any fun m => match m with
    | .done l' _ _ => l' == l
    | _ => false
  if ls.active == some me && ls.told.contains me && t.count == 16 && t.data && !said then
    { s with net := s.net ++ [.done l pkg die] }
  else s

/-- An attempt that is satisfied ends. -/
def checkAttempt (pkg die : Nat) (l : Line) (s : State) : State :=
  let s := match s.attempt pkg die l with
    | some a => if a.satisfied ((s.line l).at_ (reqHolder pkg die)) then dropAttempt pkg die l s else s
    | none => s
  sayDone pkg die l s

/-- Tokens join those that a holder has, and its stamp merges with theirs (R399). The memory home writes the owner's data and
clears its dirty flag (R351). -/
def LineState.join (ls : LineState) (h : Holder) (count : Nat) (owner data : Bool) (stamp : Option PhaseStamp) : LineState :=
  let t := ls.at_ h
  let ls := ls.put { t with count := t.count + count, owner := t.owner || owner, data := t.data || data, stamp := stampMerge t.stamp stamp }
  if h = .home ∧ owner then { ls with dirty := false } else ls

/-- A token message of an earlier generation is discarded, but by a holder that COLLECT has not reached (R355). -/
def LineState.takes (ls : LineState) (h : Holder) (gen : Nat) : Bool :=
  gen == ls.gen || match ls.collecting with
    | some hs => hs.contains h && (gen + 1) % 16 == ls.gen
    | none => false

/-- The number by which a holder of a line asks. -/
def askerOf (l : Line) (h : Holder) : Nat × Nat :=
  match h with
  | .die p d => (p, d)
  | .home => (l.pkg, 5)

/-- Tokens join those that a holder has, which has its attempt for the line ended where it is satisfied. -/
def landTokens (l : Line) (h : Holder) (count : Nat) (owner data : Bool) (stamp : Option PhaseStamp) (s : State) : State :=
  let q := askerOf l h
  checkAttempt q.1 q.2 l (s.setLine l ((s.line l).join h count owner data stamp))

/-- A holder keeps tokens that reach it: the memory home, one that has asked for them, the requester of an active persistent request, or one
that has valid data (R349, R352). -/
def State.keepsTokens (s : State) (l : Line) (h : Holder) : Bool :=
  let q := askerOf l h
  h == .home || (s.line l).active == some h || (s.attempt q.1 q.2 l).isSome || ((s.line l).at_ h).data

/-- Tokens reach a holder: it forwards them to the requester of an active persistent request (R352), and a die that neither asked
for them nor holds valid data sends them to the memory home (R349). -/
def tokenMessage (n : Nat) (s : State) : State :=
  match s.take n with
  | some (.tokens l _ h count owner dirty data gen stamp, s1) =>
    let ls := s1.line l
    let onward (dst : Holder) : State := { s1 with net := s1.net ++ [.tokens l h dst count owner dirty data gen stamp] }
    if s.gone h || !ls.takes h gen then s1
    else match ls.active.filter fun r => r ≠ h ∧ ls.told.contains h with
      | some r => onward r
      | none => if s.keepsTokens l h then landTokens l h count owner data stamp s1 else onward .home
  | _ => s

/-- TOKEN_MESSAGE (R349). -/
def execTokenMessage (n : Nat) (s : State) : Out := .next (tokenMessage n s)

/-! ## ATTEMPT_TIMEOUT (R350) -/

/-- The die's attempt for a line changed. -/
def modAttempt (pkg die : Nat) (l : Line) (f : Attempt → Attempt) (s : State) : State :=
  { s with attempts := s.attempts.map fun a => if a.pkg == pkg && a.die == die && a.line == l then f a else a }

/-- A persistent request on its way to the line's arbiter. -/
def sendPersistent (pkg die : Nat) (l : Line) (s : State) : State := { s with net := s.net ++ [.persistent l pkg die] }

/-- ATTEMPT_TIMEOUT: 2,048 cycles have passed; the first time the die asks again, the second time it sends a persistent
request. -/
def attemptTimeout (pkg die : Nat) (l : Line) (s : State) : State :=
  match s.attempt pkg die l with
  | none => s
  | some a =>
    if a.persistent || s.now < a.since + 2048 then s
    else if a.fails = 0 then sendTransients pkg die l a.write (modAttempt pkg die l (fun a => { a with fails := 1, since := s.now }) s)
    else sendPersistent pkg die l (modAttempt pkg die l (fun a => { a with fails := a.fails + 1, persistent := true, since := s.now }) s)

/-- ATTEMPT_TIMEOUT (R350). -/
def execAttemptTimeout (pkg die : Nat) (l : Line) (s : State) : Out := .next (attemptTimeout pkg die l s)

/-! ## Arbiters (R352) -/

/-- The arbiter of a line, which is its memory home (R347): the tier controller of its package, or a quarry core: that of a quarry-local
frame, or the one beside the pseudo-channel of a stack-spread frame (R320; assumption log 25). -/
def State.arbiterOf (s : State) (l : Line) : Nat :=
  let pa := l.idx * 64
  let key := memKey l.pkg pa
  l.pkg * 256 + if 2 ^ 39 ≤ pa then 192 else
    match s.locals.find? fun r => decide (r.1 ≤ key) && decide (key < r.1 + r.2.1) with
    | some r => r.2.2
    | none => pa / 2 ^ 36 % 8 * 24 + pa / 256 % 96 / 4

/-- An arbiter's queue. -/
def State.arbiter (s : State) (k : Nat) : List PersReq := mapGet [] s.arbiters k

/-- An arbiter's queue set. -/
def State.setArbiter (s : State) (k : Nat) (q : List PersReq) : State := { s with arbiters := mapSet [] s.arbiters k q }

/-- The first request that may become active: no other is active for its line, fewer than 4 lines are, and its line is not being
recreated. -/
def nextActive (s : State) (q : List PersReq) : Option PersReq :=
  if 4 ≤ (q.filter (·.active)).length then none
  else q.find? fun r => !r.active && (s.line r.line).active.isNone && (s.line r.line).collecting.isNone

/-- The next requests of an arbiter activated: ACTIVE goes to every holder. `n` bounds how many. -/
def activate (k : Nat) : Nat → State → State
  | 0, s => s
  | n + 1, s =>
    match nextActive s (s.arbiter k) with
    | none => s
    | some r =>
      let s := s.setArbiter k ((s.arbiter k).map fun x => if x = r then { x with active := true } else x)
      let s := s.setLine r.line { s.line r.line with active := some (reqHolder r.pkg r.die), told := [] }
      activate k n { s with net := s.net ++ s.holders.map fun h => Msg.active r.line r.pkg r.die h }

/-- The place of a requester among those of one cycle: dies by rank (R58), and a migration agent and a memory home behind the dies of its
package. -/
def PersReq.rank (r : PersReq) : Nat := 6 * r.pkg + r.die

/-- A request placed behind those that arrived before it, and among those of its own cycle in ascending die rank. -/
def enqueueReq (r : PersReq) : List PersReq → List PersReq
  | [] => [r]
  | x :: xs =>
    if x.came = r.came ∧ !x.active ∧ r.rank < x.rank then r :: x :: xs else x :: enqueueReq r xs

/-- PERSISTENT_REQUEST: it joins the queue of 32, or is answered NACK and sent again after 256 cycles. -/
def persistentRequest (n : Nat) (s : State) : State :=
  match s.take n with
  | some (.persistent l pkg die, s1) =>
    let k := s.arbiterOf l
    if s.gone (reqHolder pkg die) then s1
    else if 32 ≤ (s1.arbiter k).length then modAttempt pkg die l (fun a => { a with retryAt := some (s.now + 256) }) s1
    else activate k 4 (s1.setArbiter k (enqueueReq { pkg := pkg, die := die, line := l, came := s.now, active := false } (s1.arbiter k)))
  | _ => s

/-- PERSISTENT_REQUEST (R352). -/
def execPersistentRequest (n : Nat) (s : State) : Out := .next (persistentRequest n s)

/-- PERSISTENT_RETRY (R352). -/
def persistentRetry (pkg die : Nat) (l : Line) (s : State) : State :=
  match s.attempt pkg die l with
  | some { retryAt := some t, .. } =>
    if t ≤ s.now then sendPersistent pkg die l (modAttempt pkg die l (fun a => { a with retryAt := none }) s) else s
  | _ => s

/-- PERSISTENT_RETRY (R352). -/
def execPersistentRetry (pkg die : Nat) (l : Line) (s : State) : Out := .next (persistentRetry pkg die l s)

/-- ACTIVE: a holder sends every token to the requester, and forwards what arrives later; one that holds the line fast does so
once the pin or lease ends. -/
def active (n : Nat) (s : State) : State :=
  match s.take n with
  | some (.active l pkg die h, s1) =>
    let req : Holder := reqHolder pkg die
    if s.gone h then s1
    else if h ≠ req ∧ s.heldFast l h then s
    else
      let ls := s1.line l
      let s2 := s1.setLine l { ls with told := ls.told ++ [h] }
      if h = req then sayDone pkg die l s2 else sendAll l h req s2
  | _ => s

/-- ACTIVE (R352). -/
def execActive (n : Nat) (s : State) : Out := .next (active n s)

/-- A message of an activation that is on its way for the line. -/
def Msg.activates (l : Line) : Msg → Bool
  | .active l' _ _ _ => l' == l
  | _ => false

/-- A message that ends an activation and is on its way for the line. -/
def Msg.inactivates (l : Line) : Msg → Bool
  | .inactive l' _ => l' == l
  | _ => false

/-- An access still waits for the line at the requester: of a core, as it stands or in the line's queue, or of an engine (R350). -/
def State.dieWaits (s : State) (pkg die : Nat) (l : Line) : Bool :=
  let h : Holder := reqHolder pkg die
  (s.cores.any fun k => k.task.st == .running && (k.task.wait.isAt l h || k.task.rep.wait.isAt l h))
    || ((s.waiting l).any fun e => e.home == h)
    || (s.line l).wants.any fun w => w.2 == h

/-- DONE: every holder has been reached and the accesses that waited have been performed; the arbiter sends INACTIVE. -/
def done (n : Nat) (s : State) : State :=
  match s.take n with
  | some (.done l pkg die, s1) =>
    if s1.net.any (Msg.activates l) || s.dieWaits pkg die l then s
    else { s1 with net := s1.net ++ s1.holders.map fun h => Msg.inactive l h }
  | _ => s

/-- DONE (R352). -/
def execDone (n : Nat) (s : State) : Out := .next (done n s)

/-- INACTIVE: the holder forwards no more; with the last receipt the request is over and the next is activated. -/
def inactive (n : Nat) (s : State) : State :=
  match s.take n with
  | some (.inactive l h, s1) =>
    let ls := s1.line l
    let s2 := s1.setLine l { ls with told := ls.told.erase h }
    if s2.net.any (Msg.inactivates l) then s2
    else
      let k := s.arbiterOf l
      let s3 := s2.setLine l { s2.line l with active := none, told := [] }
      activate k 4 (s3.setArbiter k ((s3.arbiter k).filter fun r => !(r.line == l && r.active)))
  | _ => s

/-- INACTIVE (R352). -/
def execInactive (n : Nat) (s : State) : Out := .next (inactive n s)

/-! ## LINK_DOWN, LOSS_LOG_ENTRY, COLLECT and LINE_RECREATION (R354, R355) -/

/-- The number of a die in a domain: compute dies 0 to 3 and the abutment die 4 of each package. -/
def dieNode (pkg unit : Nat) : Nat := 5 * pkg + unit

/-- The die at which a holder of a line lies: the memory home beside its stack, or the tier controller on the abutment die
(R327, R347). -/
def holderNode (l : Line) (h : Holder) : Nat :=
  match h with
  | .die p d => dieNode p d
  | .home => dieNode l.pkg (if 2 ^ 39 ≤ l.idx * 64 then 4 else l.idx * 64 / 2 ^ 37 % 4)

/-- The number of the viaduct link between two neighbouring dies (assumption log 26). -/
def linkOf (a b : Nat) : Nat := min a b * 20 + max a b

/-- The dies of one package on the way from a die to another, without the first: compute dies pass along a row first, and the abutment die
meets each of them (R2, R3, R7; DESIGN CHOICE, assumption log 26). -/
def unitRoute (u v : Nat) : List Nat :=
  if u = v then [] else if u = 4 ∨ v = 4 ∨ u % 2 = v % 2 ∨ u / 2 = v / 2 then [v] else [u / 2 * 2 + v % 2, v]

/-- The external port over which a message of a line goes between two packages, as the number of its link: port `j` of each package joins port `j`
of one other, ports 0 to 2 of the package whose number differs in bit 0 alone, 3 to 5 in bit 1 alone, 6 and 7 in both, and a line keeps to one of them by its
index (R7; DESIGN CHOICE, assumption log 26). -/
def extLink (p q idx : Nat) : Nat :=
  let d := p ^^^ q
  400 + 8 * min p q + (if d = 1 then idx % 3 else if d = 2 then 3 + idx % 3 else 6 + idx % 2)

/-- The dies on the way between two dies of the domain: packages meet at their abutment dies, which carry the external ports (R2, R7;
DESIGN CHOICE, assumption log 26). -/
def nodeRoute (a b : Nat) : List Nat :=
  let go (p u v : Nat) : List Nat := (unitRoute u v).map (dieNode p)
  a :: if a / 5 = b / 5 then go (a / 5) (a % 5) (b % 5) else go (a / 5) (a % 5) 4 ++ dieNode (b / 5) 4 :: go (b / 5) 4 (b % 5)

/-- The link between two dies that are next to each other on the way of a line's message. -/
def hopLink (l : Line) (a b : Nat) : Nat := if a / 5 = b / 5 then linkOf a b else extLink (a / 5) (b / 5) l.idx

/-- The way of a line's message between two dies goes over the link. -/
def routeCrosses (link : Nat) (l : Line) (a b : Nat) : Bool :=
  let r := nodeRoute a b
  (r.zip r.tail).any fun p => hopLink l p.1 p.2 == link

/-- The number is that of a link between two dies of a package, or of an external port of the lower of the two packages that it joins (R7). -/
def linkIs (link : Nat) : Bool :=
  if link < 400 then
    decide (link / 20 < link % 20) && link / 20 / 5 == link % 20 / 5 && nodeRoute (link / 20) (link % 20) == [link / 20, link % 20]
  else
    let p := (link - 400) / 8
    let j := (link - 400) % 8
    decide (p < 4) && decide (p < p ^^^ (if j < 3 then 1 else if j < 6 then 2 else 3))

/-- A token message crosses the link. -/
def Msg.crosses (link : Nat) : Msg → Bool
  | .tokens l src dst _ _ _ _ _ _ => routeCrosses link l (holderNode l src) (holderNode l dst)
  | _ => false

/-- The loss log entry of a token message. -/
def Msg.logged (link : Nat) (m : Msg) : Msg :=
  match m with
  | .tokens l _ _ count owner dirty _ gen _ => if m.crosses link then .lossLog l gen count owner dirty else m
  | m => m

/-- LINK_DOWN: the token messages in the link's retry buffers are lost, and their log entries go to the arbiters. Every token message on its
way over the link is taken as being there (DESIGN CHOICE, assumption log 26). -/
def linkDown (link : Nat) (s : State) : State :=
  if s.downLinks.contains link || !linkIs link then s
  else { s with downLinks := s.downLinks ++ [link], net := s.net.map (Msg.logged link) }

/-- LINK_DOWN (R354). -/
def execLinkDown (link : Nat) (s : State) : Out := .next (linkDown link s)

/-- A message of a line's activation, in either direction. -/
def Msg.ofActivation (l : Line) : Msg → Bool
  | .active l' _ _ _ => l' == l
  | .done l' _ _ => l' == l
  | .inactive l' _ => l' == l
  | _ => false

/-- A recreation starts: the active request is kept at the head of the queue, the generation rises, and COLLECT goes to every
holder. -/
def recreate (l : Line) (lostClean : Bool) (s : State) : State :=
  let ls := s.line l
  if ls.collecting.isSome then s
  else
    let k := s.arbiterOf l
    let q := s.arbiter k
    let kept := (q.filter fun r => r.line == l && r.active).map fun r => { r with active := false }
    let s := s.setArbiter k (kept ++ q.filter fun r => !(r.line == l && r.active))
    let g := (ls.gen + 1) % 16
    let s := s.setLine l { ls with
      active := none, told := [], gen := g, collecting := some s.holders, lostClean := lostClean, ownerBack := false }
    { s with net := (s.net.filter fun m => !m.ofActivation l) ++ s.holders.map fun h => Msg.collect l g h }

/-- LOSS_LOG_ENTRY: an entry of an older generation is discarded. -/
def lossLogEntry (n : Nat) (s : State) : State :=
  match s.take n with
  | some (.lossLog l gen _ owner dirty, s1) => if gen = (s1.line l).gen then recreate l (owner && !dirty) s1 else s1
  | _ => s

/-- LOSS_LOG_ENTRY (R355). -/
def execLossLogEntry (n : Nat) (s : State) : Out := .next (lossLogEntry n s)

/-- COLLECT: the holder's tokens go back to the arbiter, with the owner's data, and its copy is dropped. Their stamps go with
them (R399). -/
def collect (n : Nat) (s : State) : State :=
  match s.take n with
  | some (.collect l g h, s1) =>
    let ls := s1.line l
    match ls.collecting with
    | some hs =>
      if g ≠ ls.gen then s1
      else
        let t := ls.at_ h
        let stamp := if h = .home then ls.stamp else stampMerge ls.stamp t.stamp
        let ls := ls.put { t with count := 0, owner := false, data := false, stamp := none }
        dropCopy l h <| s1.setLine l { ls with collecting := some (hs.erase h), ownerBack := ls.ownerBack || t.owner, stamp := stamp }
    | none => s1
  | _ => s

/-- COLLECT (R355). -/
def execCollect (n : Nat) (s : State) : Out := .next (collect n s)

/-- LINE_RECREATION: every holder has answered; the memory home holds 16 tokens of the new generation, and a line whose owner was
lost dirty, or with a failed die, is poisoned. -/
def lineRecreation (l : Line) (s : State) : State :=
  let ls := s.line l
  match ls.collecting with
  | some [] =>
    let ls' : LineState :=
      { ls with
        homeCount := 16, homeOwner := true, others := [], dirty := false, collecting := none, lostClean := false, ownerBack := false
        poison := ls.poison || !(ls.ownerBack || ls.lostClean) }
    activate (s.arbiterOf l) 4 (s.setLine l ls')
  | _ => s

/-- LINE_RECREATION (R355). -/
def execLineRecreation (l : Line) (s : State) : Out := .next (lineRecreation l s)

end Sys2Proof.Machine
end

