-- ==== Sys2Proof/Machine/Failover.lean ====
section
/-!
DEFINITION. Dies that fail (R58 to R62, R354): heartbeats and acknowledgements, fencing, the declaration of a failure with the
roles and tasks it touches, and the re-placement of a DETERMINATE launch's benches.
-/
namespace Sys2Proof.Machine

/-! ## Views -/

/-- What the launch's dispatchers know at a die. -/
def Launch.view (l : Launch) (rank : Nat) : Option DieView := l.dies.find? fun v => v.rank == rank

/-- A die's view changed. -/
def Launch.modView (rank : Nat) (f : DieView → DieView) (l : Launch) : Launch :=
  { l with dies := l.dies.map fun v => if v.rank = rank then f v else v }

/-- A time listed for a die within the last `n`. -/
def recent (now n rank : Nat) (m : Map Nat) : Bool :=
  match mapFind rank m with
  | some t => decide (now ≤ t + n)
  | none => false

/-! ## HEARTBEAT_TIMER, HEARTBEAT and HEARTBEAT_ACK (R58, R60) -/

/-- HEARTBEAT_TIMER: every microsecond a die that is neither fenced nor failed sends a heartbeat with its heard set. -/
def heartbeatTimer (n pkg die : Nat) (s : State) : State :=
  match s.launch? n with
  | none => s
  | some l =>
    let r := dieRank pkg die
    match l.view r with
    | none => s
    | some v =>
      if !l.live || v.fenced || v.failed || s.time < v.beat + micros 1 then s
      else
        let peers := (l.dies.map (·.rank)).filter (· != r)
        let heard := peers.filter fun q => recent s.time (micros 10) q v.heard
        let s := s.modLaunch n (Launch.modView r fun v => { v with beat := s.time })
        { s with net := s.net ++ peers.map fun q => Msg.heartbeat n r q heard }

/-- HEARTBEAT_TIMER (R58). -/
def execHeartbeatTimer (launch pkg die : Nat) (s : State) : Out := .next (heartbeatTimer launch pkg die s)

/-- HEARTBEAT: the receiver records it and its heard set, and acknowledges it unless it is fenced. A failed die receives
nothing. -/
def heartbeat (n : Nat) (s : State) : State :=
  match s.take n with
  | some (.heartbeat ln src dst heard, s) =>
    match (s.launch? ln).bind fun l => l.view dst with
    | none => s
    | some v =>
      if v.failed then s
      else
        let note (m : Map Nat) (q : Nat) : Map Nat := mapPut q s.time m
        let s := s.modLaunch ln (Launch.modView dst fun v =>
          { v with heard := note v.heard src, seen := (src :: heard.filter (· != dst)).foldl note v.seen })
        if v.fenced then s else { s with net := s.net ++ [Msg.heartbeatAck ln dst src] }
  | _ => s

/-- HEARTBEAT (R60). -/
def execHeartbeat (n : Nat) (s : State) : Out := .next (heartbeat n s)

/-- HEARTBEAT_ACK: it keeps the heartbeat's sender active. -/
def heartbeatAck (n : Nat) (s : State) : State :=
  match s.take n with
  | some (.heartbeatAck ln src dst, s) => s.modLaunch ln (Launch.modView dst fun v => { v with acked := mapPut src s.time v.acked })
  | _ => s

/-- HEARTBEAT_ACK (R60). -/
def execHeartbeatAck (n : Nat) (s : State) : Out := .next (heartbeatAck n s)

/-! ## Ends of launches -/

/-- A launch that loses its dies ends or drains with ABORTED_PARTIAL (R57, R60, R61). -/
def abortLaunch (n : Nat) (s : State) : State :=
  match s.launch? n with
  | none => s
  | some l =>
    if l.st = .queued then answerWaits (settleGraph l.graph (endLaunchAs 2 n s)) else drainLaunch 2 n s

/-! ## FENCE_TIMEOUT (R60) -/

/-- The die is active: it counts itself and the dies that have acknowledged within 8 µs, of the dies that serve the
launch (assumption log 28). -/
def Launch.active (l : Launch) (now : Nat) (v : DieView) : Bool :=
  let others := ((l.dies.map (·.rank)).filter (· != v.rank)).filter fun q => recent now (micros 8) q v.acked
  let count := others.length + 1
  let n := l.dies.length
  decide (n < 2 * count) || (2 * count == n && match l.keystone with
    | some k => k == v.rank || others.contains k
    | none => false)

/-- The cores of a die. -/
def State.dieCores (s : State) (rank : Nat) : List CoreId :=
  (s.cores.filter fun k => match k.place.die with
    | some d => dieRank k.place.pkg d == rank
    | none => false).map (·.id)

/-- The tasks of a launch on the current core stop: their parked stores are discarded and their engines stopped. -/
def fenceCore (n : Nat) (s : State) : State :=
  let stop (s : State) (i : Nat) : State :=
    asOwner n i (fun s => stopEngines (s.modTask fun t => { t with replay := [] })) s
  (((s.core.task :: s.core.saved).filter fun t => t.launch == n && t.st != .none && t.st != .ended).map (·.index)).foldl stop s

/-- The tasks of a launch on a core, lost (R61): no context of them is kept. -/
def loseTasks (n : Nat) (s : State) : State :=
  let s := if s.task.launch = n ∧ s.task.st ≠ .none ∧ !(s.task.st = .ended ∧ s.task.reported) then
      (freeCore (endLease (fenceCore n (dropWait s)))).modTask fun t => { t with st := .lost, wait := .none, gang := 0, gangDone := false, draining := none, trap := none, xphase := none }
    else fenceCore n s
  { s with core := { s.core with saved := s.core.saved.filter fun t => t.launch != n }, traps := s.traps.erase s.core.id }

/-- No die of the launch is left: its tasks are lost, and it ends (R60). -/
def loseLaunch (n : Nat) (s : State) : State :=
  match s.launch? n with
  | none => s
  | some l =>
    let s := onCores (loseTasks n) ((l.dies.flatMap fun v => s.dieCores v.rank)) s
    abortLaunch n (s.modLaunch n fun l => { l with pending := [], grants := l.grants.map fun g => if g.done then g else { g with lost := true } })

/-- FENCE_TIMEOUT: a die that is not active fences itself for the launch and raises a health alert. -/
def fenceTimeout (n pkg die : Nat) (s : State) : State :=
  match s.launch? n with
  | none => s
  | some l =>
    let r := dieRank pkg die
    match l.view r with
    | none => s
    | some v =>
      if !l.live || v.fenced || v.failed || l.active s.time v then s
      else
        let s := onCores (fenceCore n) (s.dieCores r) (s.modLaunch n (Launch.modView r fun v => { v with fenced := true }))
        let s := notify pkg .health s
        match s.launch? n with
        | some l => if l.healthy.isEmpty then loseLaunch n s else s
        | none => s

/-- FENCE_TIMEOUT (R60). -/
def execFenceTimeout (launch pkg die : Nat) (s : State) : Out := .next (fenceTimeout launch pkg die s)

/-! ## DIE_FAILED (R58, R61, R354) -/

/-- Every dispatcher of the launch that is neither fenced nor failed has seen no heartbeat of the die for 10 µs. -/
def Launch.silent (l : Launch) (now rank : Nat) : Bool :=
  l.dies.all fun v => v.rank == rank || v.fenced || v.failed || (match mapFind rank v.seen with
    | some t => decide (t + micros 10 ≤ now)
    | none => true)

/-- The launch is served by the die, which it does not know to have failed. -/
def Launch.servedBy (l : Launch) (rank : Nat) : Bool := l.live && l.dies.any fun v => v.rank == rank && !v.failed

/-- Indices in ascending order. -/
def insertIdx (i : Nat) : List Nat → List Nat
  | [] => [i]
  | j :: js => if i < j then i :: j :: js else if i = j then j :: js else j :: insertIdx i js

/-- The roles after a die has failed, and whether both were lost (R61). A role's holder that is fenced is lost too. -/
def Launch.reassign (rank : Nat) (l : Launch) : Launch × Bool :=
  let next (k : Nat) : Option Nat := (l.healthy.filter (· != k))[0]?
  if l.keystone = some rank then
    match l.deputy with
    | some d => if l.healthy.contains d then ({ l with keystone := some d, deputy := next d }, false) else (l.roles, true)
    | none => (l.roles, true)
  else if l.deputy = some rank then
    match l.keystone with
    | some k => if l.healthy.contains k then ({ l with deputy := next k }, false) else (l.roles, true)
    | none => (l.roles, true)
  else (l, false)

/-- A grant that only the lost keystone knew of, or that is on its way to a core of the failed die, has not been made. -/
def Launch.unsent (l : Launch) (rank : Nat) : List Nat :=
  (l.pending.filter fun p => l.keystone == some rank || l.grants.any fun g => g.index == p.1 && g.rank == rank).map (·.1)

/-- The launch after a die of it has failed: its tasks there are lost, and their indices are granted again (R61). `undone` counts
tasks there that had ended and were not reported. -/
def Launch.lose (rank undone : Nat) (l : Launch) : Launch :=
  let unsent := l.unsent rank
  let lost (g : GrantRec) : Bool := !g.done && !g.lost && (g.rank == rank || unsent.contains g.index)
  let again := (l.grants.filter lost).map (·.index)
  { l with
    counter := l.counter - undone
    pending := l.pending.filter fun p => !unsent.contains p.1
    grants := l.grants.map fun g => if lost g then { g with lost := true } else g
    lostIdx := if l.stopped || l.noreissue then l.lostIdx else again.foldl (fun is i => insertIdx i is) l.lostIdx }

/-- Tasks of the launch on the current core that have ended and are not reported. -/
def Core.unreported (n : Nat) (k : Core) : Nat :=
  ((k.task :: k.saved).filter fun t => t.launch == n && t.st == .ended && !t.reported).length

/-- A die's failure for one launch. A launch that is still QUEUED goes on unless no die of it is left: only a RUNNING or DRAINING one is
marked (R57, R60, R61). -/
def failLaunch (rank n : Nat) (s : State) : State :=
  match s.launch? n with
  | none => s
  | some l =>
    if !l.servedBy rank then s.modLaunch n (Launch.modView rank fun v => { v with failed := true })
    else
      let cores := s.dieCores rank
      let undone := ((cores.filterMap s.findCore).map (Core.unreported n)).sum
      let hit := l.grants.any fun g => g.rank == rank && !g.done && !g.lost
      let s := onCores (loseTasks n) cores s
      let (l', both) := (Launch.modView rank (fun v => { v with failed := true }) (((s.launch? n).getD l).lose rank undone)).reassign rank
      let s := s.modLaunch n fun _ => l'
      if l'.healthy.isEmpty then loseLaunch n s
      else if l.st ≠ .queued ∧ (both ∨ l.noreissue ∨ (l.stopped ∧ hit)) then abortLaunch n s
      else checkLaunch n s

/-- A message from or to a failed die, that nothing waits for: it receives nothing, and answers nothing (R58, R355). -/
def Msg.ofDead (h : Holder) : Msg → Bool
  | .transient _ p d _ t => t == h || .die p d == h
  | .tokens _ _ t _ _ _ _ _ _ => t == h
  | .persistent _ p d => .die p d == h
  | .active _ p d t => t == h || .die p d == h
  | .done _ p d => .die p d == h
  | .collect _ _ t => t == h
  | _ => false

/-- What the failed die held is gone: its attempts and requests, the active one too, its messages, its L2, and the pins, leases and
requests of its cores. -/
def forgetDie (pkg die : Nat) (s : State) : State :=
  let dead := s.dieCores (dieRank pkg die)
  let h : Holder := .die pkg die
  { s with
    net := s.net.filter fun m => !(m.ofDead h || match m with
      | .inactive l _ => (s.line l).active == some h
      | _ => false)
    attempts := s.attempts.filter fun a => !(a.pkg == pkg && a.die == die)
    arbiters := s.arbiters.filterMap fun (k, q) =>
      let q' := q.filter fun r => !(r.pkg == pkg && r.die == die)
      if q'.isEmpty then none else some (k, q')
    l2 := s.l2.filter fun (k, _) => k / 4096 / 64 != pkg * 4 + die
    lines := s.lines.filterMap fun (k, ls) =>
      let ls' : LineState := { ls with
        others := ls.others.filter fun t => t.holder != h
        active := ls.active.filter (· != h)
        told := if ls.active = some h then [] else ls.told.erase h
        wants := ls.wants.filter fun w => w.2 != h
        pins := ls.pins.filter fun p => !dead.contains p.1.who
        lease := ls.lease.filter fun c => !dead.contains c
        queue := ls.queue.filter fun e => !dead.contains e.who
        collecting := ls.collecting.map fun hs => hs.filter (· != h) }
      if ls' = {} then none else some (k, ls') }

/-- Every memory home sweeps the lines of which it holds fewer than 16 tokens (R354). -/
def sweep (s : State) : State :=
  (s.lines.filter fun (_, ls) => ls.homeCount != 16).foldl (fun s (k, _) => recreate { pkg := k / 2 ^ 46, idx := k % 2 ^ 46 } false s) s

/-- Every arbiter takes up the next of its requests. -/
def activateAll (s : State) : State := (s.arbiters.map (·.1)).foldl (fun s k => activate k 4 s) s

/-- What a die that has failed for every launch has sent and holds is gone, and the homes sweep (R354, R355). -/
def loseDie (pkg die : Nat) (s : State) : State :=
  let s := activateAll (sweep (forgetDie pkg die s))
  { s with net := s.net.filter fun m => match m with
      | .remote who _ _ _ _ _ _ => !(s.dieCores (dieRank pkg die)).contains who
      | _ => true }

/-- DIE_FAILED: the dispatchers of a launch have not heard of the die for 10 µs, and declare it failed for that launch (R58). Once no launch
is left that it serves, it has failed for the domain; till then it answers as a holder of tokens, and the homes sweep (R354; DESIGN CHOICE,
assumption log 68). -/
def dieFailed (pkg die : Nat) (s : State) : State :=
  let r := dieRank pkg die
  let due (l : Launch) : Bool := l.servedBy r && l.silent s.time r
  if s.failed.contains r ∨ 4 ≤ die ∨ !(s.launches.any fun (_, l) => due l) then s
  else if s.launches.any fun (_, l) => l.servedBy r && !due l then
    sweep (((s.launches.filter fun (_, l) => due l).map (·.1)).foldl (fun s n => failLaunch r n s) s)
  else loseDie pkg die ((s.launches.map (·.1)).foldl (fun s n => failLaunch r n s) { s with failed := s.failed ++ [r] })

/-- DIE_FAILED (R61). -/
def execDieFailed (pkg die : Nat) (s : State) : Out := .next (dieFailed pkg die s)

/-! ## BENCH_REPLACEMENT (R62) -/

/-- The physical bench may take a logical bench of the launch: a surviving die, the tenant's rectangle, and no other logical bench
of the launch there. -/
def replaceOk (s : State) (l : Launch) (bench : Nat) (p : Place) : Bool :=
  let t := s.tenant l.tenant
  let mine := (List.range l.n).map fun i => benchOf t.wl (l.f + i)
  benchOk s t p && !l.knowsFailed (dieRank p.pkg p.die) && t.places.all fun (b, q) => b == bench || q != p || !mine.contains b

/-- The physical benches of a tenant's rectangles. -/
def tenantBenches (t : Tenancy) : List Place :=
  t.rects.flatMap fun (p, r) => ((List.range 1024).map fun i => ({ pkg := p, die := i / 256, bench := i % 256 } : Place)).filter fun q => Place.inRect q r

/-- A core moved to its position of a physical bench. -/
def moveCore (p : Place) (s : State) : State :=
  { s with core := { s.core with place := Place.core p (Tenancy.seat (s.tenant s.core.id.tenant) s.core.id.lid), l1 := [], icache := [] } }

/-- The launch's lines of a bench configured afresh (R62, R147). -/
def freshLines (n : Nat) (l : Launch) (b : BenchId) (s : State) : State :=
  l.lines.foldl (fun s (i, kind, arr) => s.modLine b (Fin.ofNat 32 i) fun _ => { kind := kind, arrivals := arr, held := some n }) s

/-- A die's view placed by its rank (R58). -/
def insertView (v : DieView) : List DieView → List DieView
  | [] => [v]
  | u :: us => if v.rank < u.rank then v :: u :: us else u :: insertView v us

/-- A die begins to serve the launch, having heard from the others just now; the roles go to the lowest-ranked healthy dies
(R58). -/
def Launch.addDie (now rank : Nat) (l : Launch) : Launch :=
  if (l.view rank).isSome then l
  else
    let ranks := rank :: l.dies.map (·.rank)
    let fresh : Map Nat := (List.range 16).filterMap fun r => if ranks.contains r then some (r, now) else none
    let known := l.dies.map fun v => { v with heard := mapPut rank now v.heard, seen := mapPut rank now v.seen, acked := mapPut rank now v.acked }
    ({ l with dies := insertView { rank := rank, fenced := false, failed := false, beat := now, heard := fresh, seen := fresh, acked := fresh } known } : Launch).roles

/-- BENCH_REPLACEMENT: the supervisor re-places a logical bench that lay on a failed die; where the tenant's rectangles hold no
bench for it, the launch drains to ABORTED_PARTIAL. -/
def benchReplacement (n bench : Nat) (p : Place) (s : State) : State :=
  match s.launch? n with
  | none => s
  | some l =>
    let t := s.tenant l.tenant
    let away := match mapFind bench t.places with
      | some q => s.failed.contains (dieRank q.pkg q.die) || l.knowsFailed (dieRank q.pkg q.die)
      | none => false
    let mine := (List.range l.n).any fun i => benchOf t.wl (l.f + i) == bench
    if !l.live || !l.determinate || !away || !mine then s
    else if replaceOk s l bench p then
      let b : BenchId := { tenant := l.tenant, bench := bench }
      let cores := (List.range 8).map fun i => ({ tenant := l.tenant, lid := lidAt t.wl bench i } : CoreId)
      let s := { s with tenants := mapPut l.tenant { t with places := mapPut bench p t.places } s.tenants }
      let s := onCores (moveCore p) cores s
      (freshLines n l b s).modLaunch n (Launch.addDie s.time (dieRank p.pkg p.die))
    else if (tenantBenches t).any (replaceOk s l bench) then s
    else abortLaunch n s

/-- BENCH_REPLACEMENT (R62). -/
def execBenchReplacement (launch bench : Nat) (p : Place) (s : State) : Out := .next (served p.pkg (benchReplacement launch bench p) s)

end Sys2Proof.Machine
end

