-- ==== Sys2Proof/Machine/Firmware.lean ====
section
/-!
DEFINITION. Boot and attestation (R408, R409, R417), firmware update and switchover (R410, R411), and the clock and health of a
package (R413 to R415).
-/
namespace Sys2Proof.Machine

/-! ## BOOT and ATTEST (R408, R409) -/

/-- A measurement register extended by the digest of some bytes (R409). -/
def extendBytes (i : Nat) (bs : List Byte) (p : Package) : Package :=
  let n : Fin 8 := Fin.ofNat 8 i
  let digest := Config.sha384 bs
  { p with measures := p.measures.set n.val (Config.sha384 (bytesOf p.measures[n].toNat 48 ++ bytesOf digest.toNat 48)) }

/-- A verified image extends a measurement register (R409). -/
def extend (i : Nat) (img : Image) (p : Package) : Package := extendBytes i img.bytes p

/-- Register 0 holds the boot ROM and the first stage (R409). -/
def extendFirst (pkg : Nat) (first : Image) (p : Package) : Package := extend 0 first (extendBytes 0 (Config.bootRom pkg) p)

/-- An image verifies under both keys, and its security version is at least the fused minimum (R408). -/
def imageOk (pkg : Nat) (img : Image) : Bool := img.rsaOk && img.slhOk && decide (Config.fusedMin pkg ≤ img.version)

/-- The versions of the viaduct link protocol that the device supports (R417). -/
def linkVersions : List (Nat × Nat) := [(2, 3), (3, 2)]

/-- The versions of the firmware ABI that the device supports (R417). -/
def abiVersions : List (Nat × Nat) := [(1, 4)]

/-- The version selected on each external link of a package, by port, from what the partners advertise; `none` where one has no common major
and is refused (R7, R416). -/
def linksOf : List (Nat × List (Nat × Nat)) → Option (Map (Nat × Nat))
  | [] => some []
  | (j, vs) :: rest =>
    match selectVersion linkVersions vs, linksOf rest with
    | some v, some m => if j < 8 then some (mapPut j v m) else none
    | _, _ => none

/-- The supervisor cores of a package: they lie on the abutment die (R2, R179). -/
def supervisorCores (pkg : Nat) : List Core :=
  (List.range 16).map fun i =>
    { Core.idle { tenant := 0, lid := 16 * pkg + i } .supervisor with place := { pkg := pkg, unit := 12, col := i } }

/-- BOOT: the four steps in order; a failure at one halts the package with its number. `first` is the first-stage image, `serviceUp` says that
the service has started, and `peers` are the versions that the partners of the external links advertise, by port. A link that is refused
is one that step 2 does not bring up (R416; DEDUCED, assumption log 69), and an image without a common ABI version fails step 3 (DEDUCED,
assumption log 70). A failure at step 3 leaves registers 1 and 2 as they are, also where the firmware image alone verifies (R409; DEDUCED,
assumption log 114). The process monitors have set the dies' supply voltages (R414; assumption log 107). -/
def boot (pkg : Nat) (first firmware service : Image) (linkUp sramOk serviceUp : Bool) (peers : List (Nat × List (Nat × Nat))) (s : State) : State :=
  let p := s.pkg pkg
  let halt (n : Nat) (f : Package → Package) : State := s.modPkg pkg fun p => { f p with haltStep := n }
  if decide (4 ≤ pkg) || p.up || p.halted then s
  else if !imageOk pkg first then halt 1 id
  else
    let links := linksOf peers
    let abi := selectVersion abiVersions firmware.abi
    let supply := (List.range 4).map (Config.supply pkg)
    if !linkUp || !sramOk || links.isNone then halt 2 (extendFirst pkg first)
    else if !imageOk pkg firmware || !imageOk pkg service || abi.isNone then
      halt 3 fun p => { extendFirst pkg first p with links := links.getD [], supply := supply }
    else if !serviceUp then
      halt 4 fun p => { extend 2 service (extend 1 firmware (extendFirst pkg first p)) with links := links.getD [], supply := supply }
    else
      addCores (supervisorCores pkg) (s.modPkg pkg fun p =>
        { extend 2 service (extend 1 firmware (extendFirst pkg first p)) with
          links := links.getD [], supply := supply, up := true, active := 0, abi := abi.getD (1, 0)
          versions := [first.version, firmware.version, service.version], asidTable := Config.asidTable pkg })

/-- BOOT (R408). -/
def execBoot (pkg : Nat) (first firmware service : Image) (linkUp sramOk serviceUp : Bool) (peers : List (Nat × List (Nat × Nat))) (s : State) :
    Out :=
  .next (boot pkg first firmware service linkUp sramOk serviceUp peers s)

/-- What ATTEST signs: the registers, the security versions and the nonce (R409). -/
def attestBytes (p : Package) (nonce : List Byte) : List Byte :=
  p.measures.toList.flatMap (fun m => bytesOf m.toNat 48) ++ p.versions.flatMap (fun v => bytesOf v 8) ++ nonce

/-- ATTEST: the nonce has 32 bytes. -/
def attest (conn : Nat) (nonce : List Byte) (s : State) : State :=
  request conn (fun _ s =>
    let pkg := (s.client conn).pkg
    let p := s.pkg pkg
    if nonce.length ≠ 32 then answerTo conn .refused s
    else answerTo conn (.attested p.measures.toList p.versions nonce (Config.slhSign pkg (attestBytes p nonce))) s) s

/-- ATTEST (R409). -/
def execAttest (conn : Nat) (nonce : List Byte) (s : State) : Out := .next (attest conn nonce s)

/-! ## UPDATE and SWITCHOVER (R410, R411) -/

/-- The version of the firmware ABI at which an image runs with the major version in use: none where it does not support that major (R410,
R416). -/
def Package.abiWith (p : Package) (img : Image) : Option (Nat × Nat) := selectVersion (abiVersions.filter fun v => v.1 == p.abi.1) img.abi

/-- UPDATE: an image that verifies and supports the ABI in use is loaded into the standby half. -/
def update (conn : Nat) (img : Image) (s : State) : State :=
  request conn (fun _ s =>
    let pkg := (s.client conn).pkg
    let p := s.pkg pkg
    if !imageOk pkg img || (p.abiWith img).isNone || p.standby.isSome then answerTo conn (.updated false) s
    else s.modPkg pkg fun p => { extend 3 img p with standby := some { img := img, since := s.time, conn := conn } }) s

/-- UPDATE (R410). -/
def execUpdate (conn : Nat) (img : Image) (s : State) : Out := .next (update conn img s)

/-- The active half is at a quiescent point: no trap record of its package is open, and no migration or recreation is in progress
(R411). A collapse and a client request are single steps. -/
def State.quiescent (s : State) (pkg : Nat) : Bool :=
  s.traps.all (fun c => match s.findCore c with
    | some k => k.place.pkg != pkg
    | none => true)
  && s.moving.isEmpty && s.lines.all fun (k, ls) => k / 2 ^ 46 != pkg || ls.collecting.isNone

/-- The new active half resumes with what has been latched, under the ABI version that its image selects, and the update is answered (R411,
R416). -/
def resumeService (pkg : Nat) (s : State) : State :=
  match (s.pkg pkg).standby with
  | none => s
  | some b =>
    answerTo b.conn (.updated true) (s.modPkg pkg fun p =>
      { p with paused := none, standby := none, abi := (p.abiWith b.img).getD p.abi, versions := p.versions.take 1 ++ [b.img.version, b.img.version] })

/-- SWITCHOVER, whose steps are taken one after another: the standby half reports ready; at a quiescent point the active half stops taking
notifications, and the halves exchange their places; and the new active half resumes with what has been latched (assumption log 101). -/
def switchover (pkg : Nat) (s : State) : State :=
  let p := s.pkg pkg
  match p.standby with
  | none => s
  | some b =>
    if !p.runs then s
    else if p.paused.isSome then resumeService pkg s
    else if !b.ready then
      if s.time ≤ b.since + micros 1000 then s.modPkg pkg fun p => { p with standby := some { b with ready := true } } else s
    else if s.quiescent pkg then s.modPkg pkg fun p => { p with active := 1 - p.active, paused := some s.time }
    else s

/-- SWITCHOVER (R411). -/
def execSwitchover (pkg : Nat) (s : State) : Out := .next (switchover pkg s)

/-- SWITCHOVER_TIMEOUT: a standby half that is not ready within 1 ms is abandoned. -/
def switchoverTimeout (pkg : Nat) (s : State) : State :=
  match (s.pkg pkg).standby with
  | none => s
  | some b =>
    if !b.ready ∧ b.since + micros 1000 < s.time then answerTo b.conn (.updated false) (s.modPkg pkg fun p => { p with standby := none }) else s

/-- SWITCHOVER_TIMEOUT (R411). -/
def execSwitchoverTimeout (pkg : Nat) (s : State) : Out := .next (switchoverTimeout pkg s)

/-! ## Health and clock (R413 to R415) -/

/-- A time of `n` µs has passed since an event, if there was one. -/
def since (now n : Nat) (t : Option Nat) : Bool :=
  match t with
  | some t => decide (t + micros n ≤ now)
  | none => true

/-- The package runs and its firmware acts. -/
def State.alive (s : State) (pkg : Nat) : Bool := (s.pkg pkg).runs

/-- A reading crosses a threshold of R414. -/
def crosses (limit old new : Int) : Bool := decide (limit ≤ old) != decide (limit ≤ new)

/-- The temperature that a die's readings count as: too low a flow counts as 115 °C (R415). -/
def Sensors.temp (r : Sensors) : Int := if r.flowOk then r.maxTemp else max r.maxTemp 115

/-- SENSOR_POLL: every 10 µs the firmware reads the sensors of the four dies. -/
def sensorPoll (pkg : Nat) (readings : List Sensors) (s : State) : State :=
  let p := s.pkg pkg
  match readings.map Sensors.temp with
  | [] => s
  | t :: ts =>
    if readings.length ≠ 4 || !s.alive pkg || !since s.time 10 p.polled then s
    else
      let m := ts.foldl max t
      let alert := crosses 100 p.maxTemp m || crosses 105 p.maxTemp m || crosses 115 p.maxTemp m
      let s := s.modPkg pkg fun p =>
        { p with
          maxTemp := m, cool := decide (m < 100), polled := some s.time
          process := readings.map (·.process), rises := if 105 ≤ m then p.rises + 1 else p.rises
          stopped := p.stopped || decide (115 ≤ m) }
      if alert then notify pkg .health s else s

/-- SENSOR_POLL (R414). -/
def execSensorPoll (pkg : Nat) (readings : List Sensors) (s : State) : Out := .next (sensorPoll pkg readings s)

/-- DROOP_EVENT: k is to rise by 1. -/
def droopEvent (pkg die : Nat) (s : State) : State :=
  if decide (4 ≤ die) || !s.alive pkg then s
  else s.modPkg pkg fun p => { p with droops := p.droops + 1, lastDroop := some s.time, rises := p.rises + 1 }

/-- DROOP_EVENT (R414). -/
def execDroopEvent (pkg die : Nat) (s : State) : Out := .next (droopEvent pkg die s)

/-- HEALTH_RECORD: every 1 ms, with the module power averaged over it and the count of corrected errors; above 2,800 W k is to rise by 1. -/
def healthRecord (pkg power : Nat) (s : State) : State :=
  let p := s.pkg pkg
  if !s.alive pkg || !since s.time 1000 p.recorded then s
  else
    let r : HealthRec := { maxTemp := p.maxTemp, droops := p.droops, k := s.k, power := power, corrected := p.corrected }
    let s := s.modPkg pkg fun p =>
      { p with records := p.records ++ [r], power := power, recorded := some s.time, rises := if 2800 < power then p.rises + 1 else p.rises }
    if crosses 2801 p.power power then notify pkg .health s else s

/-- HEALTH_RECORD (R414). -/
def execHealthRecord (pkg power : Nat) (s : State) : Out := .next (healthRecord pkg power s)

/-- An error found in stored data (R412). One that is corrected is counted. Any other stays where it is, and every access that reads it takes
MEM_UE: a line of memory is poisoned (R356; assumption log 99). -/
def upset (u : Upset) (s : State) : State :=
  match u with
  | .corrected pkg => s.modPkg pkg fun p => { p with corrected := p.corrected + 1 }
  | .memLine l => s.setLine l { s.line l with poison := true }
  | .scratch c w => if 16384 ≤ w then s else onCore c (fun s => s.modTask fun t => { t with scratchBad := w :: t.scratchBad.filter (· != w) }) s
  | .l1Line c tag => onCore c (fun s => { s with core := { s.core with l1 := s.core.l1.map fun (i, es) =>
      (i, es.map fun e => if e.tag = tag then { e with bad := true } else e) } }) s
  | .slot c n row => if 144 ≤ row then s else onCore c (fun s => s.modTask fun t => t.modSlot n fun sl => { sl with bad := row :: sl.bad.filter (· != row) }) s
  | .acc c u => if 1024 ≤ u then s else onCore c (fun s => s.modTask fun t => { t with accBad := u :: t.accBad.filter (· != u) }) s
  | .icache c tag => onCore c (fun s => { s with core := { s.core with icache := s.core.icache.map fun e =>
      if e.tag = tag then { e with bad := true } else e } }) s
  | .tlb c va => onCore c (fun s => { s with tlbs := mapSet [] s.tlbs s.core.place.tlb ((mapGet [] s.tlbs s.core.place.tlb).map fun e =>
      if e.asid = s.asid ∧ e.va = va / e.leaf.size * e.leaf.size then { e with bad := true } else e) }) s

/-- Every package lets k fall: its sensors are cool, it has had no droop for 1 ms, and its power is within the limit (R414). -/
def State.mayFall (s : State) : Bool :=
  s.pkgs.all fun (_, p) => !p.runs || (p.cool && since s.time 1000 p.lastDroop && decide (p.power ≤ 2800))

/-- THROTTLE_STEP: the domain's firmware applies a change of k to every package at one instant: a rise that a package is owed, at
most to 40, or a fall, at most one each 1 ms (R413, R414). -/
def throttleStep (k : Nat) (s : State) : State :=
  let owed := s.pkgs.any fun (_, p) => decide (0 < p.rises)
  let paid (s : State) : State := { s with pkgs := s.pkgs.map fun (i, p) => (i, { p with rises := p.rises - 1 }) }
  if owed && (k == s.k + 1 || (k == 40 && s.k == 40)) && decide (k ≤ 40) then paid { s with k := k, stepped := s.time }
  else if !owed && k + 1 == s.k && s.mayFall && decide (s.stepped + micros 1000 ≤ s.time) then { s with k := k, stepped := s.time }
  else s

/-- THROTTLE_STEP (R413). -/
def execThrottleStep (k : Nat) (s : State) : Out := .next (throttleStep k s)

/-! ## Time and place (R411, R414) -/

/-- Cycles pass. A switchover whose pause has lasted 20 µs ends then at the latest (R411). -/
def passTime (n : Nat) (s : State) : State :=
  let s := tick n s
  ((s.pkgs.filter fun (_, p) => p.runs && p.paused.any fun t => decide (t + micros 20 ≤ s.time)).map (·.1)).foldl (fun s p => resumeService p s) s

/-- The package of a core. -/
def State.pkgOf (s : State) (c : CoreId) : Option Nat := (s.findCore c).map (·.place.pkg)

/-- The package in which a holder of a line lies. -/
def holderPkg (l : Line) : Holder → Nat
  | .die p _ => p
  | .home => l.pkg

/-- The package that a message reaches. -/
def State.reaches (s : State) : Msg → Option Nat
  | .release who _ _ => s.pkgOf who
  | .mcmd _ target _ _ _ => s.pkgOf target
  | .xline _ target _ _ _ _ => s.pkgOf target
  | .remote who owner _ _ _ _ _ => s.pkgOf { who with lid := owner }
  | .spanArrive _ _ b _ _ => some (s.benchPkg b)
  | .spanFire b _ _ _ _ => some (s.benchPkg b)
  | .heartbeat _ _ dst _ => some (dst / 4)
  | .heartbeatAck _ _ dst => some (dst / 4)
  | .start _ p => some p
  | .startAnswer n _ => ((s.launch? n).bind (·.keystone)).map (· / 4)
  | .transient l _ _ _ h => some (holderPkg l h)
  | .tokens l _ h _ _ _ _ _ _ => some (holderPkg l h)
  | .persistent l _ _ => some l.pkg
  | .active l _ _ h => some (holderPkg l h)
  | .done l _ _ => some l.pkg
  | .inactive l h => some (holderPkg l h)
  | .lossLog l _ _ _ _ => some l.pkg
  | .collect l _ h => some (holderPkg l h)

/-- The package in which a happening takes place, where it has one. Boot, the failure of a die or a link, and what the whole domain does have
none. -/
def State.placeOf (s : State) : Instr → Option Nat
  | .strataBackoff c | .leaseExpiry c | .copyCompletion c _ | .copyFault c _ | .stepStart c | .stepCompletion c | .pushWrite c _ _
  | .pushRetry c _ _ | .exchangeSlotOpen c | .completionInterrupt c | .asyncCause c | .pageNotice c _ _ _ | .pageRefusal c _ | .tileGrant c
  | .bindingComplete c | .completionReport c | .quantumExpiry c | .tsliceExpiry c | .contextSave c | .copyDrainTimeout c | .contextRestore c
  | .trapEnd c | .trapResume c _ _ | .l1LineTimeout c _ | .migRewalk c | .copyPageResume c _ | .pushReadFault c _ | .exchangePhaseEnd c
  | .taskEndBySupervisor c => s.pkgOf c
  | .causalityRelease n | .remoteCommand n | .exchangeLine n | .remoteScratchpadAccess n | .spanArrivalMessage n | .spanFireMessage n
  | .heartbeat n | .heartbeatAck n | .startMessage n | .startAnswer n | .transientRead n | .transientWrite n | .tokenMessage n
  | .persistentRequest n | .active n | .done n | .inactive n | .lossLogEntry n | .collect n => s.net[n]?.bind s.reaches
  | .chiselCompletion b _ | .chiselPageResume b _ => some (s.benchPkg b)
  | .mergeStep l | .lineRecreation l => some l.pkg
  | .heartbeatTimer _ p _ | .fenceTimeout _ p _ | .attemptTimeout p _ _ | .persistentRetry p _ _ => some p
  | .deputyAck n | .terminationToken n | .aging n | .startTimeout n => ((s.launch? n).bind (·.keystone)).map (· / 4)
  | _ => none

/-- A happening takes place: not in a package that has not booted, or whose module has stopped (R408, R414). -/
def State.takesPlace (s : State) (e : Instr) : Bool := e.isEvent && (s.placeOf e).all fun p => (s.pkg p).runs

end Sys2Proof.Machine
end

