-- ==== Sys2Proof/Machine/Pages.lean ====
section
/-!
DEFINITION. Pages that change under the program (R334, R341 to R345, R362, R364, R365): L1 lines that run out, walks repeated,
migration, and the collapse of read-duplicate pages.
-/
namespace Sys2Proof.Machine

/-! ## L1_LINE_TIMEOUT and MIG_REWALK -/

/-- L1_LINE_TIMEOUT: a PRIVATE line has served for 2,048 cycles (R334). -/
def l1LineTimeout (tag : Nat) (s : State) : State :=
  { s with core := l1Remove (fun e => e.tag == tag && e.priv && decide (e.filled + 2048 ≤ s.now)) s.core }

/-- L1_LINE_TIMEOUT (R334). -/
def execL1LineTimeout (c : CoreId) (tag : Nat) (s : State) : Out := .next (onCore c (l1LineTimeout tag) s)

/-- The core's reductions that a moving page has turned away are sent again, in program order: each is translated anew after 1,024 cycles, and
waits again where the page still moves (R208, R365). A cause of one is held for the next release (R207). -/
def sendMoved : Nat → State → State
  | 0, s => s
  | n + 1, s =>
    match s.core.moved with
    | [] => s
    | m :: rest =>
      if s.now < m.since + 1024 then s else
      let left (ms : List MovedOp) (s : State) : State := { s with core := { s.core with moved := ms } }
      let again : State := left ({ m with since := s.now } :: rest) s
      match amoAt (left [] s) m.op m.z m.b 0 false m.ptr with
      | .ok r => if r.s.core.moved.isEmpty then sendMoved n (left rest r.s) else again
      | .cause c => sendMoved n (holdCause c (left rest s))
      | .wait _ => again

/-- MIG_REWALK: the access walks again, and reductions answered MOVED are sent again (R208, R365). -/
def migRewalk (s : State) : State :=
  let s := sendMoved s.core.moved.length s
  let walk (w : Wait) : Wait := match w with
    | .mig since => if since + 1024 ≤ s.now then .none else w
    | w => w
  s.modTask fun t => { t with wait := walk t.wait, rep := { t.rep with wait := walk t.rep.wait } }

/-- MIG_REWALK (R365). -/
def execMigRewalk (c : CoreId) (s : State) : Out := .next (onCore c migRewalk s)

/-! ## Leaves in place -/

/-- A leaf where it stands in a package's replica: the place of its entry, its level, and MIG (R359). -/
structure LeafAt where
  pkg   : Nat
  at_   : Nat
  level : Nat
  leaf  : Leaf
  mig   : Bool
  deriving DecidableEq, Repr, Inhabited

/-- The leaf entry of an address from a table of a level on. -/
def leafAtFrom (s : State) (va : Nat) : Nat → Nat → Nat → Nat → Option LeafAt
  | 0, _, _, _ => none
  | n + 1, level, pkg, table =>
    let a := table + 8 * levelIndex level va
    match entryAt level (s.physD pkg a) with
    | .leaf l mig => some { pkg := pkg, at_ := a, level := level, leaf := l, mig := mig }
    | .table p t => leafAtFrom s va n (level + 1) p t
    | _ => none

/-- The leaf entry of an ASID's address in a package's replica. -/
def State.leafAt (s : State) (pkg asid va : Nat) : Option LeafAt :=
  let root := s.physD pkg (s.rootAt pkg asid)
  if root.testBit 63 then leafAtFrom s va 3 1 (bitsAt root 54 2) (root % 2 ^ 52) else none

/-- The leaf entry of an address rewritten in every replica; `f` gives a package's new entry from its old leaf. -/
def rewriteLeaves (asid va : Nat) (f : Nat → Leaf → Nat) (s : State) : State :=
  s.packages.foldl (fun s p => match s.leafAt p asid va with
    | some a => s.putD a.pkg a.at_ (f p a.leaf)
    | none => s) s

/-- A translation shot down across the domain (R180, R364). -/
def shootDown (asid va size : Nat) (s : State) : State :=
  dropTranslations (fun _ => true) (fun e => e.asid == asid && decide (e.va < va + size) && decide (va < e.va + e.leaf.size))
    (fun l => l.asid == asid && decide (va ≤ l.tag * 64) && decide (l.tag * 64 < va + size)) s

/-! ## Frames -/

/-- Nothing is under way at a line: no pin, lease, waiting access, activation or recreation, and no token in flight. -/
def LineState.quiet (ls : LineState) : Bool :=
  ls.pins.isEmpty && ls.lease.isNone && ls.queue.isEmpty && ls.active.isNone && ls.collecting.isNone && ls.wants.isEmpty && ls.held == 16

/-- The bytes of a frame copied to another. -/
def copyFrame (p a q b size : Nat) (s : State) : State :=
  let src := memKey p a
  let moved := (s.mem.filter fun (k, _) => decide (src ≤ k) && decide (k < src + size)).map fun (k, v) => (memKey q b + (k - src), v)
  let s := s.zeroPhys q b size
  { s with mem := moved.foldl (fun m (k, v) => mapSet 0 m k v) s.mem }

/-- A migration agent asks for the tokens of a line by a persistent request (R365). -/
def agentAsks (pkg : Nat) (l : Line) (s : State) : State :=
  if (s.attempt pkg 4 l).isSome || ((s.line l).at_ (agentOf pkg)).count == 16 then s
  else
    sendPersistent pkg 4 l
      { s with attempts := s.attempts ++
          [{ pkg := pkg, die := 4, line := l, write := true, since := s.now, fails := 2, persistent := true, retryAt := none }] }

/-- The agent of a package holds the 16 tokens of a line (R365). -/
def agentHas (pkg : Nat) (ls : LineState) : Bool := (ls.at_ (agentOf pkg)).count == 16

/-- The agent holds every line of a frame, and nothing else is under way there (R365). -/
def State.agentReady (s : State) (agent pkg addr size : Nat) : Bool :=
  let ls := s.frameLines pkg addr size
  ls.all (fun r => r.2.quiet && agentHas agent r.2) && ls.length == size / 64

/-- The agent asks for every line of a frame that it does not hold. -/
def askFrame (agent pkg addr size : Nat) (s : State) : State :=
  (List.range (size / 64)).foldl (fun s i =>
    let l : Line := { pkg := pkg, idx := addr / 64 + i }
    if agentHas agent (s.line l) then s else agentAsks agent l s) s

/-- A line's state moved with its data: a poisoned line stays poisoned, and the stamp stays with the data; the old line's tokens
go back to its memory home (R365). -/
def moveLine (p a q b : Nat) (s : State) (r : Line × LineState) : State :=
  let new : Line := { pkg := q, idx := b / 64 + (r.1.idx - a / 64) }
  let home := r.2.recall
  let s := s.setLine r.1 { home with stamp := none }
  if p = q ∧ a = b then s else s.setLine new { s.line new with poison := r.2.poison, stamp := home.stamp }

/-! ## PAGE_MIGRATION (R365) -/

/-- A frame may take a page of the leaf (R320). -/
def frameOk (s : State) (l : Leaf) : Bool := s.packages.contains l.pkg && inTier l.tier (l.addr + l.size - 1)

/-- A wait record names a key of a region's page. -/
def State.pageWaits (s : State) (tenant va : Nat) : Bool :=
  (s.cores.filterMap Core.waitRec).any fun w => match mapFind w.key.rid s.regions with
    | some r => r.tenant == tenant && r.keyAddr w.key.k / 65536 == va / 65536
    | none => false

/-- The page's new home in the region that holds it (R72). -/
def rehome (tenant va : Nat) (home : CoreId) (s : State) : State :=
  { s with regions := s.regions.map fun (i, r) =>
      if r.tenant == tenant && r.kind == .strata && decide (r.base ≤ va) && decide (va < r.base + r.size) then
        (i, { r with homes := mapPut ((va - r.base) / 65536) home r.homes })
      else (i, r) }

/-- The page's copy in the frame's package: of a READDUP page, that package's own (R362). -/
def State.oldLeaf (s : State) (tenant va : Nat) (new : Leaf) : Option LeafAt :=
  s.leafAt (if new.kind = .readdup then new.pkg else s.servicePkg tenant) (s.tenant tenant).asid va

/-- The first part of a migration: the old home is marked as moving, MIG is set in every replica, and the translation is shot
down. -/
def startMigration (asid va : Nat) (old : Leaf) (s : State) : State :=
  let s := { s with moving := s.moving ++ [(old.pkg, old.addr, old.size)] }
  shootDown asid va old.size (rewriteLeaves asid va (fun _ l => l.entry + 2 ^ 53) s)

/-- The second part: the data and lines move, and every replica names the new frame. -/
def endMigration (tenant asid va : Nat) (old new : Leaf) (quarry : Nat) (s : State) : State :=
  let ls := s.frameLines old.pkg old.addr old.size
  let s := copyFrame old.pkg old.addr new.pkg new.addr old.size (dropWays old.pkg old.addr old.size s)
  let s := ls.foldl (moveLine old.pkg old.addr new.pkg new.addr) s
  let s := rewriteLeaves asid va (fun p l => if new.kind = .readdup ∧ p ≠ new.pkg then l.entry else new.entry) s
  let s := noteLocal new.kind new.pkg new.addr new.size quarry { s with moving := s.moving.erase (old.pkg, old.addr, old.size) }
  if new.kind = .strata then rehome tenant va { tenant := 0, lid := 0xF000 + 192 * new.pkg + quarry } s else s

/-- PAGE_MIGRATION: the first time for a page it starts the migration. Once every store translated before has been performed (R180), the
migration agent of the service's package asks for every line of the old frame by persistent requests, and once it has their tokens it moves
the page. The supervisor refuses a STRATA page while a load waits on one of its keys. -/
def pageMigration (tenant page leaf quarry : Nat) (s : State) : State :=
  let asid := (s.tenant tenant).asid
  match entryAt 3 leaf, entryAt 2 leaf, entryAt 1 leaf with
  | e3, e2, e1 =>
    let new? (level : Nat) : Option Leaf := match (if level = 1 then e1 else if level = 2 then e2 else e3) with
      | .leaf l false => some l
      | _ => none
    let kind := (pageKindOf (bitsAt leaf 60 3)).getD .priv
    match s.oldLeaf tenant page { (default : Leaf) with kind := kind, pkg := bitsAt leaf 54 2 } with
    | none => s
    | some old =>
      match new? old.level with
      | none => s
      | some new =>
        let va := page / old.leaf.size * old.leaf.size
        let same := new.kind == old.leaf.kind && new.x == old.leaf.x && new.w == old.leaf.w
          && !(new.pkg == old.leaf.pkg && new.addr == old.leaf.addr)
        let agent := s.servicePkg tenant
        if !same || !frameOk s new || decide (192 ≤ quarry) || !quarryFits new.kind new.addr new.size quarry || (new.kind == .strata && s.pageWaits tenant va) then s
        else if !old.mig then guarded agent (startMigration asid va old.leaf) s
        else if !s.moving.contains (old.leaf.pkg, old.leaf.addr, old.leaf.size) then s
        else if !s.shotClear asid va old.leaf.size then s
        else if s.agentReady agent old.leaf.pkg old.leaf.addr old.leaf.size
            && (s.frameLines new.pkg new.addr new.size).all (fun r => r.2.quiet && r.2.homeCount == 16) then
          endMigration tenant asid va old.leaf new quarry s
        else askFrame agent old.leaf.pkg old.leaf.addr old.leaf.size s

/-- PAGE_MIGRATION (R365). -/
def execPageMigration (tenant page : Nat) (leaf : Word) (quarry : Nat) (s : State) : Out :=
  .next (served (s.servicePkg tenant) (pageMigration tenant page leaf.toNat quarry) s)

/-! ## COLLAPSE (R341 to R345) -/

/-- Leaves of 64 KiB of one page written into a level-3 table from part `i0` on. -/
def fillTable (pkg table : Nat) (l : Leaf) (i0 : Nat) (s : State) : State :=
  (List.range 32).foldl (fun s (i : Nat) =>
    let l' : Leaf := { l with addr := l.addr + (i0 + i) * 65536, size := 65536 }
    s.putD pkg (table + 8 * i) l'.entry) s

/-- A READDUP page of 2 MiB or 1 GiB split into 64 KiB pages of the same frames in one replica, with new tables from `free` on
(R341, R364). -/
def splitLeaf (p asid va free : Nat) (s : State) : State :=
  match s.leafAt p asid va with
  | none => s
  | some a =>
    if a.level = 2 then
      let t := (free + 255) / 256 * 256
      (fillTable a.pkg t a.leaf 0 s).putD a.pkg a.at_ (tableEntry a.pkg t)
    else if a.level = 1 then
      let t := (free + 4095) / 4096 * 4096
      let s := (List.range 512).foldl (fun s (i : Nat) =>
        let t3 := t + 4096 + 256 * i
        (fillTable a.pkg t3 a.leaf (32 * i) s).putD a.pkg (t + 8 * i) (tableEntry a.pkg t3)) s
      s.putD a.pkg a.at_ (tableEntry a.pkg t)
    else s

/-- The page of an address made SHARED in the writer package's frame, on every package; the other packages' frames are freed. -/
def collapsePage (asid va writer tables : Nat) (big : LeafAt) (s : State) : State :=
  let s := s.packages.foldl (fun s p => splitLeaf p asid va tables s) s
  let s := if big.level = 3 then s else shootDown asid (va / big.leaf.size * big.leaf.size) big.leaf.size s
  match s.leafAt writer asid va with
  | none => s
  | some own =>
    let freed := (s.packages.filter (· ≠ writer)).filterMap fun p => (s.leafAt p asid va).map fun a => (a.leaf.pkg, a.leaf.addr)
    let shared : Leaf := { own.leaf with kind := .shared, w := true }
    let s := shootDown asid va 65536 (rewriteLeaves asid va (fun _ _ => shared.entry) s)
    freed.foldl (fun s f => purgeFrame f.1 f.2 65536 s) s

/-- A trap that waits for the service: the core, its faulted task and the record. -/
structure Waiting where
  who  : CoreId
  task : Task
  rec_ : TrapRecord
  deriving DecidableEq, Repr

/-- The READDUP_WRITE traps of a core's faulted tasks, the bound one and those that are saved. -/
def State.readdupTraps (s : State) (c : CoreId) : List Waiting :=
  match s.findCore c with
  | none => []
  | some k => (k.task :: k.saved).filterMap fun t => match t.trap with
    | some r => if t.st = .faulted ∧ r.cause.code = .protect ∧ r.cause.sub = 8 then some { who := c, task := t, rec_ := r } else none
    | none => none

/-- A record comes before another: by its cycle, then by ascending package (R344). -/
def TrapRecord.before (a b : TrapRecord) : Bool := decide (a.came < b.came) || (a.came == b.came && decide (a.pkg < b.pkg))

/-- The page of a trap's address in its address space. -/
def TrapRecord.page (r : TrapRecord) : Nat × Nat := (r.asid, pageOf (pAddr r.cause.addr))

/-- The trap that the service handles first. -/
def firstTrap : List Waiting → Option Waiting
  | [] => none
  | x :: xs => match firstTrap xs with
    | none => some x
    | some y => if TrapRecord.before y.rec_ x.rec_ then some y else some x

/-- The service can handle a trap now: no earlier one on its page waits, its page does not migrate (R366), and its task can be resumed. -/
def State.collapsible (s : State) (all : List Waiting) (x : Waiting) : Bool :=
  let r := x.rec_
  s.takesUp r.pkg (.trap x.who) && !(all.any fun y => y.rec_.page == r.page && TrapRecord.before y.rec_ r)
    && (match s.leafAt r.pkg r.asid r.page.2 with
        | some a => !a.mig
        | none => true)
    && (switchTo x.who s).resumable x.task

/-- COLLAPSE: of the READDUP_WRITE traps that can be handled the oldest is; those on one page are handled in their order (R344). A page that
is SHARED already only has its task resumed. No store that the old translation gave may be on its way (R364). -/
def collapse (tables : Nat) (s : State) : State :=
  let all := s.traps.eraseDups.flatMap s.readdupTraps
  match firstTrap (all.filter (s.collapsible all)) with
  | none => s
  | some x =>
    let r := x.rec_
    let va := pageOf (pAddr r.cause.addr)
    let resume (s : State) : State := onCore x.who (resumeFault x.task r.resume []) s
    match s.leafAt r.pkg r.asid va with
    | none => resume s
    | some a =>
      if a.mig || !s.shotClear r.asid (va / a.leaf.size * a.leaf.size) a.leaf.size then s
      else if a.leaf.kind = .readdup then guarded r.pkg (fun s => resume (collapsePage r.asid va r.pkg tables a s)) s
      else resume s

/-- COLLAPSE (R341). -/
def execCollapse (tables : Nat) (s : State) : Out := .next (collapse tables s)

end Sys2Proof.Machine
end

