-- ==== Sys2Proof/Machine/Ports.lean ====
section
/-!
DEFINITION. The Ethernet ports (R90 to R94, R339, R402 to R406): classifier rules, streams and their queues, frames, and streams
bound to strata keys.
-/
namespace Sys2Proof.Machine

/-! ## Ports and streams (R403, R405) -/

/-- The key of a port. -/
def portKey (pkg port : Nat) : Nat := pkg * 8 + port

/-- The key of a stream: streams are counted per port (R403). -/
def streamKey (pkg port stream : Nat) : Nat := portKey pkg port * 256 + stream

/-- A stream. -/
def State.stream (s : State) (pkg port stream : Nat) : Stream := mapGet {} s.streams (streamKey pkg port stream)

/-- A stream changed. -/
def State.modStream (s : State) (pkg port stream : Nat) (f : Stream → Stream) : State :=
  { s with streams := mapSet {} s.streams (streamKey pkg port stream) (f (s.stream pkg port stream)) }

/-- A port. -/
def State.port (s : State) (pkg port : Nat) : Port := mapGet {} s.ports (portKey pkg port)

/-- A port changed. -/
def State.modPort (s : State) (pkg port : Nat) (f : Port → Port) : State :=
  { s with ports := mapSet {} s.ports (portKey pkg port) (f (s.port pkg port)) }

/-- A port of a package that runs. -/
def State.portUp (s : State) (pkg port : Nat) : Bool := decide (port < 8) && (s.pkg pkg).runs

/-- CLASSIFIER_RULE_WRITE: the supervisor writes one of a port's 64 rules; the stream that it names belongs to the tenant that it
names. -/
def classifierRuleWrite (pkg port i : Nat) (rule : Rule) (s : State) : State :=
  if !s.portUp pkg port || decide (64 ≤ i) || decide (112 < rule.off) || decide (256 ≤ rule.stream) then s
  else
    let s := s.modPort pkg port fun p => { p with rules := mapPut i rule p.rules }
    if rule.stream = 0 then s else s.modStream pkg port rule.stream fun st => { st with tenant := rule.tenant }

/-- CLASSIFIER_RULE_WRITE (R403). -/
def execClassifierRuleWrite (pkg port i : Nat) (rule : Rule) (s : State) : Out := .next (served pkg (classifierRuleWrite pkg port i rule) s)

/-- `n` is a power of two between two bounds. -/
def powerOfTwo (lo hi n : Nat) : Bool := decide (lo ≤ n) && decide (n ≤ hi) && n == 2 ^ n.log2

/-- The bytes of a port's queues other than a stream's own. -/
def State.queueBytes (s : State) (pkg port stream : Nat) : Nat :=
  ((s.streams.filter fun (k, _) => k / 256 == portKey pkg port && k != streamKey pkg port stream).map fun (_, st) => st.size).sum

/-- The pages of a ring are NEARMEM pages of the tenant (R405). -/
def State.ringNear (s : State) (tenant ring size : Nat) : Bool :=
  (List.range ((64 + size + 65535) / 65536)).all fun i => (s.leafOf tenant (ring + 65536 * i)).any fun l => l.kind == .nearmem

/-- STREAM_QUEUE_RESET: the supervisor gives a tenant's stream its queue, empty: the header's counts are zero and its size stands
(R140, R405). The stream's drop counter stays, and so does the mark for its next record (R406; assumption log 31). -/
def streamQueueReset (pkg port stream ring size slot : Nat) (s : State) : State :=
  let st := s.stream pkg port stream
  if !s.portUp pkg port || stream == 0 || decide (256 ≤ stream) || !powerOfTwo 4096 (2 ^ 26) size || !powerOfTwo 128 16384 slot
      || size % slot != 0 || ring % 65536 != 0 || !s.ringNear st.tenant ring size || decide (2 ^ 26 < s.queueBytes pkg port stream + size) then s
  else onStill pkg (fun s =>
    let s := s.modStream pkg port stream fun st => { st with ring := ring, size := size, slot := slot, tail := 0, stopped := false }
    writeVa st.tenant ring (bytesOf 0 16 ++ bytesOf size 8) s) s

/-- STREAM_QUEUE_RESET (R406). -/
def execStreamQueueReset (pkg port stream ring size slot : Nat) (s : State) : Out :=
  .next (served pkg (streamQueueReset pkg port stream ring size slot) s)

/-! ## Streams bound to strata keys (R90 to R94) -/

/-- A region may take a binding's states (R90). -/
def bindingFits (b : Binding) (r : Region) : Bool :=
  !b.descriptor || (r.format == .s32 && r.mode == .hold && decide (32 ≤ r.payload))

/-- STREAM_BIND: a key of a STRATA region becomes the stream's. -/
def streamBind (pkg port stream rid key : Nat) (b : Binding) (s : State) : State :=
  let id : KeyId := { rid := rid, k := key }
  let st := s.stream pkg port stream
  match s.keyAt id with
  | none => s
  | some (r, k) =>
    if s.portUp pkg port && decide (1 ≤ stream) && decide (stream < 256) && st.key.isNone && !r.released && r.kind == .strata && decide (key < r.nkeys) && r.tenant == st.tenant
        && k.st == .open_ && k.owner == .none && bindingFits b r && decide (1 ≤ b.divisor) && decide (b.divisor < 2 ^ 32) then
      atSlots r [key] (fun s => (s.modKey id fun k => { k with owner := .stream port stream }).modStream pkg port stream fun st =>
        { st with key := some (id, b), exhausted := false }) s
    else s

/-- STREAM_BIND (R90). -/
def execStreamBind (pkg port stream rid key : Nat) (bnd : Binding) (s : State) : Out :=
  .next (served pkg (streamBind pkg port stream rid key bnd) s)

/-- STREAM_UNBIND: the key closes, as TCLOSE would close it. -/
def streamUnbind (pkg port stream : Nat) (s : State) : State :=
  match (s.stream pkg port stream).key with
  | none => s
  | some (id, _) =>
    let free (s : State) : State := s.modStream pkg port stream fun st => { st with key := none, exhausted := false }
    match s.keyAt id with
    | some (r, k) => if k.st = .open_ then atSlots r [id.k] (fun s => closeKey id (free s)) s else free s
    | none => free s

/-- STREAM_UNBIND (R94). -/
def execStreamUnbind (pkg port stream : Nat) (s : State) : Out := .next (served pkg (streamUnbind pkg port stream) s)

/-- The time of a stamp in units of 2^−16 ns (R91). -/
def Stamp.value (t : Stamp) : Nat := (t.s * 10 ^ 9 + t.n) * 65536 + t.f

/-- The tick of a frame (R91). -/
def Binding.tick (b : Binding) (t : Stamp) : Nat :=
  if Stamp.value t < b.origin then 0
  else
    let q := (Stamp.value t - b.origin) / b.divisor
    if q < 2 ^ 64 then q else (Config.lateTick q).toNat

/-- A payload from bytes, zero-padded or cut to `p` bytes. -/
def payloadOf (p : Nat) (bs : List Byte) : Vec := BitVec.ofNat 512 (leOf (bs.take p))

/-- The descriptor of R92. -/
def descriptorOf (count len port : Nat) (raised : Bool) (t : Stamp) : List Byte :=
  bytesOf count 8 ++ bytesOf len 4 ++ bytesOf port 1 ++ bytesOf (if raised then 1 else 0) 1 ++ bytesOf t.f 2 ++ bytesOf t.s 6 ++ bytesOf t.n 4
    ++ bytesOf 0 6

/-- A key's time axis has ended: the key closes, the binding is EXHAUSTED and the supervisor is alerted (R91). -/
def exhaust (pkg port stream : Nat) (id : KeyId) (s : State) : State :=
  notify pkg .health ((closeKey id s).modStream pkg port stream fun st => { st with exhausted := true })

/-- A frame stored as a state of the stream's key (R72, R91, R92): at its tick, or just above the newest state, which counts as raised.
`bytes` gives the payload from the RAISED flag. The answer tells whether a state was stored. -/
def storeFrame (pkg port stream : Nat) (id : KeyId) (b : Binding) (t : Stamp) (bytes : Bool → List Byte) (s : State) : State × Bool :=
  match s.keyAt id with
  | none => (s, false)
  | some (r, k) =>
    let s := s.noteHome r id.k 65536
    let tick := Binding.tick b t
    let raisedTo (h : Nat) : State × Bool :=
      if h + 1 < 2 ^ 64 then
        (storeState id (h + 1) (payloadOf r.payload (bytes true)) (s.modStream pkg port stream fun st => { st with raised := st.raised + 1 }), true)
      else (exhaust pkg port stream id s, false)
    match ((k.states r.retain).map (·.1)).getLast? with
    | none => (storeState id tick (payloadOf r.payload (bytes false)) s, true)
    | some h => if tick ≤ h then raisedTo h else (storeState id tick (payloadOf r.payload (bytes false)) s, true)

/-! ## INGRESS_FRAME (R402 to R406) -/

/-- The byte of a frame at an offset. -/
def frameByte (frame : List Byte) (i : Nat) : Byte := if i < frame.length then frame.getD i 0 else Config.pastFrame i

/-- A rule matches a frame (R403). -/
def Rule.matches_ (r : Rule) (frame : List Byte) : Bool :=
  leOf ((List.range 16).map fun i => frameByte frame (r.off + i)) &&& r.mask == r.value &&& r.mask

/-- The stream of a frame: that of the lowest rule that matches, or stream 0 (R403). -/
def Port.classify (p : Port) (frame : List Byte) : Nat :=
  match (List.range 64).findSome? fun i => (mapFind i p.rules).filter fun r => Rule.matches_ r frame with
  | some r => r.stream
  | none => 0

/-- A stamp comes after another (R404). -/
def Stamp.after (a b : Stamp) : Bool := decide (Stamp.value b < Stamp.value a)

/-- A stamp has its fields' widths (R404). -/
def Stamp.ok (t : Stamp) : Bool := decide (t.s < 2 ^ 48) && decide (t.n < 10 ^ 9) && decide (t.f < 65536)

/-- The record of a frame in its slot (R405). -/
def frameRecord (st : Stream) (port stream : Nat) (frame : List Byte) (t : Stamp) : List Byte :=
  let room := st.slot - 32
  let flags := (if st.dropped then 1 else 0) + (if room < frame.length then 2 else 0)
  let body := frame.take room
  bytesOf frame.length 4 ++ bytesOf port 1 ++ bytesOf flags 1 ++ bytesOf t.f 2 ++ bytesOf t.s 6 ++ bytesOf t.n 4 ++ bytesOf stream 2 ++ bytesOf 0 12
    ++ body ++ List.replicate (room - body.length) 0

/-- A frame is counted as a drop of its stream (R406). -/
def dropFrame (pkg port stream : Nat) (s : State) : State :=
  s.modStream pkg port stream fun st => { st with drops := st.drops + 1, dropped := true }

/-- The head count that ingress loads (R406). -/
def Stream.head (s : State) (st : Stream) : Option Nat := (readPieces st.tenant (pieces (st.ring + 8) 8) s).map leOf

/-- Ingress may write a line now: nothing waits at its home, no pin and no lease holds it, and its tokens can be had there (R332, R339, R348,
R353). -/
def State.ingressFree (s : State) (l : Line) : Bool :=
  let ls := s.line l
  ls.pins.isEmpty && (s.leaseOf l).isNone && (s.waiting l).isEmpty && ls.collecting.isNone && (ls.gatherWrite .home).isSome

/-- The pieces of a stream's queue that its next frame touches: the header, whose head ingress reads, and a slot. -/
def Stream.touches (st : Stream) : List (Nat × Nat) :=
  if st.size == 0 || st.stopped then [] else pieces st.ring 16 ++ pieces (st.ring + 64 + st.tail % st.size) st.slot

/-- The lines of a stream's queue that its next frame touches. -/
def State.queueLines (s : State) (st : Stream) : List Line :=
  (Stream.touches st).filterMap fun p => (s.leafOf st.tenant p.1).map fun l => lineOf l.pkg (l.pa p.1)

/-- A page of the queue that the next frame touches moves: ingress waits, as an access does (R365). -/
def State.queueMoves (s : State) (st : Stream) : Bool :=
  (Stream.touches st).any fun p => s.walkOn (s.servicePkg st.tenant) (s.tenant st.tenant).asid p.1 == .mig

/-- Ingress may read the head of a stream's queue, and write a record and the tail. -/
def State.queueFree (s : State) (st : Stream) : Bool := !s.queueMoves st && (s.queueLines st).all s.ingressFree

/-- The key's home has the slot of the key that is bound to a stream, and the key's page does not move (R72, R348, R365). -/
def State.boundFree (s : State) (st : Stream) : Bool :=
  match st.key.bind fun x => (s.keyAt x.1).map fun r => (r.1, x.1.k) with
  | some (r, k) => (s.slotLacks r k).isNone && s.slotXl r k != .mig
  | none => true

/-- Ingress asks for the lines that it lacks (R348, R353). -/
def askIngress (st : Stream) (s : State) : State :=
  let bound := match st.key.bind fun x => (s.keyAt x.1).bind fun r => s.slotLacks r.1 x.1.k with
    | some l => [l]
    | none => []
  ((s.queueLines st).filter (fun l => ((s.line l).gatherWrite .home).isNone) ++ bound).foldl (fun s l => askFor l .home true s) s

/-- A frame written to its stream's queue, and the count at its first byte: the record, then the tail (R339, R405, R406). `none`
says that it was dropped, with the state. -/
def queueFrame (pkg port stream : Nat) (frame : List Byte) (t : Stamp) (s : State) : State × Option Nat :=
  let st := s.stream pkg port stream
  match Stream.head s st with
  | none => (dropFrame pkg port stream s, none)
  | some head =>
    if st.size = 0 ∨ st.stopped then (dropFrame pkg port stream s, none)
    else if st.tail < head ∨ head % st.slot ≠ 0 then
      (dropFrame pkg port stream (s.modStream pkg port stream fun st => { st with stopped := true }), none)
    else if st.size - st.slot < st.tail - head then (dropFrame pkg port stream s, none)
    else
      let s := writeVa st.tenant (st.ring + 64 + st.tail % st.size) (frameRecord st port stream frame t) s
      let s := writeVa st.tenant st.ring (bytesOf (st.tail + st.slot) 8) s
      (s.modStream pkg port stream fun st => { st with tail := st.tail + st.slot, dropped := false }, some (st.tail + 32))

/-- A frame of a tenant's stream: an INLINE binding takes it in place of the queue, a DESCRIPTOR binding beside it (R90 to R93). -/
def streamFrame (pkg port stream : Nat) (frame : List Byte) (t : Stamp) (s : State) : State :=
  let st := s.stream pkg port stream
  match st.key with
  | some (id, b) =>
    if b.descriptor then
      match queueFrame pkg port stream frame t s with
      | (s, none) => s
      | (s, some count) =>
        if st.exhausted then s
        else (storeFrame pkg port stream id b t (fun raised => descriptorOf count frame.length port raised t) s).1
    else if st.exhausted then dropFrame pkg port stream s
    else match storeFrame pkg port stream id b t (fun _ => frame) s with
      | (s, true) => s
      | (s, false) => dropFrame pkg port stream s
  | none => (queueFrame pkg port stream frame t s).1

/-- The frame that has come goes into its stream's queue. -/
def Stream.queues (st : Stream) : Bool := match st.key with
  | some (_, b) => b.descriptor
  | none => true

/-- Units of 2^−16 ns that have passed since the domain's time began (R404). -/
def State.fraction (s : State) : Nat := s.time * 65536000 / micros 1

/-- The reading of a package's IEEE 1588 clock, which the service disciplines (R404). -/
def State.clock (s : State) (pkg : Nat) : Nat := (s.pkg pkg).ptp + s.fraction

/-- The clock as a frame's stamp shows it: a stamp beyond its reading tells that the service has set it forward (R404; DESIGN CHOICE,
assumption log 100). -/
def stampClock (pkg : Nat) (t : Stamp) (s : State) : State := s.modPkg pkg fun p => { p with ptp := max p.ptp (Stamp.value t - s.fraction) }

/-- INGRESS_FRAME: a frame, without its FCS of 4 bytes, is checked, stamped by its package's clock and classified. A frame of stream 0 is the
resident service's. The frames of a port enter in the order of their stamps (R404), and one whose queue or key
ingress cannot write yet waits in the port. -/
def ingressFrame (pkg port : Nat) (frame : List Byte) (fcsOk : Bool) (t : Stamp) (s : State) : State :=
  let p := s.port pkg port
  let n := frame.length + 4
  let bad := !fcsOk || decide (n < 64) || decide (9216 < n)
  let st := s.stream pkg port (p.classify frame)
  if !s.portUp pkg port || !Stamp.ok t || !Stamp.after t p.last then s
  else if !bad && ((st.queues && !s.queueFree st) || !s.boundFree st) then askIngress st s
  else
    let s := stampClock pkg t (s.modPort pkg port fun p => { p with last := t })
    if bad then s.modPort pkg port fun p => { p with errors := p.errors + 1 }
    else
      let stream := p.classify frame
      if stream = 0 then notify pkg (.client 0) s else streamFrame pkg port stream frame t s

/-- INGRESS_FRAME (R405). -/
def execIngressFrame (pkg port : Nat) (frame : List Byte) (fcsOk : Bool) (stamp : Stamp) (s : State) : Out :=
  .next (ingressFrame pkg port frame fcsOk stamp s)

end Sys2Proof.Machine
end

