-- ==== Sys2Proof/Machine/Special.lean ====
section
/-!
DEFINITION. The special functions of R256 and R257 beyond division and roots. Each value is enclosed in fixed
point between two bounds; where both bounds round alike, that is the correctly rounded result.
-/
namespace Sys2Proof.Machine

/-- The places of the fixed-point values below. -/
def fixP : Nat := 320

/-- (π / 2) × 2^640, rounded down. -/
def halfPiFix : Nat :=
  0x1921fb54442d18469898cc51701b839a252049c1114cf98e804177d4c76273644a29410f31c6809bbdf2a33679a748636605614dbe4be286e9fc26adadaa3848bc90b6aecc4bcfd8de89885d34c6fdad6

/-- ln 2 × 2^320, rounded down. -/
def ln2Fix : Nat :=
  0xb17217f7d1cf79abc9e3b39803f2f6af40f343267298b62d8a0d175b8baafa2be7b876206debac98

/-- The rounding of a value that lies less than 2^20 units of 2^e from v units, and is no multiple of a unit.
Where the two bounds round apart, the model takes one of the two (assumption log 3). `n`, `w` and `bits` name
the function, the lane width and the operand. -/
def fenclose (f : FFmt) (n w bits : Nat) (neg : Bool) (v : Nat) (e : Int) : Nat × Flags :=
  let lo := froundBetween f .rne neg (v - 2 ^ 20) e
  let hi := froundBetween f .rne neg (v + 2 ^ 20) e
  if lo = hi then lo else if Config.specialTie n w bits then lo else hi

/-- The rounding of a value just below the magnitude m × 2^e in magnitude, nearer to it than 2^-60 of it. -/
def froundBelow (f : FFmt) (neg : Bool) (m : Nat) (e : Int) : Nat × Flags :=
  froundBetween f .rne neg (m * 2 ^ 100 - 1) (e - 100)

/-- Terms k, k + 1, … of the exponential series of y in fixed point, added to `acc`. -/
def expSeries (y : Nat) : Nat → Nat → Nat → Nat → Nat
  | 0, _, _, acc => acc
  | n + 1, k, term, acc =>
    let t := term * y / (k * 2 ^ fixP)
    expSeries y n (k + 1) t (acc + t)

/-- 2^(x / 2^320) × 2^320 for x from 0 to 2^320. -/
def exp2Fix (x : Nat) : Nat := expSeries (x * ln2Fix / 2 ^ fixP) 90 1 (2 ^ fixP) (2 ^ fixP)

/-- Terms z^k / k for k, k + 2, …, added to `acc`: `pw` is the next power. -/
def atanhSeries (zz : Nat) : Nat → Nat → Nat → Nat → Nat
  | 0, _, _, acc => acc
  | n + 1, k, pw, acc => atanhSeries zz n (k + 2) (pw * zz / 2 ^ fixP) (acc + pw / k)

/-- log2 of m / 2^(log2 m), in fixed point. -/
def log2Fix (m : Nat) : Nat :=
  let one := 2 ^ m.log2
  let z := (m - one) * 2 ^ fixP / (m + one)
  2 * atanhSeries (z * z / 2 ^ fixP) 105 1 z 0 * 2 ^ fixP / ln2Fix

/-- The alternating series of sine and cosine: the next term has the sign `neg`, and the divisor of the one after
it is (k + 1)(k + 2). -/
def sinSeries (rr : Nat) : Nat → Nat → Nat → Bool → Nat → Nat → Nat
  | 0, _, _, _, pos, ng => pos - ng
  | n + 1, k, term, neg, pos, ng =>
    let t := term * rr / (2 ^ fixP * ((k + 1) * (k + 2)))
    if neg then sinSeries rr n (k + 2) t false pos (ng + term)
    else sinSeries rr n (k + 2) t true (pos + term) ng

/-- The sine of r / 2^320, for r below π / 2. -/
def sinFix (r : Nat) : Nat := sinSeries (r * r / 2 ^ fixP) 50 1 r false 0 0

/-- The cosine of r / 2^320, for r below π / 2. -/
def cosFix (r : Nat) : Nat := sinSeries (r * r / 2 ^ fixP) 50 0 (2 ^ fixP) false 0 0

/-- 2^a (R256, R257). -/
def fexp2 (f : FFmt) (w bits : Nat) : FVal → Nat × Flags
  | .nan => (f.nan, 0)
  | .inf neg => fround f .rne (if neg then fzero false else .inf false)
  | .fin neg m e =>
    if m = 0 then froundFin f .rne false 1 0
    else if e + m.log2 ≥ 12 then froundFin f .rne false 1 (if neg then -4000 else 4000)
    else
      -- e ≥ -149, so that the argument is exact in fixed point
      let x : Nat := m * 2 ^ (e + fixP).toNat
      let n : Int := if neg then -(((x + 2 ^ fixP - 1) / 2 ^ fixP : Nat) : Int) else ((x / 2 ^ fixP : Nat) : Int)
      let fr : Nat := if neg then (2 ^ fixP - x % 2 ^ fixP) % 2 ^ fixP else x % 2 ^ fixP
      if fr = 0 then froundFin f .rne false 1 n
      else fenclose f 4 w bits false (exp2Fix fr) (n - fixP)

/-- log2 a (R256, R257). -/
def flog2 (f : FFmt) (w bits : Nat) : FVal → Nat × Flags
  | .nan => (f.nan, 0)
  | .inf neg => if neg then (f.nan, flagNV) else fround f .rne (.inf false)
  | .fin neg m e =>
    if m = 0 then let (c, _) := fround f .rne (.inf true); (c, flagDZ)
    else if neg then (f.nan, flagNV)
    else
      let k : Int := e + m.log2
      if m = 2 ^ m.log2 then fround f .rne (fofInt k)
      else
        let v : Int := k * 2 ^ fixP + log2Fix m
        fenclose f 5 w bits (decide (v < 0)) v.natAbs (-(fixP : Int))

/-- Sine (`cos` false) or cosine (`cos` true) of a finite value. -/
def fsincos (f : FFmt) (w bits : Nat) (cos : Bool) (neg : Bool) (m : Nat) (e : Int) : Nat × Flags :=
  if m = 0 then (if cos then froundFin f .rne false 1 0 else fround f .rne (fzero neg))
  else if e + m.log2 < -32 then (if cos then froundBelow f false 1 0 else froundBelow f neg m e)
  else
    let x := m * 2 ^ (e + 640).toNat
    let k := x / halfPiFix
    let r := x % halfPiFix / 2 ^ (640 - fixP)
    let q := (k + if cos then 1 else 0) % 4
    let v := if q % 2 = 0 then sinFix r else cosFix r
    fenclose f (if cos then 7 else 6) w bits ((!cos && neg) != decide (q ≥ 2)) v (-(fixP : Int))

/-- sin a (R256, R257). -/
def fsin (f : FFmt) (w bits : Nat) : FVal → Nat × Flags
  | .nan => (f.nan, 0)
  | .inf _ => (f.nan, flagNV)
  | .fin neg m e => fsincos f w bits false neg m e

/-- cos a (R256, R257). -/
def fcos (f : FFmt) (w bits : Nat) : FVal → Nat × Flags
  | .nan => (f.nan, 0)
  | .inf _ => (f.nan, flagNV)
  | .fin neg m e => fsincos f w bits true neg m e

/-- tanh a (R256, R257): (1 − t) / (1 + t) with t = exp(−2a). -/
def ftanh (f : FFmt) (w bits : Nat) : FVal → Nat × Flags
  | .nan => (f.nan, 0)
  | .inf neg => froundFin f .rne neg 1 0
  | .fin neg m e =>
    if m = 0 then fround f .rne (fzero neg)
    else if e + m.log2 ≥ 6 then froundBelow f neg 1 0
    else if e + m.log2 < -32 then froundBelow f neg m e
    else
      let y := 2 * (m * 2 ^ (e + fixP).toNat) * 2 ^ fixP / ln2Fix
      let t := exp2Fix (2 ^ fixP - y % 2 ^ fixP) / 2 ^ (y / 2 ^ fixP + 1)
      fenclose f 8 w bits neg ((2 ^ fixP - t) * 2 ^ fixP / (2 ^ fixP + t)) (-(fixP : Int))

end Sys2Proof.Machine
end

