-- ==== Sys2Proof/Machine/Vector.lean ====
section
/-!
DEFINITION. Vector instructions (R250 to R271). None raises a cause (R251).
-/
namespace Sys2Proof.Machine

/-! ## Lanes and masks (R250) -/

/-- Lanes `i`, `i + 1`, … of an element-wise instruction: `f` acts on the lanes of a, b and d; a lane that is masked
off keeps d's value and raises no flag. -/
def laneMap (mask : Nat) (f : Nat → Nat → Nat → Nat × Flags) : Nat → List Nat → List Nat → List Nat → List Nat × Flags
  | i, a :: as, b :: bs, d :: ds =>
    let rest := laneMap mask f (i + 1) as bs ds
    if mask.testBit i then
      let r := f a b d
      (r.1 :: rest.1, r.2 ||| rest.2)
    else (d :: rest.1, rest.2)
  | _, _, _, _ => ([], 0)

/-- An element-wise instruction: its vector result and flags. -/
def elementwise (t : VT) (mask : Word) (f : Nat → Nat → Nat → Nat × Flags) (a b d : Vec) : Vec × Flags :=
  let r := laneMap mask.toNat f 0 (lanesOf t a) (lanesOf t b) (lanesOf t d)
  (vecOf t.width r.1, r.2)

/-- An element-wise instruction on va and a second operand. -/
def vop (t : VT) (m : KReg) (f : Nat → Nat → Nat → Nat × Flags) (d a : Reg) (b : Vec) (s : State) : State :=
  let r := elementwise t (s.task.rk m) f (s.rv a) b (s.rv d)
  setV d r.1 r.2 s

/-- A scalar taken as every lane of a type (R268, R270). -/
def splat (t : VT) (x : Word) : Vec := vecOf t.width (List.replicate t.lanes (x.toNat % 2 ^ t.width))

/-! ## Lane operations (R253 to R257) -/

/-- The value of a lane of class F. -/
def fval (t : VT) (x : Nat) : FVal := fdecode (vtFmt t) x

/-- A lane of class F: the exact result rounded once (R254). -/
def frnd (t : VT) (r : FVal × Flags) : Nat × Flags := frne (vtFmt t) r

/-- An integer result wrapped to the lane (R255). -/
def wrapLane (t : VT) (n : Int) : Nat × Flags := (intBits t.width n, 0)

/-- The number that a lane of class I holds: signed for S, unsigned for Z. -/
def ival (t : VT) (x : Nat) : Int := if t.isS then signedOf t.width x else (x : Int)

/-- a + b. -/
def laneAdd (t : VT) (a b _d : Nat) : Nat × Flags :=
  if t.isF then frnd t (fadd (fval t a) (fval t b)) else wrapLane t (ival t a + ival t b)
/-- a − b. -/
def laneSub (t : VT) (a b _d : Nat) : Nat × Flags :=
  if t.isF then frnd t (fsub (fval t a) (fval t b)) else wrapLane t (ival t a - ival t b)
/-- a × b. -/
def laneMul (t : VT) (a b _d : Nat) : Nat × Flags :=
  if t.isF then frnd t (fmul (fval t a) (fval t b)) else wrapLane t (ival t a * ival t b)
/-- a × b + d. -/
def laneFma (t : VT) (a b d : Nat) : Nat × Flags := frnd t (ffma (fval t a) (fval t b) (fval t d))
/-- d − a × b. -/
def laneFms (t : VT) (a b d : Nat) : Nat × Flags := frnd t (ffma (fneg (fval t a)) (fval t b) (fval t d))
/-- The lesser. -/
def laneMin (t : VT) (a b _d : Nat) : Nat × Flags :=
  if t.isF then frnd t (fmin (fval t a) (fval t b), 0) else (if ival t a ≤ ival t b then a else b, 0)
/-- The greater. -/
def laneMax (t : VT) (a b _d : Nat) : Nat × Flags :=
  if t.isF then frnd t (fmax (fval t a) (fval t b), 0) else (if ival t a ≤ ival t b then b else a, 0)
/-- |a|: the sign bit cleared, or the canonical NaN (R254); the most negative value stays (R255). -/
def laneAbs (t : VT) (a _b _d : Nat) : Nat × Flags :=
  if t.isF then ((if (fval t a).isNan then (vtFmt t).nan else a % 2 ^ (t.width - 1)), 0)
  else wrapLane t (ival t a).natAbs
/-- −a. -/
def laneNeg (t : VT) (a _b _d : Nat) : Nat × Flags :=
  if t.isF then ((if (fval t a).isNan then (vtFmt t).nan else a ^^^ 2 ^ (t.width - 1)), 0)
  else wrapLane t (-(ival t a))

/-- A sum saturated to the type's extremes (R255). -/
def satLane (t : VT) (n : Int) : Nat × Flags :=
  let (lo, hi) := intRange t.isS t.width
  (intBits t.width (max lo (min hi n)), 0)

/-- a + b, saturated. -/
def laneAdds (t : VT) (a b _d : Nat) : Nat × Flags := satLane t (ival t a + ival t b)
/-- a − b, saturated. -/
def laneSubs (t : VT) (a b _d : Nat) : Nat × Flags := satLane t (ival t a - ival t b)
/-- a AND b. -/
def laneAnd (a b _d : Nat) : Nat × Flags := (a &&& b, 0)
/-- a OR b. -/
def laneOr (a b _d : Nat) : Nat × Flags := (a ||| b, 0)
/-- a XOR b. -/
def laneXor (a b _d : Nat) : Nat × Flags := (a ^^^ b, 0)
/-- a shifted left by b modulo the width. -/
def laneShl (t : VT) (a b _d : Nat) : Nat × Flags := (a * 2 ^ (b % t.width) % 2 ^ t.width, 0)
/-- a shifted right by b modulo the width: with sign bits for S. -/
def laneShr (t : VT) (a b _d : Nat) : Nat × Flags := wrapLane t (ival t a / ((2 ^ (b % t.width) : Nat) : Int))

/-! ## Element-wise arithmetic (R253) -/

/-- VADD (R253). -/
def execVadd (d a b : Reg) (m : KReg) (t : VT) (s : State) : Out := .next (vop t m (laneAdd t) d a (s.rv b) s)
/-- VSUB (R253). -/
def execVsub (d a b : Reg) (m : KReg) (t : VT) (s : State) : Out := .next (vop t m (laneSub t) d a (s.rv b) s)
/-- VMUL (R253). -/
def execVmul (d a b : Reg) (m : KReg) (t : VT) (s : State) : Out := .next (vop t m (laneMul t) d a (s.rv b) s)
/-- VFMA (R254). -/
def execVfma (d a b : Reg) (m : KReg) (t : VT) (s : State) : Out := .next (vop t m (laneFma t) d a (s.rv b) s)
/-- VFMS (R254). -/
def execVfms (d a b : Reg) (m : KReg) (t : VT) (s : State) : Out := .next (vop t m (laneFms t) d a (s.rv b) s)
/-- VMIN (R253). -/
def execVmin (d a b : Reg) (m : KReg) (t : VT) (s : State) : Out := .next (vop t m (laneMin t) d a (s.rv b) s)
/-- VMAX (R253). -/
def execVmax (d a b : Reg) (m : KReg) (t : VT) (s : State) : Out := .next (vop t m (laneMax t) d a (s.rv b) s)
/-- VABS (R253). -/
def execVabs (d a : Reg) (m : KReg) (t : VT) (s : State) : Out := .next (vop t m (laneAbs t) d a 0 s)
/-- VNEG (R253). -/
def execVneg (d a : Reg) (m : KReg) (t : VT) (s : State) : Out := .next (vop t m (laneNeg t) d a 0 s)
/-- VADDS (R255). -/
def execVadds (d a b : Reg) (m : KReg) (t : VT) (s : State) : Out := .next (vop t m (laneAdds t) d a (s.rv b) s)
/-- VSUBS (R255). -/
def execVsubs (d a b : Reg) (m : KReg) (t : VT) (s : State) : Out := .next (vop t m (laneSubs t) d a (s.rv b) s)
/-- VAND (R253). -/
def execVand (d a b : Reg) (m : KReg) (t : VT) (s : State) : Out := .next (vop t m laneAnd d a (s.rv b) s)
/-- VOR (R253). -/
def execVor (d a b : Reg) (m : KReg) (t : VT) (s : State) : Out := .next (vop t m laneOr d a (s.rv b) s)
/-- VXOR (R253). -/
def execVxor (d a b : Reg) (m : KReg) (t : VT) (s : State) : Out := .next (vop t m laneXor d a (s.rv b) s)
/-- VSHL (R253). -/
def execVshl (d a b : Reg) (m : KReg) (t : VT) (s : State) : Out := .next (vop t m (laneShl t) d a (s.rv b) s)
/-- VSHR (R253). -/
def execVshr (d a b : Reg) (m : KReg) (t : VT) (s : State) : Out := .next (vop t m (laneShr t) d a (s.rv b) s)

/-! ## Special functions (R256, R257) -/

/-- A special function of one lane, which sees the lane's width and bits and its value. -/
def laneSpec (t : VT) (f : FFmt → Nat → Nat → FVal → Nat × Flags) (a _b _d : Nat) : Nat × Flags :=
  f (vtFmt t) t.width a (fval t a)

/-- VDIV (R256). -/
def execVdiv (d a b : Reg) (m : KReg) (t : VT) (s : State) : Out :=
  .next (vop t m (fun a b _ => fdiv (vtFmt t) (fval t a) (fval t b)) d a (s.rv b) s)
/-- VSQRT (R256). -/
def execVsqrt (d a : Reg) (m : KReg) (t : VT) (s : State) : Out :=
  .next (vop t m (laneSpec t fun f _ _ x => fsqrt f x) d a 0 s)
/-- VRSQRT (R256). -/
def execVrsqrt (d a : Reg) (m : KReg) (t : VT) (s : State) : Out :=
  .next (vop t m (laneSpec t fun f _ _ x => frsqrt f x) d a 0 s)
/-- VRCP (R256). -/
def execVrcp (d a : Reg) (m : KReg) (t : VT) (s : State) : Out :=
  .next (vop t m (laneSpec t fun f _ _ x => fdiv f (fofInt 1) x) d a 0 s)
/-- VEXP2 (R256). -/
def execVexp2 (d a : Reg) (m : KReg) (t : VT) (s : State) : Out := .next (vop t m (laneSpec t fexp2) d a 0 s)
/-- VLOG2 (R256). -/
def execVlog2 (d a : Reg) (m : KReg) (t : VT) (s : State) : Out := .next (vop t m (laneSpec t flog2) d a 0 s)
/-- VSIN (R256). -/
def execVsin (d a : Reg) (m : KReg) (t : VT) (s : State) : Out := .next (vop t m (laneSpec t fsin) d a 0 s)
/-- VCOS (R256). -/
def execVcos (d a : Reg) (m : KReg) (t : VT) (s : State) : Out := .next (vop t m (laneSpec t fcos) d a 0 s)
/-- VTANH (R256). -/
def execVtanh (d a : Reg) (m : KReg) (t : VT) (s : State) : Out := .next (vop t m (laneSpec t ftanh) d a 0 s)

/-! ## Compares, selection and masks (R258, R259) -/

/-- The bits of a compare: bit i where lane i is active and the comparison holds. -/
def cmpBits (mask : Nat) (f : Nat → Nat → Bool) : Nat → List Nat → List Nat → Nat
  | i, a :: as, b :: bs => (if mask.testBit i && f a b then 1 else 0) + 2 * cmpBits mask f (i + 1) as bs
  | _, _, _ => 0

/-- A compare into a mask register (R258). -/
def vcmp (f : Nat → Nat → Bool) (kd : KReg) (a b : Reg) (m : KReg) (t : VT) (s : State) : State :=
  let v := BitVec.ofNat 64 (cmpBits (s.task.rk m).toNat f 0 (lanesOf t (s.rv a)) (lanesOf t (s.rv b)))
  adv (s.modTask (·.wk kd v))

/-- a = b. -/
def laneEq (t : VT) (a b : Nat) : Bool := if t.isF then feq (fval t a) (fval t b) else a == b
/-- a < b. -/
def laneLt (t : VT) (a b : Nat) : Bool := if t.isF then flt (fval t a) (fval t b) else decide (ival t a < ival t b)

/-- VCMPEQ (R258). -/
def execVcmpeq (kd : KReg) (a b : Reg) (m : KReg) (t : VT) (s : State) : Out := .next (vcmp (laneEq t) kd a b m t s)
/-- VCMPNE (R258). -/
def execVcmpne (kd : KReg) (a b : Reg) (m : KReg) (t : VT) (s : State) : Out :=
  .next (vcmp (fun x y => !laneEq t x y) kd a b m t s)
/-- VCMPLT (R258). -/
def execVcmplt (kd : KReg) (a b : Reg) (m : KReg) (t : VT) (s : State) : Out := .next (vcmp (laneLt t) kd a b m t s)
/-- VCMPLE (R258). -/
def execVcmple (kd : KReg) (a b : Reg) (m : KReg) (t : VT) (s : State) : Out :=
  .next (vcmp (fun x y => laneLt t x y || laneEq t x y) kd a b m t s)

/-- VSEL: lane i of va where bit i of the mask is 1, else of vb (R259). -/
def execVsel (d a b : Reg) (m : KReg) (t : VT) (s : State) : Out :=
  .next (setV d (elementwise t (s.task.rk m) (fun x _ _ => (x, 0)) (s.rv a) 0 (s.rv b)).1 0 s)

/-- A mask register written. -/
def setK (kd : KReg) (v : Word) (s : State) : State := adv (s.modTask (·.wk kd v))

/-- KAND (R259). -/
def execKand (kd ka kb : KReg) (s : State) : Out := .next (setK kd (s.task.rk ka &&& s.task.rk kb) s)
/-- KOR (R259). -/
def execKor (kd ka kb : KReg) (s : State) : Out := .next (setK kd (s.task.rk ka ||| s.task.rk kb) s)
/-- KXOR (R259). -/
def execKxor (kd ka kb : KReg) (s : State) : Out := .next (setK kd (s.task.rk ka ^^^ s.task.rk kb) s)
/-- KNOT (R259). -/
def execKnot (kd ka : KReg) (s : State) : Out := .next (setK kd (~~~(s.task.rk ka)) s)
/-- KMOV of a mask register (R259). -/
def execKmov (kd ka : KReg) (s : State) : Out := .next (setK kd (s.task.rk ka) s)
/-- KMOV of a scalar (R259). -/
def execKmovFromX (kd : KReg) (a : Reg) (s : State) : Out := .next (setK kd (s.rx a) s)
/-- KMOV to a scalar (R259). -/
def execKmovToX (d : Reg) (ka : KReg) (s : State) : Out := .next (setX d (s.task.rk ka) s)

/-! ## Conversions (R260 to R265) -/

/-- One element converted (R261 to R263). -/
def convert (task : Task) (mode : RMode) (t src : VT) (x : Nat) : Nat × Flags :=
  if t = src then (x, 0)
  else if t.isI && src.isI then
    let (lo, hi) := intRange t.isS t.width
    let (i, f) := satInt lo hi (ival src x)
    (intBits t.width i, f)
  else elemEnc task.dta task.dtb (vtCode t) mode (elemVal task.dta task.dtb (vtCode src) x)

/-- The source elements of a conversion (R261). -/
def convSource (part : Nat) (t src : VT) (a : Vec) : List Nat :=
  let ns := src.lanes
  let nt := t.lanes
  ((lanesOf src a).drop (if ns > nt then part * nt else 0)).take (min ns nt)

/-- VCVT (R261). -/
def vcvt (d a : Reg) (mode : RMode) (part : Nat) (t src : VT) (s : State) : State :=
  let rs := (convSource part t src (s.rv a)).map (convert s.task mode t src)
  setV d (vecOf t.width (rs.map (·.1))) (rs.foldr (fun r f => r.2 ||| f) 0) s

/-- VCVT (R261). -/
def execVcvt (d a : Reg) (mode : RMode) (part : Fin 4) (t src : VT) (s : State) : Out :=
  .next (vcvt d a mode part.val t src s)

/-- One element under EF: its code, its new residue and the flags (R245). -/
def efElem (task : Task) (t : VT) (x : FVal) (q : Nat) : Nat × Nat × Flags :=
  let r := frne fmtF32 (fadd x (fdecode fmtF32 q))
  let sum := fdecode fmtF32 r.1
  let y := elemEnc task.dta task.dtb (vtCode t) .rne sum
  let yv := elemVal task.dta task.dtb (vtCode t) y.1
  let res := if sum.isFin && yv.isFin then (frne fmtF32 (fsub sum yv)).1 else 0
  (y.1, res, r.2 ||| y.2)

/-- VCVT under EF: the residues lie in qn, or in the pair q(2m), q(2m + 1) for more than 16 elements (R245, R264). -/
def vcvtEf (d a : Reg) (q : QReg) (part : Nat) (t src : VT) (s : State) : State :=
  let xs := (convSource part t src (s.rv a)).map (fdecode (vtFmt src))
  let pair := decide (xs.length > 16)
  let q1 : QReg := q + 1
  let qs := lanesFrom 32 s.task.q[q].toNat 16 ++ (if pair then lanesFrom 32 s.task.q[q1].toNat 16 else [])
  let rs := (xs.zip qs).map fun (x, r) => efElem s.task t x r
  let qs' := rs.map (·.2.1) ++ qs.drop rs.length
  let s := s.modTask fun k =>
    let k := { k with q := k.q.set q.val (vecOf 32 (qs'.take 16)) }
    if pair then { k with q := k.q.set q1.val (vecOf 32 (qs'.drop 16)) } else k
  setV d (vecOf t.width (rs.map (·.1))) (rs.foldr (fun r f => r.2.2 ||| f) 0) s

/-- VCVT under EF (R264). -/
def execVcvtEf (d a : Reg) (q : QReg) (part : Fin 4) (t src : VT) (s : State) : Out := .next (vcvtEf d a q part.val t src s)

/-! ## Reductions and scans (R249, R266, R267) -/

/-- One level of the tree: neighbours combined. -/
def treeLevel (op : α → α → α × Flags) : List α → List α × Flags
  | x :: y :: rest =>
    let r := op x y
    let more := treeLevel op rest
    (r.1 :: more.1, r.2 ||| more.2)
  | l => (l, 0)

/-- The tree of R249 over 2^k lanes: its root and flags. -/
def tree (op : α → α → α × Flags) : Nat → List α → List α × Flags
  | 0, l => (l, 0)
  | k + 1, l =>
    let a := treeLevel op l
    let b := tree op k a.1
    (b.1, a.2 ||| b.2)

/-- Lanes as values, with the identity in masked lanes. -/
def maskedVals (mask : Nat) (f : Nat → α) (e : α) : Nat → List Nat → List α
  | _, [] => []
  | i, x :: xs => (if mask.testBit i then f x else e) :: maskedVals mask f e (i + 1) xs

/-- FP32_RNE of a sum (R249). -/
def sum32 (a b : FVal) : FVal × Flags := rne32 (fadd a b)

/-- The tree result of a floating reduction in the lane's format (R266). -/
def redF (t : VT) (mask : Nat) (op : FVal → FVal → FVal × Flags) (e : FVal) (a : Vec) : Nat × Flags :=
  let r := tree op 6 (maskedVals mask (fval t) e 0 (lanesOf t a))
  let out := frne (vtFmt t) (r.1.headD e, 0)
  (out.1, r.2 ||| out.2)

/-- The tree result of an integer reduction, wrapped to the lane. -/
def redI (t : VT) (mask : Nat) (op : Int → Int → Int) (e : Int) (a : Vec) : Nat × Flags :=
  let r := tree (fun x y => (op x y, (0 : Flags))) 6 (maskedVals mask (ival t) e 0 (lanesOf t a))
  (intBits t.width (r.1.headD e), 0)

/-- A reduction: the result in lane 0, zeros elsewhere (R266). -/
def vred (d : Reg) (t : VT) (r : Nat × Flags) (s : State) : State := setV d (vecOf t.width [r.1]) r.2 s

/-- VREDSUM (R266). -/
def execVredsum (d a : Reg) (m : KReg) (t : VT) (s : State) : Out :=
  let mask := (s.task.rk m).toNat
  .next (vred d t (if t.isF then redF t mask sum32 (fzero true) (s.rv a) else redI t mask (· + ·) 0 (s.rv a)) s)
/-- VREDMIN (R266). -/
def execVredmin (d a : Reg) (m : KReg) (t : VT) (s : State) : Out :=
  let mask := (s.task.rk m).toNat
  .next (vred d t (if t.isF then redF t mask (fun x y => (fmin x y, 0)) (.inf false) (s.rv a)
    else redI t mask min (intRange t.isS t.width).2 (s.rv a)) s)
/-- VREDMAX (R266). -/
def execVredmax (d a : Reg) (m : KReg) (t : VT) (s : State) : Out :=
  let mask := (s.task.rk m).toNat
  .next (vred d t (if t.isF then redF t mask (fun x y => (fmax x y, 0)) (.inf true) (s.rv a)
    else redI t mask max (intRange t.isS t.width).1 (s.rv a)) s)

/-- A running sum: `step` adds a lane, `out` delivers the sum in the lane's format (R267). -/
def scanLanes (mask : Nat) (excl : Bool) (step : α → Nat → α × Flags) (out : α → Nat × Flags) :
    Nat → α → List Nat → List Nat → List Nat × Flags
  | i, r, a :: as, d :: ds =>
    if mask.testBit i then
      let r' := step r a
      let o := out (if excl then r else r'.1)
      let rest := scanLanes mask excl step out (i + 1) r'.1 as ds
      (o.1 :: rest.1, r'.2 ||| o.2 ||| rest.2)
    else
      let rest := scanLanes mask excl step out (i + 1) r as ds
      (d :: rest.1, rest.2)
  | _, _, _, _ => ([], 0)

/-- The sum kinds of VSCAN (R267). -/
def vscan (excl : Bool) (d a : Reg) (m : KReg) (t : VT) (s : State) : State :=
  let mask := (s.task.rk m).toNat
  let as := lanesOf t (s.rv a)
  let ds := lanesOf t (s.rv d)
  let r :=
    if t.isF then
      scanLanes mask excl (fun r x => sum32 r (fval t x)) (fun r => frne (vtFmt t) (r, 0)) 0 (fzero true) as ds
    else
      scanLanes mask excl (fun (r : Int) x => (r + ival t x, 0)) (fun r => (intBits t.width r, 0)) 0 0 as ds
  setV d (vecOf t.width r.1) r.2 s

/-- VSCAN incl (R267). -/
def execVscanIncl (d a : Reg) (m : KReg) (t : VT) (s : State) : Out := .next (vscan false d a m t s)
/-- VSCAN excl (R267). -/
def execVscanExcl (d a : Reg) (m : KReg) (t : VT) (s : State) : Out := .next (vscan true d a m t s)

/-- The active lanes, in ascending order. -/
def activeLanes (mask : Nat) : Nat → List Nat → List Nat
  | _, [] => []
  | i, x :: xs => if mask.testBit i then x :: activeLanes mask (i + 1) xs else activeLanes mask (i + 1) xs

/-- VSCAN compact (R267). -/
def execVscanCompact (d a : Reg) (m : KReg) (t : VT) (s : State) : Out :=
  .next (setV d (vecOf t.width (activeLanes (s.task.rk m).toNat 0 (lanesOf t (s.rv a)))) 0 s)

/-! ## Permutes and moves (R268, R269) -/

/-- VPERM (R268). -/
def execVperm (d a b : Reg) (m : KReg) (t : VT) (s : State) : Out :=
  let src := lanesOf t (s.rv a)
  .next (vop t m (fun _ b _ => (src.getD (b % t.lanes) 0, 0)) d a (s.rv b) s)

/-- VBCAST (R268). -/
def execVbcast (d a : Reg) (m : KReg) (t : VT) (s : State) : Out :=
  .next (vop t m (fun _ b _ => (b, 0)) d 0 (splat t (s.rx a)) s)

/-- The lanes moved down by `n`, with zeros from outside (R268). -/
def slide (n : Int) (l : List Nat) : List Nat :=
  (List.range l.length).map fun (i : Nat) =>
    let j := (i : Int) + n
    if j < 0 then 0 else l.getD j.toNat 0

/-- VSLIDE (R268). -/
def execVslide (d a b : Reg) (m : KReg) (t : VT) (s : State) : Out :=
  .next (vop t m (fun _ b _ => (b, 0)) d a (vecOf t.width (slide (s.rx b).toInt (lanesOf t (s.rv a)))) s)

/-- Two lists interleaved. -/
def interleave : List Nat → List Nat → List Nat
  | a :: as, b :: bs => a :: b :: interleave as bs
  | _, _ => []

/-- Every other element, from the first on. -/
def evens : List Nat → List Nat
  | a :: _ :: rest => a :: evens rest
  | l => l

/-- A register pair written: vd and vd + 1 (R269). -/
def setPair (d : Reg) (v w : Vec) (s : State) : State := adv ((s.wv d v).wv (regPlus d 1) w)

/-- VZIP (R269). -/
def execVzip (d a b : Reg) (t : VT) (s : State) : Out :=
  let h := t.lanes / 2
  let as := lanesOf t (s.rv a)
  let bs := lanesOf t (s.rv b)
  .next (setPair d (vecOf t.width (interleave (as.take h) (bs.take h)))
    (vecOf t.width (interleave (as.drop h) (bs.drop h))) s)

/-- VUNZIP (R269). -/
def execVunzip (d a b : Reg) (t : VT) (s : State) : Out :=
  let as := lanesOf t (s.rv a)
  let bs := lanesOf t (s.rv b)
  .next (setPair d (vecOf t.width (evens as ++ evens bs)) (vecOf t.width (evens as.tail ++ evens bs.tail)) s)

/-- VMOVX (R268). -/
def execVmovx (d a b : Reg) (t : VT) (s : State) : Out :=
  let x := lane t.width (s.rv a) ((s.rx b).toNat % t.lanes)
  .next (setX d (BitVec.ofInt 64 (if t.isS then signedOf t.width x else (x : Int))) s)

/-- VMOVV (R268). -/
def execVmovv (d a b : Reg) (t : VT) (s : State) : Out :=
  let l := (lanesOf t (s.rv d)).set ((s.rx b).toNat % t.lanes) ((s.rx a).toNat % 2 ^ t.width)
  .next (setV d (vecOf t.width l) 0 s)

/-! ## Vector and scalar (R270) -/

/-- VADDX (R270). -/
def execVaddx (d a b : Reg) (m : KReg) (t : VT) (s : State) : Out :=
  .next (vop t m (laneAdd t) d a (splat t (s.rx b)) s)
/-- VSUBX (R270). -/
def execVsubx (d a b : Reg) (m : KReg) (t : VT) (s : State) : Out :=
  .next (vop t m (laneSub t) d a (splat t (s.rx b)) s)
/-- VMULX (R270). -/
def execVmulx (d a b : Reg) (m : KReg) (t : VT) (s : State) : Out :=
  .next (vop t m (laneMul t) d a (splat t (s.rx b)) s)
/-- VFMAX (R270). -/
def execVfmax (d a b : Reg) (m : KReg) (t : VT) (s : State) : Out :=
  .next (vop t m (laneFma t) d a (splat t (s.rx b)) s)
/-- VMINX (R270). -/
def execVminx (d a b : Reg) (m : KReg) (t : VT) (s : State) : Out :=
  .next (vop t m (laneMin t) d a (splat t (s.rx b)) s)
/-- VMAXX (R270). -/
def execVmaxx (d a b : Reg) (m : KReg) (t : VT) (s : State) : Out :=
  .next (vop t m (laneMax t) d a (splat t (s.rx b)) s)

end Sys2Proof.Machine
end

