-- ==== Sys2Proof/Machine/Dispatch.lean ====
section
/-!
DEFINITION. One arm for each row of the opcode table: the call of its meaning.
-/
namespace Sys2Proof.Machine

/-- The effect of an instruction or happening on the machine. -/
def exec (i : Instr) (s : State) : Host.Outcome State Fault Refusal :=
  match i with
  | .add d a b => Sys2Proof.Machine.execAdd d a b s
  | .sub d a b => Sys2Proof.Machine.execSub d a b s
  | .and d a b => Sys2Proof.Machine.execAnd d a b s
  | .or d a b => Sys2Proof.Machine.execOr d a b s
  | .xor d a b => Sys2Proof.Machine.execXor d a b s
  | .sll d a b => Sys2Proof.Machine.execSll d a b s
  | .srl d a b => Sys2Proof.Machine.execSrl d a b s
  | .sra d a b => Sys2Proof.Machine.execSra d a b s
  | .slt d a b => Sys2Proof.Machine.execSlt d a b s
  | .sltu d a b => Sys2Proof.Machine.execSltu d a b s
  | .mul d a b => Sys2Proof.Machine.execMul d a b s
  | .mulh d a b => Sys2Proof.Machine.execMulh d a b s
  | .mulhu d a b => Sys2Proof.Machine.execMulhu d a b s
  | .div d a b => Sys2Proof.Machine.execDiv d a b s
  | .divu d a b => Sys2Proof.Machine.execDivu d a b s
  | .rem d a b => Sys2Proof.Machine.execRem d a b s
  | .remu d a b => Sys2Proof.Machine.execRemu d a b s
  | .min d a b => Sys2Proof.Machine.execMin d a b s
  | .max d a b => Sys2Proof.Machine.execMax d a b s
  | .minu d a b => Sys2Proof.Machine.execMinu d a b s
  | .maxu d a b => Sys2Proof.Machine.execMaxu d a b s
  | .clz d a => Sys2Proof.Machine.execClz d a s
  | .ctz d a => Sys2Proof.Machine.execCtz d a s
  | .popc d a => Sys2Proof.Machine.execPopc d a s
  | .addi d a imm => Sys2Proof.Machine.execAddi d a imm s
  | .andi d a imm => Sys2Proof.Machine.execAndi d a imm s
  | .ori d a imm => Sys2Proof.Machine.execOri d a imm s
  | .xori d a imm => Sys2Proof.Machine.execXori d a imm s
  | .slli d a sh => Sys2Proof.Machine.execSlli d a sh s
  | .srli d a sh => Sys2Proof.Machine.execSrli d a sh s
  | .srai d a sh => Sys2Proof.Machine.execSrai d a sh s
  | .slti d a imm => Sys2Proof.Machine.execSlti d a imm s
  | .sltiu d a imm => Sys2Proof.Machine.execSltiu d a imm s
  | .lui d a imm => Sys2Proof.Machine.execLui d a imm s
  | .pmk d a b => Sys2Proof.Machine.execPmk d a b s
  | .pget d a f => Sys2Proof.Machine.execPget d a f s
  | .pset d a b f => Sys2Proof.Machine.execPset d a b f s
  | .addp d a b => Sys2Proof.Machine.execAddp d a b s
  | .subp d a b => Sys2Proof.Machine.execSubp d a b s
  | .beq a b off => Sys2Proof.Machine.execBeq a b off s
  | .bne a b off => Sys2Proof.Machine.execBne a b off s
  | .blt a b off => Sys2Proof.Machine.execBlt a b off s
  | .bge a b off => Sys2Proof.Machine.execBge a b off s
  | .bltu a b off => Sys2Proof.Machine.execBltu a b off s
  | .bgeu a b off => Sys2Proof.Machine.execBgeu a b off s
  | .jal d off => Sys2Proof.Machine.execJal d off s
  | .jalr d a imm => Sys2Proof.Machine.execJalr d a imm s
  | .rep n c sd sa sb => Sys2Proof.Machine.execRep n c sd sa sb s
  | .fuse g => Sys2Proof.Machine.execFuse g s
  | .split => Sys2Proof.Machine.execSplit s
  | .yield => Sys2Proof.Machine.execYield s
  | .await n b => Sys2Proof.Machine.execAwait n b s
  | .exit => Sys2Proof.Machine.execExit s
  | .termwait d => Sys2Proof.Machine.execTermwait d s
  | .fence sc => Sys2Proof.Machine.execFence sc s
  | .sysr d r => Sys2Proof.Machine.execSysr d r s
  | .sysw a r => Sys2Proof.Machine.execSysw a r s
  | .dtld a t => Sys2Proof.Machine.execDtld a t s
  | .dtldInt8 t => Sys2Proof.Machine.execDtldInt8 t s
  | .dtldE4m3 t => Sys2Proof.Machine.execDtldE4m3 t s
  | .dtldE5m2 t => Sys2Proof.Machine.execDtldE5m2 t s
  | .upret => Sys2Proof.Machine.execUpret s
  | .uiret => Sys2Proof.Machine.execUiret s
  | .svr d r => Sys2Proof.Machine.execSvr d r s
  | .svw a r => Sys2Proof.Machine.execSvw a r s
  | .tlbinv a b sc => Sys2Proof.Machine.execTlbinv a b sc s
  | .tlbinvAll b sc => Sys2Proof.Machine.execTlbinvAll b sc s
  | .cacheinvIcache a => Sys2Proof.Machine.execCacheinvIcache a s
  | .cacheinvL2 a => Sys2Proof.Machine.execCacheinvL2 a s
  | .wfi => Sys2Proof.Machine.execWfi s
  | .ldb d base st h off => Sys2Proof.Machine.execLdb d base st h off s
  | .ldbu d base st h off => Sys2Proof.Machine.execLdbu d base st h off s
  | .ldh d base st h off => Sys2Proof.Machine.execLdh d base st h off s
  | .ldhu d base st h off => Sys2Proof.Machine.execLdhu d base st h off s
  | .ldw d base st h off => Sys2Proof.Machine.execLdw d base st h off s
  | .ldwu d base st h off => Sys2Proof.Machine.execLdwu d base st h off s
  | .ldd d base st h off => Sys2Proof.Machine.execLdd d base st h off s
  | .ldf d base st h off => Sys2Proof.Machine.execLdf d base st h off s
  | .stb v base st h off => Sys2Proof.Machine.execStb v base st h off s
  | .sth v base st h off => Sys2Proof.Machine.execSth v base st h off s
  | .stw v base st h off => Sys2Proof.Machine.execStw v base st h off s
  | .std v base st h off => Sys2Proof.Machine.execStd v base st h off s
  | .stf v base st h off => Sys2Proof.Machine.execStf v base st h off s
  | .vld d base st h off => Sys2Proof.Machine.execVld d base st h off s
  | .vst v base st h off => Sys2Proof.Machine.execVst v base st h off s
  | .ldx d a b st z => Sys2Proof.Machine.execLdx d a b st z s
  | .stx v a b st z => Sys2Proof.Machine.execStx v a b st z s
  | .vgather d a b st z => Sys2Proof.Machine.execVgather d a b st z s
  | .vscatter v a b st z => Sys2Proof.Machine.execVscatter v a b st z s
  | .tld v c sh => Sys2Proof.Machine.execTld v c sh s
  | .tst v c sh => Sys2Proof.Machine.execTst v c sh s
  | .amoadd d a b sc z => Sys2Proof.Machine.execAmoadd d a b sc z s
  | .amoand d a b sc z => Sys2Proof.Machine.execAmoand d a b sc z s
  | .amoor d a b sc z => Sys2Proof.Machine.execAmoor d a b sc z s
  | .amoxor d a b sc z => Sys2Proof.Machine.execAmoxor d a b sc z s
  | .amomin d a b sc z => Sys2Proof.Machine.execAmomin d a b sc z s
  | .amomax d a b sc z => Sys2Proof.Machine.execAmomax d a b sc z s
  | .amominu d a b sc z => Sys2Proof.Machine.execAmominu d a b sc z s
  | .amomaxu d a b sc z => Sys2Proof.Machine.execAmomaxu d a b sc z s
  | .amoswap d a b sc z => Sys2Proof.Machine.execAmoswap d a b sc z s
  | .amocas d a b sc z => Sys2Proof.Machine.execAmocas d a b sc z s
  | .amofadd d a b sc => Sys2Proof.Machine.execAmofadd d a b sc s
  | .redadd a b sc z => Sys2Proof.Machine.execRedadd a b sc z s
  | .redand a b sc z => Sys2Proof.Machine.execRedand a b sc z s
  | .redor a b sc z => Sys2Proof.Machine.execRedor a b sc z s
  | .redxor a b sc z => Sys2Proof.Machine.execRedxor a b sc z s
  | .redmin a b sc z => Sys2Proof.Machine.execRedmin a b sc z s
  | .redmax a b sc z => Sys2Proof.Machine.execRedmax a b sc z s
  | .redminu a b sc z => Sys2Proof.Machine.execRedminu a b sc z s
  | .redmaxu a b sc z => Sys2Proof.Machine.execRedmaxu a b sc z s
  | .redfadd a b sc => Sys2Proof.Machine.execRedfadd a b sc s
  | .lease a b => Sys2Proof.Machine.execLease a b s
  | .evsig a => Sys2Proof.Machine.execEvsig a s
  | .evcfg a b => Sys2Proof.Machine.execEvcfg a b s
  | .town a => Sys2Proof.Machine.execTown a s
  | .stt v a t => Sys2Proof.Machine.execStt v a t s
  | .ldt v a t st => Sys2Proof.Machine.execLdt v a t st s
  | .ldtn v a t st => Sys2Proof.Machine.execLdtn v a t st s
  | .tclose a => Sys2Proof.Machine.execTclose a s
  | .waitc n b => Sys2Proof.Machine.execWaitc n b s
  | .cget d n => Sys2Proof.Machine.execCget d n s
  | .cset n b => Sys2Proof.Machine.execCset n b s
  | .cadd n b => Sys2Proof.Machine.execCadd n b s
  | .rand d sel => Sys2Proof.Machine.execRand d sel s
  | .vadd d a b m t => Sys2Proof.Machine.execVadd d a b m t s
  | .vsub d a b m t => Sys2Proof.Machine.execVsub d a b m t s
  | .vmul d a b m t => Sys2Proof.Machine.execVmul d a b m t s
  | .vfma d a b m t => Sys2Proof.Machine.execVfma d a b m t s
  | .vfms d a b m t => Sys2Proof.Machine.execVfms d a b m t s
  | .vmin d a b m t => Sys2Proof.Machine.execVmin d a b m t s
  | .vmax d a b m t => Sys2Proof.Machine.execVmax d a b m t s
  | .vabs d a m t => Sys2Proof.Machine.execVabs d a m t s
  | .vneg d a m t => Sys2Proof.Machine.execVneg d a m t s
  | .vadds d a b m t => Sys2Proof.Machine.execVadds d a b m t s
  | .vsubs d a b m t => Sys2Proof.Machine.execVsubs d a b m t s
  | .vand d a b m t => Sys2Proof.Machine.execVand d a b m t s
  | .vor d a b m t => Sys2Proof.Machine.execVor d a b m t s
  | .vxor d a b m t => Sys2Proof.Machine.execVxor d a b m t s
  | .vshl d a b m t => Sys2Proof.Machine.execVshl d a b m t s
  | .vshr d a b m t => Sys2Proof.Machine.execVshr d a b m t s
  | .vdiv d a b m t => Sys2Proof.Machine.execVdiv d a b m t s
  | .vsqrt d a m t => Sys2Proof.Machine.execVsqrt d a m t s
  | .vrsqrt d a m t => Sys2Proof.Machine.execVrsqrt d a m t s
  | .vrcp d a m t => Sys2Proof.Machine.execVrcp d a m t s
  | .vexp2 d a m t => Sys2Proof.Machine.execVexp2 d a m t s
  | .vlog2 d a m t => Sys2Proof.Machine.execVlog2 d a m t s
  | .vsin d a m t => Sys2Proof.Machine.execVsin d a m t s
  | .vcos d a m t => Sys2Proof.Machine.execVcos d a m t s
  | .vtanh d a m t => Sys2Proof.Machine.execVtanh d a m t s
  | .vcmpeq kd a b m t => Sys2Proof.Machine.execVcmpeq kd a b m t s
  | .vcmpne kd a b m t => Sys2Proof.Machine.execVcmpne kd a b m t s
  | .vcmplt kd a b m t => Sys2Proof.Machine.execVcmplt kd a b m t s
  | .vcmple kd a b m t => Sys2Proof.Machine.execVcmple kd a b m t s
  | .vsel d a b m t => Sys2Proof.Machine.execVsel d a b m t s
  | .kand kd ka kb => Sys2Proof.Machine.execKand kd ka kb s
  | .kor kd ka kb => Sys2Proof.Machine.execKor kd ka kb s
  | .kxor kd ka kb => Sys2Proof.Machine.execKxor kd ka kb s
  | .knot kd ka => Sys2Proof.Machine.execKnot kd ka s
  | .kmov kd ka => Sys2Proof.Machine.execKmov kd ka s
  | .kmovFromX kd a => Sys2Proof.Machine.execKmovFromX kd a s
  | .kmovToX d ka => Sys2Proof.Machine.execKmovToX d ka s
  | .vcvt d a mode part t src => Sys2Proof.Machine.execVcvt d a mode part t src s
  | .vcvtEf d a q part t src => Sys2Proof.Machine.execVcvtEf d a q part t src s
  | .vredsum d a m t => Sys2Proof.Machine.execVredsum d a m t s
  | .vredmin d a m t => Sys2Proof.Machine.execVredmin d a m t s
  | .vredmax d a m t => Sys2Proof.Machine.execVredmax d a m t s
  | .vscanIncl d a m t => Sys2Proof.Machine.execVscanIncl d a m t s
  | .vscanExcl d a m t => Sys2Proof.Machine.execVscanExcl d a m t s
  | .vscanCompact d a m t => Sys2Proof.Machine.execVscanCompact d a m t s
  | .vperm d a b m t => Sys2Proof.Machine.execVperm d a b m t s
  | .vbcast d a m t => Sys2Proof.Machine.execVbcast d a m t s
  | .vslide d a b m t => Sys2Proof.Machine.execVslide d a b m t s
  | .vzip d a b t => Sys2Proof.Machine.execVzip d a b t s
  | .vunzip d a b t => Sys2Proof.Machine.execVunzip d a b t s
  | .vmovx d a b t => Sys2Proof.Machine.execVmovx d a b t s
  | .vmovv d a b t => Sys2Proof.Machine.execVmovv d a b t s
  | .vaddx d a b m t => Sys2Proof.Machine.execVaddx d a b m t s
  | .vsubx d a b m t => Sys2Proof.Machine.execVsubx d a b m t s
  | .vmulx d a b m t => Sys2Proof.Machine.execVmulx d a b m t s
  | .vfmax d a b m t => Sys2Proof.Machine.execVfmax d a b m t s
  | .vminx d a b m t => Sys2Proof.Machine.execVminx d a b m t s
  | .vmaxx d a b m t => Sys2Proof.Machine.execVmaxx d a b m t s
  | .mgw a n => Sys2Proof.Machine.execMgw a n s
  | .mgr d n => Sys2Proof.Machine.execMgr d n s
  | .mclaim a => Sys2Proof.Machine.execMclaim a s
  | .mrel a => Sys2Proof.Machine.execMrel a s
  | .mmac a b g => Sys2Proof.Machine.execMmac a b g s
  | .mcommit => Sys2Proof.Machine.execMcommit s
  | .mwaitb a => Sys2Proof.Machine.execMwaitb a s
  | .mread a v c => Sys2Proof.Machine.execMread a v c s
  | .mwrite a v c => Sys2Proof.Machine.execMwrite a v c s
  | .mzero a b => Sys2Proof.Machine.execMzero a b s
  | .mcmdMmac a b => Sys2Proof.Machine.execMcmdMmac a b s
  | .mcmdCommit a b => Sys2Proof.Machine.execMcmdCommit a b s
  | .mcmdZero a b => Sys2Proof.Machine.execMcmdZero a b s
  | .mcapw a b e => Sys2Proof.Machine.execMcapw a b e s
  | .shw a b n => Sys2Proof.Machine.execShw a b n s
  | .shseal n => Sys2Proof.Machine.execShseal n s
  | .shld a n => Sys2Proof.Machine.execShld a n s
  | .cpin a b int n => Sys2Proof.Machine.execCpin a b int n s
  | .cpoutGet a b int n => Sys2Proof.Machine.execCpoutGet a b int n s
  | .cpoutPut a b int n => Sys2Proof.Machine.execCpoutPut a b int n s
  | .cpush a b int n => Sys2Proof.Machine.execCpush a b int n s
  | .cpushRelease a => Sys2Proof.Machine.execCpushRelease a s
  | .chsub d b int k => Sys2Proof.Machine.execChsub d b int k s
  | .chpoll d b => Sys2Proof.Machine.execChpoll d b s
  | .xsched a b k => Sys2Proof.Machine.execXsched a b k s
  | .xsend a b => Sys2Proof.Machine.execXsend a b s
  | .kick a b => Sys2Proof.Machine.execKick a b s
  | .cancel a => Sys2Proof.Machine.execCancel a s
  | .waitl a d => Sys2Proof.Machine.execWaitl a d s
  | .causalityRelease n => Sys2Proof.Machine.execCausalityRelease n s
  | .strataBackoff c => Sys2Proof.Machine.execStrataBackoff c s
  | .leaseExpiry c => Sys2Proof.Machine.execLeaseExpiry c s
  | .copyCompletion c n => Sys2Proof.Machine.execCopyCompletion c n s
  | .copyFault c n => Sys2Proof.Machine.execCopyFault c n s
  | .stepStart c => Sys2Proof.Machine.execStepStart c s
  | .stepCompletion c => Sys2Proof.Machine.execStepCompletion c s
  | .remoteCommand n => Sys2Proof.Machine.execRemoteCommand n s
  | .pushWrite q rec pos => Sys2Proof.Machine.execPushWrite q rec pos s
  | .pushRetry q rec pos => Sys2Proof.Machine.execPushRetry q rec pos s
  | .chiselCompletion b slot => Sys2Proof.Machine.execChiselCompletion b slot s
  | .chiselPageResume b slot => Sys2Proof.Machine.execChiselPageResume b slot s
  | .exchangeSlotOpen c => Sys2Proof.Machine.execExchangeSlotOpen c s
  | .exchangeLine n => Sys2Proof.Machine.execExchangeLine n s
  | .remoteScratchpadAccess n => Sys2Proof.Machine.execRemoteScratchpadAccess n s
  | .mergeStep l => Sys2Proof.Machine.execMergeStep l s
  | .spanArrivalMessage n => Sys2Proof.Machine.execSpanArrivalMessage n s
  | .spanFireMessage n => Sys2Proof.Machine.execSpanFireMessage n s
  | .completionInterrupt c => Sys2Proof.Machine.execCompletionInterrupt c s
  | .asyncCause c => Sys2Proof.Machine.execAsyncCause c s
  | .pageNotice c page leaf tables => Sys2Proof.Machine.execPageNotice c page leaf tables s
  | .pageRefusal c page => Sys2Proof.Machine.execPageRefusal c page s
  | .tileGrant c => Sys2Proof.Machine.execTileGrant c s
  | .deputyAck launch => Sys2Proof.Machine.execDeputyAck launch s
  | .bindingComplete c => Sys2Proof.Machine.execBindingComplete c s
  | .completionReport c => Sys2Proof.Machine.execCompletionReport c s
  | .replayStart graph => Sys2Proof.Machine.execReplayStart graph s
  | .aging launch => Sys2Proof.Machine.execAging launch s
  | .quantumExpiry c => Sys2Proof.Machine.execQuantumExpiry c s
  | .tsliceExpiry c => Sys2Proof.Machine.execTsliceExpiry c s
  | .contextSave c => Sys2Proof.Machine.execContextSave c s
  | .copyDrainTimeout c => Sys2Proof.Machine.execCopyDrainTimeout c s
  | .contextRestore c => Sys2Proof.Machine.execContextRestore c s
  | .trapEnd c => Sys2Proof.Machine.execTrapEnd c s
  | .trapResume c resume regs => Sys2Proof.Machine.execTrapResume c resume regs s
  | .terminationToken launch => Sys2Proof.Machine.execTerminationToken launch s
  | .heartbeatTimer launch pkg die => Sys2Proof.Machine.execHeartbeatTimer launch pkg die s
  | .heartbeat n => Sys2Proof.Machine.execHeartbeat n s
  | .heartbeatAck n => Sys2Proof.Machine.execHeartbeatAck n s
  | .fenceTimeout launch pkg die => Sys2Proof.Machine.execFenceTimeout launch pkg die s
  | .dieFailed pkg die => Sys2Proof.Machine.execDieFailed pkg die s
  | .benchReplacement launch bench p => Sys2Proof.Machine.execBenchReplacement launch bench p s
  | .startMessage n => Sys2Proof.Machine.execStartMessage n s
  | .startAnswer n => Sys2Proof.Machine.execStartAnswer n s
  | .startTimeout launch => Sys2Proof.Machine.execStartTimeout launch s
  | .transientRead n => Sys2Proof.Machine.execTransientRead n s
  | .transientWrite n => Sys2Proof.Machine.execTransientWrite n s
  | .tokenMessage n => Sys2Proof.Machine.execTokenMessage n s
  | .attemptTimeout pkg die l => Sys2Proof.Machine.execAttemptTimeout pkg die l s
  | .persistentRequest n => Sys2Proof.Machine.execPersistentRequest n s
  | .persistentRetry pkg die l => Sys2Proof.Machine.execPersistentRetry pkg die l s
  | .active n => Sys2Proof.Machine.execActive n s
  | .done n => Sys2Proof.Machine.execDone n s
  | .inactive n => Sys2Proof.Machine.execInactive n s
  | .linkDown link => Sys2Proof.Machine.execLinkDown link s
  | .lossLogEntry n => Sys2Proof.Machine.execLossLogEntry n s
  | .collect n => Sys2Proof.Machine.execCollect n s
  | .lineRecreation l => Sys2Proof.Machine.execLineRecreation l s
  | .l1LineTimeout c tag => Sys2Proof.Machine.execL1LineTimeout c tag s
  | .migRewalk c => Sys2Proof.Machine.execMigRewalk c s
  | .pageMigration tenant page leaf quarry => Sys2Proof.Machine.execPageMigration tenant page leaf quarry s
  | .collapse tables => Sys2Proof.Machine.execCollapse tables s
  | .regionRelease rid => Sys2Proof.Machine.execRegionRelease rid s
  | .streamBind pkg port stream rid key bnd => Sys2Proof.Machine.execStreamBind pkg port stream rid key bnd s
  | .streamUnbind pkg port stream => Sys2Proof.Machine.execStreamUnbind pkg port stream s
  | .ingressFrame pkg port frame fcsOk stamp => Sys2Proof.Machine.execIngressFrame pkg port frame fcsOk stamp s
  | .hello conn tenant pkg versions tenancy => Sys2Proof.Machine.execHello conn tenant pkg versions tenancy s
  | .region conn req g => Sys2Proof.Machine.execRegion conn req g s
  | .job conn => Sys2Proof.Machine.execJob conn s
  | .upload conn job object area regions sections => Sys2Proof.Machine.execUpload conn job object area regions sections s
  | .phase conn job graphs => Sys2Proof.Machine.execPhase conn job graphs s
  | .close conn handle => Sys2Proof.Machine.execClose conn handle s
  | .clientKick conn graph patch => Sys2Proof.Machine.execClientKick conn graph patch s
  | .clientCancel conn handle => Sys2Proof.Machine.execClientCancel conn handle s
  | .wait conn handle => Sys2Proof.Machine.execWait conn handle s
  | .attest conn nonce => Sys2Proof.Machine.execAttest conn nonce s
  | .update conn img => Sys2Proof.Machine.execUpdate conn img s
  | .switchover pkg => Sys2Proof.Machine.execSwitchover pkg s
  | .switchoverTimeout pkg => Sys2Proof.Machine.execSwitchoverTimeout pkg s
  | .boot pkg first firmware service linkUp sramOk serviceUp peers => Sys2Proof.Machine.execBoot pkg first firmware service linkUp sramOk serviceUp peers s
  | .sensorPoll pkg readings => Sys2Proof.Machine.execSensorPoll pkg readings s
  | .droopEvent pkg die => Sys2Proof.Machine.execDroopEvent pkg die s
  | .healthRecord pkg power => Sys2Proof.Machine.execHealthRecord pkg power s
  | .throttleStep k => Sys2Proof.Machine.execThrottleStep k s
  | .illegalInstruction => Sys2Proof.Machine.execIllegalInstruction s
  | .fetchFault => Sys2Proof.Machine.execFetchFault s
  | .copyPageResume c n => Sys2Proof.Machine.execCopyPageResume c n s
  | .pushReadFault q rec => Sys2Proof.Machine.execPushReadFault q rec s
  | .exchangePhaseEnd c => Sys2Proof.Machine.execExchangePhaseEnd c s
  | .taskEndBySupervisor c => Sys2Proof.Machine.execTaskEndBySupervisor c s
  | .streamQueueReset pkg port stream ring size slot => Sys2Proof.Machine.execStreamQueueReset pkg port stream ring size slot s
  | .classifierRuleWrite pkg port index rule => Sys2Proof.Machine.execClassifierRuleWrite pkg port index rule s

end Sys2Proof.Machine
end

