-- ==== Sys2Proof/Machine/Step.lean ====
section
/-!
DEFINITION. One step: the next move of the schedule is made.
-/
namespace Sys2Proof.Machine

/-- The body word that a running buffer issues. -/
def stepBody (s : State) : Host.Outcome State Fault Refusal :=
  match exec s.task.rep.instr s.enterBody with
  | .next s' => .next s'.leaveBody
  | .fault f => .fault f
  | .refused r => .refused r

/-- The word at the program counter, decoded and performed (R127). A word that does not decode is
ILLEGAL_INSTRUCTION, a fetch that fails takes its own cause. A word that a running body holds back does not issue yet (R113). -/
def stepScalar (s : State) : Host.Outcome State Fault Refusal :=
  match fetch s with
  | .ok (s', w) =>
    if s'.bodyHolds w then .next s'
    else match decodeWord w with
    | .ok i => exec i s'
    | .error _ => exec .illegalInstruction s'
  | .cause _ => exec .fetchFault s
  | .wait w => .next (settle (.wait w) s)

/-- The current core issues the next instruction of its scalar flow. -/
def stepCore (s : State) : Host.Outcome State Fault Refusal := stepScalar s.begin

/-- A move of the schedule. A core that may not issue, a word offered as a happening, and a happening
of a package that does not run change nothing (R408, R414). -/
def stepMove (m : Move) (s : State) : Host.Outcome State Fault Refusal :=
  match m with
  | .tick n => .next (passTime n s)
  | .upset u => .next (upset u s)
  | .message p => .next (notify p .message s)
  | .happen e => if s.takesPlace e then exec e s else .next s
  | .issue c =>
    if (s.findCore c).isNone then .next s
    else
      let s := switchTo c s
      if s.mayIssue then stepCore s else .next s
  | .body c =>
    if (s.findCore c).isNone then .next s
    else
      let s := switchTo c s
      if s.mayIssueBody then stepBody s.begin else .next s

/-- One step: the head of the agenda, or where it is empty a free move (assumption log 1). -/
def step (s : State) : Host.Outcome State Fault Refusal :=
  if s.halted then .fault .halted else
  match s.agenda with
  | m :: rest => stepMove m { s with agenda := rest, moves := s.moves + 1 }
  | [] => stepMove (Config.nextMove s.moves) { s with moves := s.moves + 1 }

/-- The state with an instruction word where `step` fetches next. -/
def State.withFetchWord (s : State) (_nbits w : Nat) : State := placeWord s w

end Sys2Proof.Machine
end

