-- ==== Sys2Proof/Safety.lean ====
section
/-!
DEFINITION. What every state of a run keeps, the relation between two states that differ only in what caches, tokens and
TLBs hold, and the words that the statements share (namespace `Sys2Proof.Claims`).
-/
namespace Sys2Proof.Machine

/-- The state is in good form: memory lists addresses in rising order, and no byte that an unlisted address reads as. -/
def Safe (s : State) : Prop := Memory.wf s.mem = true

/-- Every core of the domain stands in the map under its own key, and the current core is not listed. -/
def State.Keyed (s : State) : Prop :=
  mapFind (coreKey s.core.id) s.others = none ∧ ∀ (c : CoreId) (k : Core), mapFind (coreKey c) s.others = some k → k.id = c

/-- A core without its caches. -/
def Core.bare (k : Core) : Core := { k with l1 := [], icache := [] }

/-- The states differ at most in the caches of cores, in the L2s, in TLBs, in the tokens of lines and in token messages: no
register, no byte of memory and no task differs. -/
structure CachesOnly (s t : State) : Prop where
  core : t.core.bare = s.core.bare
  others : t.others.map (fun e => (e.1, e.2.bare)) = s.others.map (fun e => (e.1, e.2.bare))
  rest : t = { s with core := t.core, others := t.others, lines := t.lines, l2 := t.l2, net := t.net, tlbs := t.tlbs }

end Sys2Proof.Machine

namespace Sys2Proof.Claims

open Sys2Proof.Machine

/-- The current task is in no gang, so it moves on alone (R42). What a gang adds, `Obligations.GangsMoveTogether` says. -/
abbrev Alone (s : State) : Prop := s.task.gang = 0

/-- A task past its instruction: in a repetition body the buffer moves to its next word (R162), else the program counter moves to
the next word. -/
def past (t : Task) : Task :=
  if t.inBody then { t with rep := t.rep.advance, wait := .none } else { t with pc := t.pc + 4, wait := .none }

/-- The state in which the current task has completed its instruction with the effect `f`, and nothing else has changed. -/
def done (s : State) (f : Task → Task) : State := { s with core := { s.core with task := past (f s.core.task) } }

/-- The same for an instruction that names the place of the next one. -/
def went (s : State) (pc : Word) (f : Task → Task) : State :=
  { s with core := { s.core with task := { f s.core.task with pc := pc, wait := .none } } }

/-- The instruction completes: it writes `v` to `X[d]` (x0 discards it) and changes nothing else. -/
def WritesX (s : State) (i : Instr) (d : Reg) (v : Word) : Prop := exec i s = .next (done s fun t => t.wx d v)

/-- The instruction raises the cause, delivered as `Obligations.CausesAreDelivered` says. -/
def Raises (s : State) (i : Instr) (c : Cause) : Prop := exec i s = .next (raise c s)

/-- No store of the current core is parked or queued, and no cause is held for its next release (R192). -/
abbrev Drained (s : State) : Prop := s.task.replay = [] ∧ s.storesWait = false ∧ s.task.held = []

/-- The resident service of the current core's package answers now: no switchover is under way, and no other core waits for one to end (R411). -/
abbrev Answering (s : State) : Prop := s.pausedHere = false ∧ (s.pkg s.core.place.pkg).held = []

/-- No copy is in flight, so no load or atomic waits for scratchpad bytes (R288). -/
abbrev Quiet (s : State) : Prop := ∀ c ∈ s.cores, ∀ t ∈ c.task :: c.saved, t.copies = []

/-- One of `n` scratchpad bytes from offset `o` lies in a word that holds an uncorrectable error (R412). -/
def Bad (t : Task) (k o n : Nat) : Prop := ∃ i : Nat, i < n ∧ swizzle k (o + i) / 8 ∈ t.scratchBad

/-- The two states differ in memory, and else only where `CachesOnly` lets them. -/
def MemOnly (s t : State) : Prop := CachesOnly { s with mem := t.mem } t

/-- In `t`, memory holds `bs` from physical address `pa` of package `pkg` on, and every other byte as in `s`. -/
def Stored (s : State) (pkg pa : Nat) (bs : List Byte) (t : State) : Prop :=
  ∀ a : Nat, memByte t.mem a =
    if memKey pkg pa ≤ a ∧ a < memKey pkg pa + bs.length then bs.getD (a - memKey pkg pa) 0 else memByte s.mem a

/-- No store waits that an access to the page must not pass: none is parked for it, and no request of the core was answered MOVED there
(R208, R223). -/
abbrev Passes (s : State) (va : Nat) : Prop :=
  s.task.parkedPage (va / 65536 * 65536) = false ∧ s.movedPage (va / 65536 * 65536) = false

/-- The current task is not away: no engine acts for it on the image of its context area (R386). -/
abbrev Here (s : State) : Prop := s.task.st = .suspended → s.task.area = none

/-- The access of a space-0 address can be performed at its home now: the line is free, its tokens are there (R348), it carries no poison
(R356), no line is pinned (R188, R318), and the launch keeps no stamps (R398). -/
def Ready (s : State) (leaf : Leaf) (va : Nat) (write : Bool) : Prop :=
  let l := lineOf leaf.pkg (leaf.pa va)
  let h := homeHolder s leaf.kind
  let ls := (s.line l).served s.core.id
  s.lineFree l h = true ∧ (if write then (ls.gatherWrite h).isSome else (ls.gatherRead h).isSome) = true ∧
    (s.line l).poison = false ∧ s.task.determinate = false ∧ ∀ m : Line, (s.line m).pins = []

/-- An access that can be performed now, and after which others can too: it is `Ready`, its translation is in the TLB and its line in the
die's L2, and nothing waits at the line. `h` is the holder through which it goes. -/
def Settled (s : State) (leaf : Leaf) (va : Nat) (write : Bool) (h : Holder) : Prop :=
  let l := lineOf leaf.pkg (leaf.pa va)
  Ready s leaf va write ∧ tlbFind s va = some leaf ∧ (s.line l).queue = [] ∧ Passes s va ∧
    homeHolder s leaf.kind = h ∧ ∀ p d : Nat, h = .die p d → ∃ w ∈ mapGet [] s.l2 (l2Key p d l), w.line = l

/-- A request of the current core in the queue of a line: it stands behind those that came before it, and before those of its own cycle that
come from a higher tenant or a higher core (R323, R332). -/
def Joins (r : HomeReq) (q q' : List HomeReq) : Prop :=
  let before (e : HomeReq) : Prop :=
    e.came = r.came ∧ e.behind = r.behind ∧ (r.who.tenant < e.who.tenant ∨ (r.who.tenant = e.who.tenant ∧ r.who.lid < e.who.lid))
  ∃ q1 q2 : List HomeReq, q = q1 ++ q2 ∧ q' = q1 ++ r :: q2 ∧ (∀ e ∈ q1, ¬ before e) ∧ ∀ e : HomeReq, q2.head? = some e → before e

/-- In `t` the context area of `u`'s task holds the task's blocks and its image behind the trap record, and zero where they have none; other memory is
as in `u`, and lines that lie whole in the part written carry no poison (R356, R383). -/
def Saves (u t : State) : Prop :=
  (u.task.area = none → t.mem = u.mem ∧ t.lines = u.lines) ∧
  ∀ p a : Nat, u.task.area = some (p, a) →
    let whole (k : Nat) : Prop := p * 2 ^ 46 + (a + 127) / 64 ≤ k ∧ k < p * 2 ^ 46 + (a + 0x4A000) / 64
    (∀ o : Nat, 64 ≤ o → o < 0x4A000 →
      memByte t.mem (memKey p (a + o)) = (((u.blocks ++ u.task.image).reverse.find? fun e => e.1 == o).map (·.2)).getD 0) ∧
    ((∀ e ∈ u.task.image, e.1 < 0x4A000) → ∀ b : Nat, b < memKey p (a + 64) ∨ memKey p (a + 0x4A000) ≤ b → memByte t.mem b = memByte u.mem b) ∧
    (∀ e ∈ t.lines, (whole e.1 → e.2.poison = false) ∧ ∃ ls : LineState, (e.1, ls) ∈ u.lines ∧ (e.2 = ls ∨ whole e.1 ∧ e.2 = { ls with poison := false })) ∧
    ∀ e ∈ u.lines, ¬ whole e.1 → e.2 ≠ {} → e ∈ t.lines

/-- `v` is the task `u` with its scratchpad, its accumulators and its slots as its context area holds them in `s`, where it has one (R383, R385). -/
def Loaded (s : State) (u v : Task) : Prop :=
  v = { u with slots := v.slots, acc := v.acc, scratch := v.scratch } ∧ (u.area = none → v = u) ∧
  (∀ i : Fin 8, v.slots[i] = { u.slots[i] with scales := v.slots[i].scales, data := v.slots[i].data }) ∧
  ∀ p a : Nat, u.area = some (p, a) → (∀ o : Nat, o < 131072 → memByte v.scratch o = memByte s.mem (memKey p (a + 0x2A000 + o))) ∧
    (∀ (i : Fin 8) (o : Nat), o < 8192 → memByte v.slots[i].data o = memByte s.mem (memKey p (a + 0xA000 + 8192 * i.val + o))) ∧
    (Safe s → ∀ o : Nat, o < 16384 → (mapGet 0 v.acc o).toNat = leOf (memBytes s.mem (memKey p (a + 0x1A000 + 4 * o)) 4))

/-- 1 where the condition holds, else 0. -/
def flag (p : Prop) [Decidable p] : Word := if p then 1 else 0

/-- Lane `j` of a vector register at a type (R250). -/
def vlane (t : VT) (v : Vec) (j : Nat) : BitVec t.width := v.extractLsb' (t.width * j) t.width

/-- The vector instruction completes with `V[d]` and FSTAT alone written: each active lane `j` takes `f j`, the other lanes keep their value,
and FSTAT takes the flags of the active lanes (R250). -/
def ByLanes (s : State) (i : Instr) (d : Reg) (t : VT) (m : KReg) (f : Nat → BitVec t.width × Flags) : Prop :=
  ∃ (r : Vec) (fl : Flags), exec i s = .next (done s fun k => (k.wv d r).orFlags fl) ∧
    (∀ j : Nat, j < t.lanes → vlane t r j = if (s.task.rk m).getLsbD j = true then (f j).1 else vlane t s.task.v[d] j) ∧
    ∀ b : Nat, fl.getLsbD b = true ↔ ∃ j : Nat, j < t.lanes ∧ (s.task.rk m).getLsbD j = true ∧ (f j).2.getLsbD b = true

/-- The integer that a lane of class I holds: signed for S, unsigned for Z (R252). -/
def lnum (t : VT) (x : BitVec t.width) : Int := if t.isS = true then x.toInt else (x.toNat : Int)

/-- The value of a lane of class F. -/
def lval (t : VT) (x : BitVec t.width) : FVal := fdecode (vtFmt t) x.toNat

/-- An exact result and the flags of its making, rounded once to the lane's format, to nearest (R254). -/
def lround (t : VT) (r : FVal × Flags) : BitVec t.width × Flags := (BitVec.ofNat t.width (frne (vtFmt t) r).1, (frne (vtFmt t) r).2)

/-- R170: one round of the generator, on 64-bit words. -/
def mix (i : Nat) (ab : Word × Word) : Word × Word :=
  let p : BitVec 128 := ab.1.setWidth 128 * 0xA24BAED4963EE407#128
  (p.extractLsb' 64 64 ^^^ ab.2 ^^^ (BitVec.ofNat 64 (i + 1) * 0x9E3779B97F4A7C15), p.extractLsb' 0 64)

end Sys2Proof.Claims
end

