-- ==== Sys2Proof/Certificates/Slice0/Obligations.lean ====
section
/-!
DEFINITION. The statements for the provers. Their shared words are in `Sys2Proof/Safety.lean`.
-/

open Sys2Proof Sys2Proof.Machine Sys2Proof.Claims

/-! ## Scalar instructions -/

/-- R150 to R155: what each register form of major 0x01 and each immediate form writes to `X[d]`, over the integers. They raise no cause and change nothing else; the counts of bits are
described by what they count. -/
def Obligations.IntegerArithmetic : Prop :=
  (∀ (s : State) (d a b : Reg), Alone s →
     let x := s.rx a
     let y := s.rx b
     WritesX s (.add d a b) d (BitVec.ofInt 64 (x.toInt + y.toInt)) ∧
     WritesX s (.sub d a b) d (BitVec.ofInt 64 (x.toInt - y.toInt)) ∧
     WritesX s (.and d a b) d (x &&& y) ∧
     WritesX s (.or d a b) d (x ||| y) ∧
     WritesX s (.xor d a b) d (x ^^^ y) ∧
     WritesX s (.sll d a b) d (BitVec.ofNat 64 (x.toNat * 2 ^ (y.toNat % 64))) ∧
     WritesX s (.srl d a b) d (BitVec.ofNat 64 (x.toNat / 2 ^ (y.toNat % 64))) ∧
     WritesX s (.sra d a b) d (BitVec.ofInt 64 (x.toInt / 2 ^ (y.toNat % 64))) ∧
     WritesX s (.slt d a b) d (flag (x.toInt < y.toInt)) ∧
     WritesX s (.sltu d a b) d (flag (x.toNat < y.toNat)) ∧
     WritesX s (.mul d a b) d (BitVec.ofInt 64 (x.toInt * y.toInt)) ∧
     WritesX s (.mulh d a b) d (BitVec.ofInt 64 (x.toInt * y.toInt / 2 ^ 64)) ∧
     WritesX s (.mulhu d a b) d (BitVec.ofNat 64 (x.toNat * y.toNat / 2 ^ 64)) ∧
     WritesX s (.min d a b) d (BitVec.ofInt 64 (min x.toInt y.toInt)) ∧
     WritesX s (.max d a b) d (BitVec.ofInt 64 (max x.toInt y.toInt)) ∧
     WritesX s (.minu d a b) d (BitVec.ofNat 64 (min x.toNat y.toNat)) ∧
     WritesX s (.maxu d a b) d (BitVec.ofNat 64 (max x.toNat y.toNat))) ∧
  (∀ (s : State) (d a : Reg), Alone s →
     let x := s.rx a
     (∃ n : Nat, WritesX s (.clz d a) d (BitVec.ofNat 64 n) ∧ n ≤ 64 ∧ (∀ i : Nat, 64 - n ≤ i → x.getLsbD i = false) ∧
       (n < 64 → x.getLsbD (63 - n) = true)) ∧
     (∃ n : Nat, WritesX s (.ctz d a) d (BitVec.ofNat 64 n) ∧ n ≤ 64 ∧ (∀ i : Nat, i < n → x.getLsbD i = false) ∧
       (n < 64 → x.getLsbD n = true)) ∧
     WritesX s (.popc d a) d (BitVec.ofNat 64 ((List.range 64).filter fun i => x.getLsbD i).length)) ∧
  (∀ (s : State) (d a : Reg) (imm : BitVec 16) (m : BitVec 15) (sh : BitVec 6), Alone s →
     let x := s.rx a
     WritesX s (.addi d a imm) d (BitVec.ofInt 64 (x.toInt + imm.toInt)) ∧
     WritesX s (.andi d a imm) d (x &&& BitVec.ofInt 64 imm.toInt) ∧
     WritesX s (.ori d a imm) d (x ||| BitVec.ofInt 64 imm.toInt) ∧
     WritesX s (.xori d a imm) d (x ^^^ BitVec.ofInt 64 imm.toInt) ∧
     WritesX s (.slli d a sh) d (BitVec.ofNat 64 (x.toNat * 2 ^ sh.toNat)) ∧
     WritesX s (.srli d a sh) d (BitVec.ofNat 64 (x.toNat / 2 ^ sh.toNat)) ∧
     WritesX s (.srai d a sh) d (BitVec.ofInt 64 (x.toInt / 2 ^ sh.toNat)) ∧
     WritesX s (.slti d a m) d (flag (x.toInt < m.toInt)) ∧
     WritesX s (.sltiu d a m) d (flag (x.toNat < (BitVec.ofInt 64 m.toInt).toNat)) ∧
     WritesX s (.lui d a imm) d (BitVec.ofInt 64 (x.toInt + imm.toInt * 65536)))

/-- R151 with R150's division: no cause, the quotient truncated toward zero, the remainder after it, and the edge cases. -/
def Obligations.Division : Prop :=
  ∀ (s : State) (d a b : Reg), Alone s →
    let x := s.rx a
    let y := s.rx b
    (y ≠ 0 →
      WritesX s (.div d a b) d (BitVec.ofInt 64 (x.toInt.tdiv y.toInt)) ∧
      WritesX s (.divu d a b) d (BitVec.ofNat 64 (x.toNat / y.toNat)) ∧
      WritesX s (.rem d a b) d (BitVec.ofInt 64 (x.toInt - y.toInt * x.toInt.tdiv y.toInt)) ∧
      WritesX s (.remu d a b) d (BitVec.ofNat 64 (x.toNat - y.toNat * (x.toNat / y.toNat)))) ∧
    (y = 0 →
      WritesX s (.div d a b) d (BitVec.ofInt 64 (-1)) ∧ WritesX s (.divu d a b) d (BitVec.ofNat 64 (2 ^ 64 - 1)) ∧
      WritesX s (.rem d a b) d x ∧ WritesX s (.remu d a b) d x) ∧
    (x.toInt = -2 ^ 63 → y.toInt = -1 →
      WritesX s (.div d a b) d (BitVec.ofInt 64 (-2 ^ 63)) ∧ WritesX s (.rem d a b) d 0)

/-- R157: the pointer operations with their causes. A pointer's field f lies at bit `lo` and is `w` bits wide (R156); `reserved`
is R124's list. -/
def Obligations.FatPointers : Prop :=
  ∀ (s : State) (d a b : Reg), Alone s →
    let x := (s.rx a).toNat
    let y := (s.rx b).toNat
    let wrap : Cause := { code := .addressWrap }
    let place : FatField → Nat × Nat
      | .fmt => (59, 5) | .blk => (55, 4) | .span => (52, 3) | .space => (48, 4) | .addr => (0, 48)
    let reserved : FatField → Nat → Prop
      | .fmt, v => 20 < v | .span, v => 6 < v | .space, v => 3 < v | .blk, _ => False | .addr, _ => False
    (2 ^ 16 ≤ y → Raises s (.pmk d a b) (protect 0)) ∧
    (y < 2 ^ 16 → 2 ^ 48 ≤ x → Raises s (.pmk d a b) wrap) ∧
    (y < 2 ^ 16 → x < 2 ^ 48 →
      (reserved .fmt (y / 2 ^ 11) ∨ reserved .span (y / 2 ^ 4 % 8) ∨ reserved .space (y % 16) →
        Raises s (.pmk d a b) (protect 0)) ∧
      (¬ reserved .fmt (y / 2 ^ 11) → ¬ reserved .span (y / 2 ^ 4 % 8) → ¬ reserved .space (y % 16) →
        WritesX s (.pmk d a b) d (BitVec.ofNat 64 (y * 2 ^ 48 + x)))) ∧
    (∀ f : FatField, WritesX s (.pget d a f) d (BitVec.ofNat 64 (x / 2 ^ (place f).1 % 2 ^ (place f).2))) ∧
    (2 ^ 48 ≤ y → Raises s (.pset d a b .addr) wrap) ∧
    (∀ f : FatField, f ≠ .addr → 2 ^ (place f).2 ≤ y → Raises s (.pset d a b f) (protect 0)) ∧
    (∀ f : FatField, y < 2 ^ (place f).2 → reserved f y → Raises s (.pset d a b f) (protect 0)) ∧
    (∀ f : FatField, y < 2 ^ (place f).2 → ¬ reserved f y → ∃ v : Word, WritesX s (.pset d a b f) d v ∧
      ∀ i : Nat, i < 64 → v.getLsbD i =
        if (place f).1 ≤ i ∧ i < (place f).1 + (place f).2 then y.testBit (i - (place f).1) else (s.rx a).getLsbD i) ∧
    (∀ n : Int, n = (x % 2 ^ 48 : Nat) + (s.rx b).toInt →
      ((n < 0 ∨ 2 ^ 48 ≤ n) → Raises s (.addp d a b) wrap) ∧
      (0 ≤ n → n < 2 ^ 48 → WritesX s (.addp d a b) d (BitVec.ofInt 64 ((x / 2 ^ 48 * 2 ^ 48 : Nat) + n)))) ∧
    (∀ n : Int, n = (x % 2 ^ 48 : Nat) - (s.rx b).toInt →
      ((n < 0 ∨ 2 ^ 48 ≤ n) → Raises s (.subp d a b) wrap) ∧
      (0 ≤ n → n < 2 ^ 48 → WritesX s (.subp d a b) d (BitVec.ofInt 64 ((x / 2 ^ 48 * 2 ^ 48 : Nat) + n))))

/-- R117 and R158 to R160: where the next instruction is fetched, and the link. A JALR to the end-of-task address performs EXIT
(`Obligations.ExitEndsTask`). -/
def Obligations.BranchesAndJumps : Prop :=
  ∀ (s : State) (d a b : Reg) (off : BitVec 13) (far : BitVec 21) (imm : BitVec 16), Alone s →
    let x := s.rx a
    let y := s.rx b
    let link : Word := s.task.pc + 4
    let taken (c : Prop) (i : Instr) : Prop :=
      (c → exec i s = .next (went s (s.task.pc + BitVec.ofInt 64 (4 * off.toInt)) id)) ∧
      (¬ c → exec i s = .next (went s link id))
    let t : Word := BitVec.ofNat 64 ((x + BitVec.ofInt 64 imm.toInt).toNat / 4 * 4)
    taken (x = y) (.beq a b off) ∧
    taken (x ≠ y) (.bne a b off) ∧
    taken (x.toInt < y.toInt) (.blt a b off) ∧
    taken (y.toInt ≤ x.toInt) (.bge a b off) ∧
    taken (x.toNat < y.toNat) (.bltu a b off) ∧
    taken (y.toNat ≤ x.toNat) (.bgeu a b off) ∧
    exec (.jal d far) s = .next (went s (s.task.pc + BitVec.ofInt 64 (4 * far.toInt)) fun k => k.wx d link) ∧
    (2 ^ 48 ≤ t.toNat → Raises s (.jalr d a imm) (protect 3 t)) ∧
    (t.toNat < 2 ^ 48 → t ≠ 0x0000FFFFFFFF0000 → exec (.jalr d a imm) s = .next (went s t fun k => k.wx d link))

/-! ## Registers and the delivery of causes -/

/-- R130 and R376: x0 reads as 0 and discards writes; k0 names all lanes; a written register reads back and no other register
changes, in a handler through the shadow bank of x24 to x31. -/
def Obligations.RegisterFiles : Prop :=
  ∀ (t : Task) (d r : Reg) (kd k : KReg) (v : Word), t.inBody = false →
    t.rx 0 = 0 ∧ t.wx 0 v = t ∧ t.rk 0 = BitVec.allOnes 64 ∧
    (t.wx d v).rx r = (if r = d ∧ d ≠ 0 then v else t.rx r) ∧
    (t.wk kd v).rk k = (if k = kd ∧ kd ≠ 0 then v else t.rk k) ∧
    ({ t.wx d v with x := t.x, xs := t.xs } = t) ∧
    (t.handling = .none → (t.wx d v).xs = t.xs ∧ t.rx r = if r = 0 then 0 else t.x[r]) ∧
    (t.handling ≠ .none → ∀ h : 24 ≤ r.val, t.rx r = t.xs[r.val - 24])

/-- R372, R375, R376, R381 and R382: when a cause traps and when it upcalls. An upcall records the cause in UPEPC, UPCAUSE, UPADDR and UPINFO and in x24 to x27 of the shadow bank, keeps the main
bank, and fetches from UPVEC; a PAGE_FAULT also sends a page request (R379), and a body word's cause freezes its body (R164). By a trap the task is FAULTED with its record, which its context area
holds, its lease ends, a supervisor core is notified, and no register and no other byte of memory changes. Where a cause
waits while a body runs (assumption log 48), and that memory holds the record at the start of the context area and nothing else (log 82), are the model's choices. -/
def Obligations.CausesAreDelivered : Prop :=
  (∀ (t : Task) (c : Cause),
     let strata : Prop := c.code = .strataAhead ∨ c.code = .strataBehind ∨ c.code = .strataOrder
     (t.handling ≠ .none → t.traps c = true) ∧
     (c.code = .privilege ∨ (c.code = .protect ∧ (c.sub = 8 ∨ c.sub = 9 ∨ c.sub = 10)) → t.traps c = true) ∧
     (t.handling = .none → (c.code = .pageFault ∨ strata) → (t.traps c = true ↔ t.upvec = 0)) ∧
     (t.handling = .none → c.code ≠ .privilege → ¬ (c.code = .protect ∧ (c.sub = 8 ∨ c.sub = 9 ∨ c.sub = 10)) → c.code ≠ .pageFault →
       ¬ strata → (t.traps c = true ↔ ¬ (t.upmask.getLsbD c.code.num = true ∧ t.upvec ≠ 0)))) ∧
  ((∀ (s : State) (c : Cause) (resume : Word), Alone s → s.task.traps c = false →
     (c.code = .pageFault → s.task.requests.length < 16) → (s.task.inBody = true → s.task.rep.wait.reissues = true) →
     ∃ t : State, deliver c resume s = t ∧
       t.task.upepc = resume ∧
       t.task.upcause = BitVec.ofNat 64 (c.sub % 256 * 256 + c.code.num) ∧ t.task.upaddr = c.addr ∧
       t.task.upinfo.toNat / 2 ^ 48 = c.party % 65536 ∧ t.task.upinfo.toNat / 2 ^ 40 % 256 = c.lane % 256 ∧
       t.task.upinfo.toNat / 2 ^ 36 % 16 = c.engine % 16 ∧ t.task.upinfo.toNat / 2 ^ 32 % 16 = c.counter % 16 ∧
       t.task.upinfo.getLsbD 31 = c.async ∧ t.task.upinfo.getLsbD 30 = c.remote ∧
       t.task.upinfo.toNat / 2 ^ 26 % 16 = 0 ∧ t.task.upinfo.toNat / 2 ^ 18 % 256 = c.sub % 256 ∧ t.task.upinfo.toNat % 2 ^ 18 = 0 ∧
       t.task.handling = .upcall ∧ t.task.pc = s.task.upvec ∧
       t.task.rx 24 = t.task.upcause ∧ t.task.rx 25 = t.task.upaddr ∧ t.task.rx 26 = t.task.upinfo ∧ t.task.rx 27 = t.task.upepc ∧
       (∀ i : Fin 4, t.task.xs[4 + i.val] = s.task.xs[4 + i.val]) ∧
       t.task.x = s.task.x ∧
       t.task.requests = s.task.requests ++ (if c.code = .pageFault then [c.addr.toNat % 2 ^ 48 / 65536 * 65536] else []) ∧
       t.task.rep = (if s.task.inBody then { s.task.rep with running := false, frozen := true, wait := .none } else s.task.rep) ∧
       t = { s with
         pkgs := t.pkgs
         core := { s.core with task := { s.task with
           upepc := t.task.upepc, upcause := t.task.upcause, upaddr := t.task.upaddr, upinfo := t.task.upinfo, xs := t.task.xs
           handling := .upcall, pc := s.task.upvec, wait := .none, requests := t.task.requests, rep := t.task.rep, inBody := false } } } ∧
       (c.code ≠ .pageFault → t.pkgs = s.pkgs)) ∧
   (∀ (s : State) (c : Cause) (resume : Word), c.code = .pageFault → s.task.traps c = false → 16 ≤ s.task.requests.length →
     deliver c resume s = { s with core := { s.core with task := { s.task with wait := .notice } } }) ∧
   (∀ (s : State) (c : Cause) (resume : Word), Alone s → (c.code = .pageFault → s.task.traps c = false → s.task.requests.length < 16) →
     s.task.inBody = true → s.task.rep.wait.reissues = false →
     deliver c resume s = { s with core := { s.core with task := { s.task with
       inBody := false, wait := s.task.rep.wait, rep := { s.task.rep with running := false, frozen := true, wait := .none }
       asyncs := s.task.asyncs ++ [{ c with body := true }] } } })) ∧
  (∀ (s : State) (c : Cause) (resume : Word), Alone s → s.task.traps c = true → (s.task.inBody = true → s.task.rep.wait.reissues = true) →
     let words : List Nat :=
       [c.code.num + c.sub % 256 * 2 ^ 8 + (if s.task.handling = .none then 0 else 2 ^ 16) + (if c.async then 2 ^ 17 else 0)
          + (if c.parked then 2 ^ 18 else 0) + c.level % 4 * 2 ^ 19,
        resume.toNat, c.addr.toNat, c.upinfo.toNat + (if c.code = .protect ∧ c.sub = 8 then c.entry % 16 * 2 ^ 26 else 0),
        s.core.id.lid % 2 ^ 32 + (s.tenant s.core.id.tenant).asid % 2 ^ 16 * 2 ^ 32 + s.core.place.pkg % 4 * 2 ^ 48,
        s.task.handle.toNat, s.task.cycle.toNat, 0]
     ∃ (t : State) (r : TrapRecord), deliver c resume s = t ∧ t.task.st = .faulted ∧ t.task.trap = some r ∧ t.task.lease = none ∧
       r.cause = c ∧ r.resume = resume ∧ (r.nested = true ↔ s.task.handling ≠ .none) ∧ r.lid = s.core.id.lid ∧ r.pkg = s.core.place.pkg ∧
       r.asid = (s.tenant s.core.id.tenant).asid ∧ r.launch = s.task.handle ∧ r.cycle = s.task.cycle ∧
       t.traps = s.traps ++ [s.core.id] ∧
       (t.pkg s.core.place.pkg).notifs = (s.pkg s.core.place.pkg).notifs ++ [Notif.trap s.core.id] ∧
       t.task.x = s.task.x ∧ t.task.xs = s.task.xs ∧ t.task.v = s.task.v ∧ t.task.k = s.task.k ∧ t.task.fstat = s.task.fstat ∧
       t.task.upepc = s.task.upepc ∧ t.task.upcause = s.task.upcause ∧ t.task.handling = s.task.handling ∧
       (s.task.area = none → t.mem = s.mem) ∧
       ∀ p a : Nat, s.task.area = some (p, a) →
         let l : Line := { pkg := p, idx := a / 64 }
         let bs : List Byte := words.flatMap fun w => bytesOf w 8
         ((s.line l).restful = true → Stored s p a bs t) ∧
         ((s.line l).homeCount ≠ 16 → t.mem = s.mem ∧ ∃ r : HomeReq, (t.line l).queue = (s.line l).queue ++ [r] ∧
           r.op = .store { bytes := bs } ∧ r.home = .home ∧ r.offset = 0 ∧ r.who = s.core.id))

/-- R378: a completion interrupt that is due, at a boundary or in a WAITC, TERMWAIT or WAITL, which it abandons: UIEPC, x24 to x27 of the shadow
bank, and the fetch at UIVEC. No bit of UIPEND is cleared. A core that leaves TERMWAIT so shows it in its launch's token alone (R65). -/
def Obligations.CompletionInterruptEntry : Prop :=
  ∀ (s : State) (i : CoreId), s.core.id = i → Alone s → s.task.st = .running → s.task.draining = none →
    (s.task.wait = .none ∨ s.task.wait = .idle ∨ (∃ d : Reg, s.task.wait = .term d) ∨ ∃ (h : Word) (n : Nat) (w : Option Word), s.task.wait = .level h n w) →
    s.task.uipend ≠ 0 → s.task.uivec ≠ 0 → s.task.handling = .none → s.task.asyncs = [] → s.task.gangDone = false →
    (∀ (x : XPhase) (last : Nat), s.task.xphase = some x → x.leaving = some last → last < s.now) →
    ∃ t : State, exec (.completionInterrupt i) s = .next t ∧
      t = { s with launches := t.launches, core := { s.core with task := { s.task with
        uiepc := s.task.pc, handling := .interrupt, pc := s.task.uivec, wait := .none, xs := t.task.xs } } } ∧
      t.task.xs[0] = s.task.uipend ∧ t.task.xs[1] = 0 ∧ t.task.xs[2] = 0 ∧ t.task.xs[3] = 0 ∧
      (∀ j : Fin 4, t.task.xs[4 + j.val] = s.task.xs[4 + j.val]) ∧ t.task.uipend = s.task.uipend ∧
      ((∀ d : Reg, s.task.wait ≠ .term d) → t.launches = s.launches) ∧
      ∀ n : Nat, t.launch? n = (s.launch? n).map fun l => { l with token := ((t.launch? n).bind (·.token)) }

/-- R177: the returns from handlers. Outside the handler that it ends, each is ILLEGAL_INSTRUCTION. -/
def Obligations.Returns : Prop :=
  ∀ (s : State), Alone s →
    (s.task.handling ≠ .upcall → Raises s .upret { code := .illegalInstruction }) ∧
    (s.task.handling ≠ .interrupt → Raises s .uiret { code := .illegalInstruction }) ∧
    (s.task.handling = .upcall →
      exec .upret s = .next (went s s.task.upepc fun t => { t with
        handling := .none
        rep := if t.rep.frozen then { t.rep with frozen := false, running := true } else t.rep })) ∧
    (s.task.handling = .interrupt → exec .uiret s = .next (went s s.task.uiepc fun t => { t with handling := .none }))

/-- R127, check 4, and R178 to R182: the instructions of major 0x0F raise PRIVILEGE on any core but a supervisor core, and what they do on a supervisor core. Which slices
CACHEINV l2 reaches (assumption log 12), the subcode of a bad operand (log 51), which cores make a half (log 110), what die scope covers (log 111), and whom a notification wakes (log 112) are the
model's choices. -/
def Obligations.SupervisorInstructions : Prop :=
  (∀ (s : State) (d a b : Reg) (r : SupReg) (sc : Scope), s.core.kind ≠ .supervisor →
     let c : Cause := { code := .privilege }
     Raises s (.svr d r) c ∧ Raises s (.svw a r) c ∧ Raises s (.tlbinv a b sc) c ∧ Raises s (.tlbinvAll b sc) c ∧
     Raises s (.cacheinvIcache a) c ∧ Raises s (.cacheinvL2 a) c ∧ Raises s .wfi c) ∧
  (∀ (s : State) (d a b : Reg) (sc : Scope), s.core.kind = .supervisor → Alone s →
     let p := s.core.place
     let x := (s.rx a).toNat
     let y := (s.rx b).toNat
     WritesX s (.svr d .physcoord) d (BitVec.ofNat 64 (p.pkg % 4 * 2 ^ 32 + p.unit % 256 * 2 ^ 16 + p.row % 256 * 2 ^ 8 + p.col % 256)) ∧
     WritesX s (.svr d .coretype) d 2 ∧ WritesX s (.svr d .asid) d s.core.asid ∧ WritesX s (.svr d .ptbase) d s.core.ptbase ∧
     WritesX s (.svr d .half) d (if p.col / 8 % 2 = (s.pkg p.pkg).active then 0 else 1) ∧
     exec (.svw a .asid) s = .next { done s id with core := { (done s id).core with asid := BitVec.ofNat 64 (x % 65536) } } ∧
     exec (.svw a .ptbase) s = .next { done s id with core := { (done s id).core with ptbase := s.rx a } } ∧
     (∀ r : SupReg, r = .physcoord ∨ r = .coretype ∨ r = .half → exec (.svw a r) s = .next (done s id)) ∧
     (∀ (m : Notif) (ms : List Notif), (s.pkg p.pkg).notifs = m :: ms → p.col / 8 % 2 = (s.pkg p.pkg).active →
       exec .wfi s = .next ((done s id).modPkg p.pkg fun k => { k with notifs := ms })) ∧
     ((s.pkg p.pkg).notifs = [] ∨ p.col / 8 % 2 ≠ (s.pkg p.pkg).active → exec .wfi s = .next { s with core := { s.core with task := { s.task with wait := .idle } } }) ∧
     (x < 256 → ∃ t : State, exec (.cacheinvIcache a) s = .next t ∧ CachesOnly (done s id) t ∧
       ∀ k ∈ t.cores, k.place.pkg = p.pkg → k.id.tenant = x → k.icache = []) ∧
     (256 ≤ x → Raises s (.cacheinvIcache a) (protect 0)) ∧
     (x % 64 = 0 → x < 2 ^ 52 → ∃ t : State, exec (.cacheinvL2 a) s = .next t ∧ CachesOnly (done s id) t ∧
       ∀ die q : Nat, die < 4 → q < 4 → ∀ w ∈ mapGet [] t.l2 (l2Key p.pkg die (lineOf q x)), w.line ≠ lineOf q x) ∧
     (¬ (x % 64 = 0 ∧ x < 2 ^ 52) → Raises s (.cacheinvL2 a) (protect 0)) ∧
     (65536 ≤ y → Raises s (.tlbinv a b sc) (protect 0) ∧ Raises s (.tlbinvAll b sc) (protect 0)) ∧
     (y < 65536 → (∀ e ∈ s.lines, ∀ r ∈ e.2.queue, r.op = .access) →
       (∃ t : State, exec (.tlbinv a b sc) s = .next t ∧ CachesOnly (done s id) t ∧
         (∀ e ∈ t.tlbs, tlbInScope sc p e.1 = true → ∀ h ∈ e.2, ¬ (h.asid = y ∧ h.va = x / h.leaf.size * h.leaf.size)) ∧
         ∀ k ∈ t.cores, tlbInScope sc p k.place.tlb = true → ∀ e ∈ k.l1, ∀ w ∈ e.2, ¬ (w.asid = y ∧ w.tag * 64 / w.size = x / w.size)) ∧
       (∃ t : State, exec (.tlbinvAll b sc) s = .next t ∧ CachesOnly (done s id) t ∧
         (∀ e ∈ t.tlbs, tlbInScope sc p e.1 = true → ∀ h ∈ e.2, h.asid ≠ y) ∧
         ∀ k ∈ t.cores, tlbInScope sc p k.place.tlb = true → ∀ e ∈ k.l1, ∀ w ∈ e.2, w.asid ≠ y)))

/-! ## System registers and control -/

/-- R170: RAND mixes key and counter in six rounds, raises the counter, and marks its wrap. -/
def Obligations.RandomNumbers : Prop :=
  ∀ (s : State) (d : Reg) (sel : Fin 8), Alone s →
    let ctr := s.task.rngc[sel]
    let key : Word := BitVec.ofNat 64 s.core.id.lid * 8 + BitVec.ofNat 64 sel.val
    let ab := mix 5 (mix 4 (mix 3 (mix 2 (mix 1 (mix 0 (ctr, key))))))
    exec (.rand d sel) s = .next (done s fun t =>
      Task.wx { t with rngc := t.rngc.set sel.val (ctr + 1), rngwrap := t.rngwrap || decide (ctr.toNat = 2 ^ 64 - 1) } d (ab.1 ^^^ ab.2))

/-- R172 to R175 and R379: SYSR writes the register's value and, of PGNOTE, removes the notice; in a DETERMINATE launch the four
schedule-dependent registers raise DET_VIOLATION. -/
def Obligations.SystemRegisterReads : Prop :=
  ∀ (s : State) (d : Reg), Alone s →
    let t := s.task
    let reads (r : SysReg) (v : Word) : Prop := WritesX s (.sysr d r) d v
    let always : Prop :=
      reads .fstat (t.fstat.setWidth 64) ∧
      reads .tstat (BitVec.ofNat 64 (t.gang * 2 ^ 8 + (if t.termdone then 2 else 0) + (if t.rngwrap then 1 else 0))) ∧
      reads .lcid (BitVec.ofNat 64 s.core.id.lid) ∧ reads .tile t.tile ∧ reads .launch t.handle ∧ reads .upmask t.upmask ∧
      reads .upvec t.upvec ∧ reads .uivec t.uivec ∧ reads .upepc t.upepc ∧ reads .upcause t.upcause ∧ reads .upaddr t.upaddr ∧
      reads .upinfo t.upinfo ∧
      reads .repstate (if t.rep.frozen then BitVec.ofNat 64 (t.rep.nextw * 2 ^ 16 + (t.rep.words.length - 1) * 2 ^ 12 + 1) else 0) ∧
      reads .repcnt (if t.rep.frozen then BitVec.ofNat 64 (t.rep.total - t.rep.rep) else 0) ∧
      (∀ i : Fin 8, reads (.rngc i) t.rngc[i]) ∧ (∀ i : Fin 4, reads (.win i) t.win[i])
    always ∧
    (t.determinate = false →
      reads .cycle t.cycle ∧ reads .uiepc t.uiepc ∧
      reads .uipend (BitVec.ofNat 64 (t.uictr.toNat + if t.notices = [] then 0 else 2 ^ 16)) ∧
      exec (.sysr d .pgnote) s = .next (done s fun t => Task.wx { t with notices := t.notices.tail } d (t.notices.headD 0))) ∧
    (t.determinate = true → ∀ r : SysReg, r = .cycle ∨ r = .uipend ∨ r = .uiepc ∨ r = .pgnote →
      ∃ sub : Nat, Raises s (.sysr d r) { code := .detViolation, sub := sub })

/-- R16, R172 to R175, R309, R374 and R377: SYSW writes the read-write fields, clears the write-1-to-clear fields where X[a] has a 1, and leaves every other
register and field as it is. -/
def Obligations.SystemRegisterWrites : Prop :=
  ∀ (s : State) (a : Reg), Alone s →
    let v := s.rx a
    let writes (r : SysReg) (f : Task → Task) : Prop := exec (.sysw a r) s = .next (done s f)
    writes .fstat (fun t => { t with fstat := v.extractLsb' 0 5 }) ∧
    writes .tstat (fun t => { t with rngwrap := t.rngwrap && !v.getLsbD 0 }) ∧
    writes .upmask (fun t => { t with upmask := v &&& 0xFF1DA }) ∧
    writes .upvec (fun t => { t with upvec := v &&& ~~~3 }) ∧ writes .uivec (fun t => { t with uivec := v &&& ~~~3 }) ∧
    writes .upepc (fun t => { t with upepc := v }) ∧ writes .uiepc (fun t => { t with uiepc := v }) ∧
    writes .uipend (fun t => { t with uictr := t.uictr &&& ~~~(v.extractLsb' 0 16) }) ∧
    writes .repstate (fun t => if t.rep.frozen = true ∧ v.getLsbD 0 = true then { t with rep := {} } else t) ∧
    (∀ i : Fin 8, writes (.rngc i) fun t => { t with rngc := t.rngc.set i.val v }) ∧
    (s.task.wlast ≠ some s.now → ∀ i : Fin 4, writes (.win i) fun t => { t with win := t.win.set i.val (v &&& 0xFFFF00030FFF07FF) }) ∧
    (s.task.wlast = some s.now → ∀ i : Fin 4,
      exec (.sysw a (.win i)) s = .next { s with core := { s.core with task := { s.task with wait := .stall } } }) ∧
    (∀ r : SysReg, r = .cycle ∨ r = .lcid ∨ r = .tile ∨ r = .launch ∨ r = .upcause ∨ r = .upaddr ∨ r = .upinfo ∨ r = .repcnt ∨ r = .pgnote →
      writes r id)

/-- R176 and R234: DTLD replaces one decode table once no issued step uses it: `int8`, `e4m3` and `e5m2` name a format's values, and a
pointer names 256 words, of which none may have a bit above 18. The address that the causes of a bad index and a bad table carry is the model's choice
(assumption log 58). -/
def Obligations.DecodeTables : Prop :=
  ∀ (s : State) (a : Reg) (tab : C8Table), Alone s → s.task.steps = [] →
    let put (tb : Vector (BitVec 19) 256) (t : Task) : Task := match tab with | .a => { t with dta := tb } | .b => { t with dtb := tb }
    (∃ tb : Vector (BitVec 19) 256, exec (.dtldInt8 tab) s = .next (done s (put tb)) ∧
      ∀ c : Fin 256, feq (fdecode fmtH19 tb[c].toNat) (fofInt (if c.val < 128 then c.val else (c.val : Int) - 256)) = true) ∧
    (∃ tb : Vector (BitVec 19) 256, exec (.dtldE4m3 tab) s = .next (done s (put tb)) ∧
      ∀ c : Fin 256, if (fdecode fmtE4M3 c.val).isNan then (fdecode fmtH19 tb[c].toNat).isNan = true
        else feq (fdecode fmtH19 tb[c].toNat) (fdecode fmtE4M3 c.val) = true) ∧
    (∃ tb : Vector (BitVec 19) 256, exec (.dtldE5m2 tab) s = .next (done s (put tb)) ∧
      ∀ c : Fin 256, if (fdecode fmtE5M2 c.val).isNan then (fdecode fmtH19 tb[c].toNat).isNan = true
        else feq (fdecode fmtH19 tb[c].toNat) (fdecode fmtE5M2 c.val) = true) ∧
    (∀ (u : State) (bs : List Byte), pFmt (s.rx a) = 0 → pSpace (s.rx a) ≤ 1 → pAddr (s.rx a) % 64 = 0 →
      tableBytes (s.rx a) 16 s = .ok (u, bs) → (∀ c : Nat, c < 256 → tableWord bs c < 2 ^ 19) →
      ∃ tb : Vector (BitVec 19) 256, CachesOnly s u ∧ exec (.dtld a tab) s = .next (done u (put tb)) ∧
        ∀ c : Fin 256, tb[c].toNat = tableWord bs c.val) ∧
    (∀ (u : State) (bs : List Byte) (c : Nat), pFmt (s.rx a) = 0 → pSpace (s.rx a) ≤ 1 → pAddr (s.rx a) % 64 = 0 →
      tableBytes (s.rx a) 16 s = .ok (u, bs) → c < 256 → 2 ^ 19 ≤ tableWord bs c → Raises s (.dtld a tab) { code := .shape }) ∧
    (pFmt (s.rx a) ≠ 0 ∨ 1 < pSpace (s.rx a) → Raises s (.dtld a tab) (protect 0 (s.rx a))) ∧
    (pFmt (s.rx a) = 0 → pSpace (s.rx a) ≤ 1 → pAddr (s.rx a) % 64 ≠ 0 → Raises s (.dtld a tab) (protect 1 (s.rx a)))

/-- R166, R167, R218 and R219: the counter instructions; WAITC whose condition holds completes and acquires, else the core idles at it; YIELD with no other task ready, and AWAIT whose
condition holds, have no effect; otherwise the task gives the core up and will go on at the next instruction. -/
def Obligations.CountersAndWaits : Prop :=
  (∀ (s : State) (d b : Reg) (n : R16), Alone s →
     let c := s.task.c[n]
     let y := s.rx b
     (s.task.determinate = false → WritesX s (.cget d n) d (BitVec.ofNat 64 c.toNat)) ∧
     (s.task.determinate = true → ∃ sub : Nat, Raises s (.cget d n) { code := .detViolation, sub := sub }) ∧
     exec (.cset n b) s = .next (done s fun t => { t with c := t.c.set n.val (BitVec.ofNat 32 y.toNat) }) ∧
     exec (.cadd n b) s = .next (done s fun t => { t with c := t.c.set n.val (BitVec.ofNat 32 (c.toNat + y.toNat)) }) ∧
     ((c - BitVec.ofNat 32 y.toNat).toNat < 2 ^ 31 → ∃ u : State, CachesOnly (done s id) u ∧ exec (.waitc n b) s = .next u) ∧
     (2 ^ 31 ≤ (c - BitVec.ofNat 32 y.toNat).toNat →
       exec (.waitc n b) s = .next { s with core := { s.core with task := { s.task with wait := .idle } } })) ∧
  (∀ (s : State) (n : R16) (b : Reg), Alone s → s.task.lease = none →
     let leaves (w : Wait) : State := { s with core := { s.core with task :=
       { past s.task with wait := w, draining := some .suspended, drainFrom := s.time } } }
     let holds : Prop := (s.task.c[n] - BitVec.ofNat 32 (s.rx b).toNat).toNat < 2 ^ 31
     (s.otherReady = false → exec .yield s = .next (done s id)) ∧
     (s.otherReady = true → exec .yield s = .next (leaves .none)) ∧
     (holds → exec (.await n b) s = .next (done s id)) ∧
     (¬ holds → exec (.await n b) s = .next (leaves (.await n (BitVec.ofNat 32 (s.rx b).toNat)))))

/-- R162, R163 and R113: REP. No repetition skips the body; else the buffer takes the words, the count, the steps and the scalar registers,
and the scalar flow goes on past the body. A body word that may not issue, and a REP while a body is frozen, is ILLEGAL_INSTRUCTION. -/
def Obligations.Repetition : Prop :=
  ∀ (s : State) (n : Fin 16) (c sd sa sb : Reg), Alone s →
    let i : Instr := .rep n c sd sa sb
    let next : Word := s.task.pc + 4 + BitVec.ofNat 64 (4 * (n.val + 1))
    (s.task.rep.frozen = true → Raises s i { code := .illegalInstruction }) ∧
    (s.task.rep.frozen = false → s.rx c = 0 → exec i s = .next (went s next id)) ∧
    (∀ e : Cause, s.task.rep.frozen = false → s.rx c ≠ 0 → fetchBody s (s.task.pc + 4) (n.val + 1) = .cause e → Raises s i e) ∧
    (∀ (u : State) (ws : List Nat), s.task.rep.frozen = false → s.rx c ≠ 0 → fetchBody s (s.task.pc + 4) (n.val + 1) = .ok (u, ws) →
      let r : RepBuf :=
        { running := true, frozen := false, words := ws, nextw := 0, rep := 0, total := (s.rx c).toNat
          sd := sd.val, sa := sa.val, sb := sb.val, captured := Vector.ofFn fun j => u.rx j
          shadow := decide (s.task.handling ≠ .none) }
      CachesOnly s u ∧
      ((∀ j w : Nat, j < min (s.rx c).toNat 32 → w ∈ ws → bodyWordOk (stagger r j w) = true) →
        exec i s = .next (went u next fun t => { t with rep := r })) ∧
      ((∃ j w : Nat, j < min (s.rx c).toNat 32 ∧ w ∈ ws ∧ bodyWordOk (stagger r j w) = false) →
        exec i s = .next (raise { code := .illegalInstruction } u)))

/-- R168, R221, R64: an instruction that waits for the core's work, when there is none: EXIT ends the task, clears its windows and raises
the launch's counter; FENCE goes on; TERMWAIT of a finished launch writes 1. -/
def Obligations.ExitEndsTask : Prop :=
  ∀ (s : State) (d : Reg), s.task.replay = [] → s.storesWait = false → s.task.held = [] →
    (s.working = false → s.task.steps = [] → (∀ c : CoreId, s.fusingOf c = 0) → s.task.lease = none →
      ∃ t : State, exec .exit s = .next t ∧ t.task.st = .ended ∧ (∀ i : Fin 4, t.task.win[i] = 0) ∧ t.task.x = s.task.x ∧
        t.mem = s.mem ∧ t.task.gang = 0 ∧
        (t.launch? s.task.launch).map (·.counter) = (s.launch? s.task.launch).map (·.counter + 1)) ∧
    (Alone s → ∀ sc : Scope, ∃ u : State, CachesOnly (done s id) u ∧ exec (.fence sc) s = .next u) ∧
    (Alone s → s.task.termdetect = true → ∀ l : Launch, s.launch? s.task.launch = some l → l.finished = true →
      ∃ u : State, CachesOnly (done s fun t => Task.wx { t with termdone := true } d 1) u ∧ exec (.termwait d) s = .next u) ∧
    (s.task.termdetect = false → Raises s (.termwait d) { code := .illegalInstruction })

/-- R39, R40, R42, R43 and R165: FUSE by the last member that arrives forms the gang of its aligned group, whose members all go on after the FUSE of the lowest position; a member that
arrives before waits; on a core that is no compute core it is GANG_DIVERGE. SPLIT leaves the gang. A member that has completed an instruction waits until
every member has. FUSE outside the core set, of another size, or in a gang, and a member's end while others wait, are GANG_DIVERGE; so is a branch on which members differ
(R41). That a member whose turn has ended takes it when its next turn begins is the model's choice (assumption log 117). -/
def Obligations.GangsMoveTogether : Prop :=
  ∀ (s : State) (g : GangSize) (n code : Nat), (g, n, code) ∈ [(GangSize.g2, 2, 1), (.g4, 4, 2), (.g8, 8, 3)] →
    let d : Cause := { code := .gangDiverge }
    let onward (t : Task) : Task := { t with gangDone := false, rep := { t.rep with fresh := false } }
    let fusing : State := { s with core := { s.core with task := { s.task with fusing := n } } }
    let waitsNot (t : State) : State := { t with core := { t.core with task := { t.task with fusing := 0 } } }
    exec .split s = .next { s with core := { s.core with task := { s.task with
      gang := 0, gangDone := false, pc := s.task.pc + 4, wait := .none } } } ∧
    (s.core.kind ≠ .compute → Raises s (.fuse g) { code := .gangDiverge }) ∧
    (s.core.kind = .compute → Alone s → s.Keyed → (∀ c ∈ s.group n, s.inCoreSet c.lid = true) → s.core.id ∈ s.group n → (s.group n).Nodup →
      (∀ c, c ≠ s.core.id → s.fusingOf c = if c ∈ s.group n then n else 0) →
      ∀ (c0 : CoreId) (k0 : Core), (s.group n).head? = some c0 → s.findCore c0 = some k0 → ∃ t : State, exec (.fuse g) s = .next t ∧ t = { s with core := t.core, others := t.others } ∧ ∀ (c : CoreId) (k : Core), s.findCore c = some k →
        t.findCore c = some (if c ∈ s.group n then { k with task := { k.task with
          gang := code, gangDone := false, fusing := 0, pc := k0.task.pc + 4, wait := .none } } else k)) ∧
    (s.core.kind = .compute → Alone s → (∀ c ∈ s.group n, s.inCoreSet c.lid = true) →
      (∀ c, c ≠ s.core.id → s.fusingOf c = 0 ∨ s.fusingOf c = n) →
      (∃ c ∈ s.group n, c ≠ s.core.id ∧ s.fusingOf c = 0) →
      exec (.fuse g) s = .next { s with core := { s.core with task := { s.task with fusing := n, wait := .stall } } }) ∧
    (∀ (d a : Reg) (imm : BitVec 16), s.task.gang ≠ 0 → s.task.inBody = false → s.core.saved = [] →
      let moved : Task := { past (s.task.wx d (BitVec.ofInt 64 ((s.rx a).toInt + imm.toInt))) with gangDone := true }
      ((∃ c ∈ s.gangMembers, c ≠ s.core.id ∧ s.memberDone c = false) → exec (.addi d a imm) s = .next { s with core := { s.core with task := moved } }) ∧
      (s.Keyed → s.gangMembers.Nodup → s.core.id ∈ s.gangMembers → (∀ c ∈ s.gangMembers, c ≠ s.core.id → s.memberDone c = true) →
        ∃ t : State, exec (.addi d a imm) s = .next t ∧ t = { s with core := t.core, others := t.others } ∧ t.task = onward moved ∧
          ∀ (c : CoreId) (k : Core), c ∈ s.gangMembers → c ≠ s.core.id → s.findCore c = some k → k.saved = [] → k.task.gang ≠ 0 →
            k.task.launch = s.task.launch → t.findCore c = some { k with task := onward k.task })) ∧
    -- the ways of R40 and R165 in which FUSE diverges
    (s.core.kind = .compute → Alone s → (∃ c ∈ s.group n, s.inCoreSet c.lid = false) → (∀ c, c ≠ s.core.id → s.fusingOf c = 0 ∨ s.fusingOf c = n) →
      exec (.fuse g) s = .next (onCores divergeHere ((s.group n).filter fun c => decide (c = s.core.id ∨ s.fusingOf c = n)) fusing)) ∧
    (∀ (c0 : CoreId) (m : Nat), s.core.kind = .compute → Alone s → (∀ c ∈ s.group n, s.inCoreSet c.lid = true) → (s.group n).Nodup →
      s.core.id ∈ s.group n → c0 ∈ s.group n → c0 ≠ s.core.id → s.fusingOf c0 = m → m ≠ 0 → m ≠ n →
      (∀ c, c ≠ s.core.id → c ≠ c0 → s.fusingOf c = 0) →
      ((m = 2 ∨ m = 4 ∨ m = 8) → c0 ∈ s.group m → (s.group m).Nodup →
        exec (.fuse g) s = .next (onCore c0 divergeHere (divergeHere fusing))) ∧
      (c0 ∉ s.group m → exec (.fuse g) s = .next (divergeHere fusing))) ∧
    (s.core.kind = .compute → s.task.gang ≠ 0 → exec (.fuse g) s = .next (onCores (raise d) s.gangMembers (splitGang s))) ∧
    -- a member that waits at FUSE diverges where the task of another ends
    (∀ c0 : CoreId, c0 ≠ s.core.id → c0 ∈ s.group n → (s.group n).Nodup → s.fusingOf c0 = n → (∀ c, c ≠ c0 → s.fusingOf c = 0) →
      Drained s → s.working = false → s.task.lease = none →
      ∃ t : State, exec .exit s = .next (onCore c0 divergeHere t) ∧ t.task.st = .ended ∧ t.others = s.others) ∧
    (∀ t : State, (t.task.st = .running → divergeHere t = raise d (waitsNot t)) ∧
      (t.task.st ≠ .running → divergeHere t = { waitsNot t with core := { (waitsNot t).core with task := { (waitsNot t).task with
        asyncs := t.task.asyncs ++ [d] } } })) ∧
    -- R41: no member branches unless all go to one place
    (∀ (a b : Reg) (off : BitVec 13) (i : Instr) (p : Word → Word → Bool),
      (i, p) ∈ [(Instr.beq a b off, fun x y => decide (x = y)), (.bne a b off, fun x y => decide (x ≠ y)),
        (.blt a b off, fun x y => decide (x.toInt < y.toInt)), (.bge a b off, fun x y => decide (y.toInt ≤ x.toInt)),
        (.bltu a b off, fun x y => decide (x.toNat < y.toNat)), (.bgeu a b off, fun x y => decide (y.toNat ≤ x.toNat))] →
      s.task.gang ≠ 0 → s.Keyed → (∀ c ∈ s.gangMembers, c ≠ s.core.id → s.memberDone c = false) →
      (∃ (c : CoreId) (k : Core), c ∈ s.gangMembers ∧ s.findCore c = some k ∧ (k.task.pc = s.task.pc) ∧ off ≠ 1 ∧
        p (k.task.rx a) (k.task.rx b) ≠ p (s.rx a) (s.rx b)) →
      exec i s = .next (onCores (raise d) s.gangMembers (splitGang s))) ∧
    (∀ (e a : Reg) (imm : BitVec 16), s.task.gang ≠ 0 → s.Keyed → (∀ c ∈ s.gangMembers, c ≠ s.core.id → s.memberDone c = false) →
      (∃ (c : CoreId) (k : Core), c ∈ s.gangMembers ∧ s.findCore c = some k ∧
        (k.task.rx a + BitVec.ofInt 64 imm.toInt).toNat / 4 ≠ (s.rx a + BitVec.ofInt 64 imm.toInt).toNat / 4) →
      exec (.jalr e a imm) s = .next (onCores (raise d) s.gangMembers (splitGang s)))

/-! ## Supervisor cores -/

/-! ## Memory -/

/-- R183, R198 and R199: the pointer that an access forms, or ADDRESS_WRAP, whose address is the base pointer: the model's choice (assumption log 116). -/
def Obligations.MemoryAddresses : Prop :=
  ∀ (s : State) (a b : Reg) (off : BitVec 10) (z : Nat),
    let p := s.rx a
    let forms (q : Try Word) (n : Int) : Prop :=
      (0 ≤ n → n < 2 ^ 48 → q = .ok (BitVec.ofNat 64 (p.toNat / 2 ^ 48 * 2 ^ 48 + n.toNat))) ∧
      (n < 0 ∨ 2 ^ 48 ≤ n → q = .cause { code := .addressWrap, addr := p })
    forms (memPtr s a off z) ((p.toNat % 2 ^ 48 : Nat) + off.toInt * (z : Int)) ∧
    forms (idxPtr s a b z) ((p.toNat % 2 ^ 48 : Nat) + (s.rx b).toInt * (z : Int)) ∧
    (∀ (idx : Vec) (i : Nat), 0 < z → z ≤ 8 → i < 64 / z → ∃ q : Try Word, (gatherPtrs p idx z)[i]? = some q ∧
      forms q ((p.toNat % 2 ^ 48 : Nat) + (BitVec.ofNat (8 * z) (idx.toNat / 2 ^ (8 * z * i))).toInt * (z : Int)))

/-- R184 to R187 and R360: checks 3 to 6 of an access in their order, with the spaces: the cause of an access, or where it goes; and the classes of access that a page's kind and rights
admit, with the cause of the others. -/
def Obligations.AccessChecks : Prop :=
  (∀ (s : State) (cls : AccCls) (p : Word) (align : Nat) (elem : Bool), 0 < align →
     let fmt := p.toNat / 2 ^ 59
     let span := p.toNat / 2 ^ 52 % 8
     let space := p.toNat / 2 ^ 48 % 16
     let addr := p.toNat % 2 ^ 48
     let r := locate s cls p align elem
     let known : Prop := fmt ≤ 20 ∧ span ≤ 6 ∧ space ≤ 3
     let write : Prop := cls = .store ∨ cls = .atomic ∨ cls = .engineWrite
     let admitted : Prop := space = 0 ∨ (space = 1 ∧ cls ≠ .lease ∧ addr < 2 ^ 17) ∨ (space = 2 ∧ cls ≠ .lease ∧ cls ≠ .atomic ∧ addr < 2 ^ 33)
     let element : Prop := elem = false ∨ (fmt ≠ 0 ∧ blkOk fmt (p.toNat / 2 ^ 55 % 16) = true)
     (¬ known → r = .cause (protect 0 p)) ∧
     (known → write → 18 ≤ fmt → r = .cause { code := .seamWrite, addr := p }) ∧
     (known → ¬ (write ∧ 18 ≤ fmt) →
       (¬ admitted ∨ ¬ element → r = .cause (protect 0 p)) ∧
       (admitted → element → addr % align ≠ 0 → r = .cause (protect 1 p)) ∧
       (admitted → element → addr % align = 0 →
         (space = 1 → r = .ok (.scratch addr span)) ∧
         (space = 2 → r = .ok (.remote (addr / 2 ^ 17) (addr % 2 ^ 17) span)) ∧
         (space = 0 → ∀ x : Xl, translate s addr = x →
           (x = .fault → r = .cause { code := .pageFault, addr := p }) ∧
           (∀ n : Nat, x = .ptFormat n → r = .cause { code := .protect, sub := 9, addr := p, level := n }) ∧
           (x = .mig → r = .wait (.mig s.now)) ∧ (∀ w : Wait, x = .wait w → r = .wait w) ∧
           (x = .ue → r = .cause { code := .memUe, addr := p }) ∧
           (∀ l : Leaf, x = .leaf l → ∀ c : Try Unit, kindCheck cls l p = c →
             (c = .ok () → r = .ok (.phys l addr)) ∧ (∀ e : Cause, c = .cause e → r = .cause e)))))) ∧
  (∀ (l : Leaf) (p : Word),
     let loads : Prop := ∀ c : AccCls, c = .load ∨ c = .engineRead → kindCheck c l p = if l.kind = .strata then .cause (protect 2 p) else .ok ()
     let leases : Prop := kindCheck .lease l p = if l.kind = .shared ∨ l.kind = .nearmem then .ok () else .cause (protect 2 p)
     let stores (c : AccCls) : Prop := kindCheck c l p =
       if l.kind = .strata ∨ l.kind = .readonly then .cause (protect 2 p)
       else if l.kind = .readdup then .cause (protect (if c = .engineWrite then 2 else 8) p)
       else if l.w = true then .ok () else .cause (protect 3 p)
     loads ∧ leases ∧ stores .store ∧ stores .atomic ∧ stores .engineWrite)

/-- R357 to R361, R348, R356 and R412: the TLB, whose entry may hold an error, and else a walk of three levels from the root, an entry's index at each, and what each entry's bits say.
The walker reads an entry once its line's home lets it, with a token of the line, and meets its poison. That a walk
waits at an entry's line as an access does, and takes no token from its holder (assumption log 47), and that a root that no rule admits is refused as an entry of level 1 (log 55), are the model's
choices. -/
def Obligations.Translation : Prop :=
  (∀ (s : State) (va : Nat),
    let root := s.rootEntry
    let x := translate s va
    let refused : Prop := root / 2 ^ 56 % 2 ^ 7 ≠ 0 ∨ root / 2 ^ 52 % 4 ≠ 0 ∨ root % 2 ^ 21 ≠ 0
    let stopped : Option Xl := s.rootAddr.bind fun r => s.walkStop r.1 r.2
    (∀ e : TlbEntry, tlbEntry s va = some e → x = if e.bad = true then .ue else .leaf e.leaf) ∧
    (∀ y : Xl, tlbEntry s va = none → stopped = some y → x = y) ∧
    (tlbEntry s va = none → stopped = none → root.testBit 63 = false → x = .fault) ∧
    (tlbEntry s va = none → stopped = none → root.testBit 63 = true → refused → x = .ptFormat 1) ∧
    (tlbEntry s va = none → stopped = none → root.testBit 63 = true → ¬ refused →
      let at_ (level pkg table : Nat) (deeper : Nat → Nat → Prop) : Prop :=
        let index := if level = 1 then va / 2 ^ 30 % 2 ^ 18 else if level = 2 then va / 2 ^ 21 % 2 ^ 9 else va / 2 ^ 16 % 2 ^ 5
        match s.walkStop pkg (table + 8 * index) with
        | some y => x = y
        | none => match entryAt level (s.physD pkg (table + 8 * index)) with
          | .absent => x = .fault
          | .bad => x = .ptFormat level
          | .leaf l mig => x = if mig then .mig else .leaf l
          | .table p t => deeper p t
      at_ 1 (root / 2 ^ 54 % 4) (root % 2 ^ 52) fun p t => at_ 2 p t fun p t => at_ 3 p t fun _ _ => True)) ∧
  (∀ (s : State) (pkg a : Nat),
    let l := lineOf pkg a
    let h := s.holder
    (s.core.kind ≠ .supervisor → s.rootEntry = s.physD s.core.place.pkg ((s.pkg s.core.place.pkg).asidTable + 8 * s.asid)) ∧
    (s.core.kind = .supervisor → s.rootEntry = s.core.ptbase.toNat) ∧
    (s.lineFree l h = false → s.walkStop pkg a = some (.wait (.queued l h))) ∧
    (s.lineFree l h = true → (s.line l).gatherRead h = none → s.walkStop pkg a = some (.wait (.home l h false))) ∧
    (s.lineFree l h = true → (s.line l).gatherRead h ≠ none → s.walkStop pkg a = if (s.line l).poison = true then some .ue else none)) ∧
  (∀ e level : Nat,
    (e.testBit 63 = false → entryAt level e = .absent) ∧
    (e.testBit 63 = true → e.testBit 52 = true → entryAt level e = .bad) ∧
    (∀ p t : Nat, entryAt level e = .table p t → e.testBit 58 = false ∧ level ≠ 3 ∧ p = e / 2 ^ 54 % 4 ∧ t = e % 2 ^ 52 ∧
      t % (if level = 1 then 4096 else 256) = 0) ∧
    (∀ (l : Leaf) (mig : Bool), entryAt level e = .leaf l mig →
      e.testBit 58 = true ∧ mig = e.testBit 53 ∧ l.pkg = e / 2 ^ 54 % 4 ∧ l.w = e.testBit 56 ∧ l.x = e.testBit 57 ∧ l.tier = e.testBit 59 ∧
      l.addr = e % 2 ^ 52 ∧ l.size = (if level = 1 then 2 ^ 30 else if level = 2 then 2 ^ 21 else 2 ^ 16) ∧ l.addr % l.size = 0 ∧
      (e / 2 ^ 60 % 8, l.kind) ∈ [(0, PageKind.priv), (1, .readonly), (2, .shared), (3, .nearmem), (4, .strata), (5, .readdup)] ∧
      (l.x = true → l.kind = .readonly) ∧ (l.w = true → l.kind ≠ .readonly ∧ l.kind ≠ .strata ∧ l.kind ≠ .readdup) ∧
      (l.kind = .nearmem ∨ l.kind = .strata → l.tier = false ∧ level = 3)))

/-- R11 and R307: bytes of lower addresses hold lower bits; a span code moves scratchpad bytes among the banks of their row of 128 bytes, no two
to one place; and what is stored under a span code reads back under it. -/
def Obligations.ScratchpadLayout : Prop :=
  (∀ v n i : Nat, i < n → ((bytesOf v n).getD i 0).toNat = v / 256 ^ i % 256) ∧
  (∀ k o : Nat, k ≤ 6 →
    swizzle k o / 128 = o / 128 ∧ swizzle k o % 8 = o % 8 ∧ swizzle 0 o = o ∧
    (0 < k → swizzle k o / 8 % 16 = (o / 8 % 16) ^^^ (o / 2 ^ (k + 3) % 16)) ∧
    ∀ o' : Nat, swizzle k o' = swizzle k o → o' = o) ∧
  (∀ (t : Task) (k o : Nat) (bs : List Byte), k ≤ 6 →
    let u : Task := { t with scratch := spWrite k o bs t.scratch }
    spRead u k o bs.length = bs ∧
    ∀ o' : Nat, o' < o ∨ o + bs.length ≤ o' → memByte u.scratch (swizzle k o') = memByte t.scratch (swizzle k o'))

/-- R184, R185, R188 to R190, R197, R198, R310, R314 and R315: the bytes that a load reads, in each place it may go, and what it writes: memory at the home of its line, or the copy that the
core's L1 holds, sign-extended or zero-extended, to its register and to no other. Nothing else but caches and tokens changes; a strong load at a scope wider than core then acquires; where
the access has a cause, the load raises it. That a remote access waits while its owner is away and is answered WINDOW_NACK by an owner without its task (assumption log 9), and that strong and
`.byp` loads read at the home (log 10), are the model's choices. -/
def Obligations.Loads : Prop :=
  (∀ (s : State) (p : Word) (n align : Nat) (elem : Bool) (st : Strength) (h : Hint),
     let r := loadAt s p n align elem st h
     let goes (loc : Loc) : Prop := locate s .load p align elem = .ok loc
     (∀ c : Cause, locate s .load p align elem = .cause c → r = .cause c) ∧
     (∀ o k : Nat, goes (.scratch o k) → o + n ≤ 2 ^ 17 → Quiet s →
       (¬ Bad s.task k o n → r = .ok (s, spRead s.task k o n)) ∧ (Bad s.task k o n → r = .cause { code := .memUe, addr := p })) ∧
     (∀ o k : Nat, goes (.scratch o k) → 2 ^ 17 < o + n → r = .cause (protect 0 p)) ∧
     (∀ (w o k : Nat) (c : Core), goes (.remote w o k) → o + n ≤ 2 ^ 17 → s.findCore { tenant := s.core.id.tenant, lid := w } = some c →
       let nack : Prop := r = .cause { code := .windowNack, addr := p, party := w }
       let met : Prop := Tenancy.holdsRouter (s.tenant s.core.id.tenant) c.place = true
       let stays : Prop := (∀ t ∈ c.saved, t.st ≠ .preempted ∧ t.st ≠ .faulted) ∨ c.task.launch = s.task.launch
       (¬ met → nack) ∧
       (met → c.task.st = .running → stays → c.task.admits s.core.id.lid o n false = true → Quiet s →
         (¬ Bad c.task k o n → r = .ok (modTaskOf c.id (fun t => { t with wlast := some s.now }) s, spRead c.task k o n)) ∧ (Bad c.task k o n → r = .cause { code := .memUe, addr := p })) ∧
       (met → c.task.st = .running → stays → c.task.admits s.core.id.lid o n false = false → nack) ∧
       (met → c.task.st = .running → ¬ stays → r = .wait .remote) ∧
       (met → c.task.st = .suspended ∨ c.task.st = .preempted ∨ c.task.st = .faulted → r = .wait .remote) ∧
       (met → c.task.st = .none → (∃ t ∈ c.saved, t.st = .preempted ∨ t.st = .faulted) → r = .wait .remote) ∧
       (met → c.task.st = .none → c.saved = [] → nack)) ∧
     (∀ w o k : Nat, goes (.remote w o k) → o + n ≤ 2 ^ 17 → s.findCore { tenant := s.core.id.tenant, lid := w } = none →
       r = .cause { code := .windowNack, addr := p, party := w }) ∧
     (∀ (leaf : Leaf) (va : Nat), goes (.phys leaf va) →
       let cached : Prop := st = .weak ∧ h ≠ .byp ∧ (leaf.kind = .priv ∨ leaf.kind = .readonly ∨ leaf.kind = .readdup)
       (¬ Passes s va → r = .wait .stall) ∧
       (Passes s va →
         (¬ cached → Ready s leaf va false → ∃ u : State, CachesOnly s u ∧ r = .ok (u, s.readPhys leaf.pkg (leaf.pa va) n)) ∧
         (cached → ∀ e : L1Line, l1Find s.core s.asid s.now va = some e →
           (e.bad = false → ∃ u : State, CachesOnly s u ∧ r = .ok (u, (e.bytes.drop (va % 64)).take n)) ∧
           (e.bad = true → r = .cause { code := .memUe, addr := p })) ∧
         (cached → l1Find s.core s.asid s.now va = none → Ready s leaf (va / 64 * 64) false →
           ∃ u : State, CachesOnly s u ∧ r = .ok (u, ((s.readPhys leaf.pkg (leaf.pa (va / 64 * 64)) 64).drop (va % 64)).take n))))) ∧
  (∀ (s : State) (d a b : Reg) (st : Strength) (h : Hint) (off : BitVec 10), Alone s →
     (isStrong st = true → (∀ e ∈ s.task.replay, e.strong = false) ∧ s.strongWaits = false) →
     let m (z : Nat) := memPtr s a off z
     let x (z : Nat) := idxPtr s a b z
     let sx (w : Nat) (n : Nat) (t : Task) : Task := t.wx d ((BitVec.ofNat w n).signExtend 64)
     let zx (n : Nat) (t : Task) : Task := t.wx d (BitVec.ofNat 64 n)
     ∀ (i : Instr) (hint : Hint) (q : Try Word) (z : Nat) (put : Nat → Task → Task),
       (i, hint, q, z, put) ∈
         [(.ldb d a st h off, h, m 1, 1, sx 8), (.ldbu d a st h off, h, m 1, 1, zx), (.ldh d a st h off, h, m 2, 2, sx 16),
          (.ldhu d a st h off, h, m 2, 2, zx), (.ldw d a st h off, h, m 4, 4, sx 32), (.ldwu d a st h off, h, m 4, 4, zx),
          (.ldd d a st h off, h, m 8, 8, zx), (.vld d a st h off, h, m 64, 64, fun n t => t.wv d (BitVec.ofNat 512 n)),
          (.ldx d a b st .s8, .dflt, x 1, 1, sx 8), (.ldx d a b st .z8, .dflt, x 1, 1, zx), (.ldx d a b st .s16, .dflt, x 2, 2, sx 16),
          (.ldx d a b st .z16, .dflt, x 2, 2, zx), (.ldx d a b st .s32, .dflt, x 4, 4, sx 32), (.ldx d a b st .z32, .dflt, x 4, 4, zx),
          (.ldx d a b st .s64, .dflt, x 8, 8, zx)] →
       (∀ c : Cause, q = .cause c → Raises s i c) ∧
       (∀ p : Word, q = .ok p → p.toNat / 2 ^ 48 % 16 ≠ 3 →
         (∀ c : Cause, loadAt s p z z false st hint = .cause c → Raises s i c) ∧
         (∀ (u : State) (bs : List Byte), loadAt s p z z false st hint = .ok (u, bs) →
           (p.toNat / 2 ^ 48 % 16 ≠ 2 → CachesOnly s u) ∧ ∃ t : State, exec i s = .next t ∧ CachesOnly (done u (put (leOf bs))) t ∧
             (st = .weak ∨ st = .strong .core → t = done u (put (leOf bs))))))

/-- R187 to R189, R191, R198 and R340: a store writes the low bytes of its register where its pointer leads and changes no register; a strong store, which is a release, is stated where nothing
is left to release. A store that meets an absent page, or a READDUP page, is parked while the queue has room, and the cause names the next instruction; behind a parked store of its page it
parks with no cause; with no room a page fault is precise. That a store waiting at its home for a line is performed later (assumption logs 7 and 41), and that one to a scratchpad comes after
earlier accesses of its cycle (log 1), are the model's choices. -/
def Obligations.Stores : Prop :=
  (∀ (s : State) (v a b : Reg) (st : Strength) (h : Hint) (off : BitVec 10), Alone s → (isStrong st = true → Drained s) →
     let m (z : Nat) := memPtr s a off z
     let x (z : Nat) := idxPtr s a b z
     let low (z : Nat) := bytesOf (s.rx v).toNat z
     ∀ (i : Instr) (hint : Hint) (q : Try Word) (bs : List Byte),
       (i, hint, q, bs) ∈
         [(.stb v a st h off, h, m 1, low 1), (.sth v a st h off, h, m 2, low 2), (.stw v a st h off, h, m 4, low 4),
          (.std v a st h off, h, m 8, low 8), (.vst v a st h off, h, m 64, bytesOf s.task.v[v].toNat 64), (.stx v a b st .s8, .dflt, x 1, low 1),
          (.stx v a b st .z8, .dflt, x 1, low 1), (.stx v a b st .s16, .dflt, x 2, low 2), (.stx v a b st .z16, .dflt, x 2, low 2),
          (.stx v a b st .s32, .dflt, x 4, low 4), (.stx v a b st .z32, .dflt, x 4, low 4), (.stx v a b st .s64, .dflt, x 8, low 8)] →
       (∀ c : Cause, q = .cause c → Raises s i c) ∧
       ∀ p : Word, q = .ok p →
         let n := bs.length
         let r := locate s .store p n false
         (∀ c : Cause, r = .cause c → c.code ≠ .pageFault → ¬ (c.code = .protect ∧ c.sub = 8) → Raises s i c) ∧
         (∀ o k : Nat, r = .ok (.scratch o k) → o + n ≤ 2 ^ 17 →
           let late : Prop := ∃ x : Nat × Nat, s.task.xlast = some x ∧ x.1 = s.now
           let part : Prop := ∃ j : Nat, j < n ∧ swizzle k (o + j) / 8 ∈ s.task.scratchBad ∧ ((o + j) / 8 * 8 < o ∨ o + n < (o + j) / 8 * 8 + 8)
           (late → exec i s = .next { s with core := { s.core with task := { s.task with wait := .stall } } }) ∧
           (¬ late → ¬ part → exec i s = .next (done s fun t => { t with
             scratch := spWrite k o bs t.scratch
             scratchBad := t.scratchBad.filter fun w => !(List.range n).any fun j => swizzle k (o + j) / 8 == w })) ∧
           (¬ late → part → Raises s i { code := .memUe, addr := p })) ∧
         (∀ (leaf : Leaf) (va : Nat), r = .ok (.phys leaf va) → Passes s va → Ready s leaf va true →
           ∃ t : State, exec i s = .next t ∧ MemOnly (done s id) t ∧ Stored s leaf.pkg (leaf.pa va) bs t) ∧
         (∀ (leaf : Leaf) (va : Nat), r = .ok (.phys leaf va) → Passes s va →
           s.task.determinate = false →
           let l := lineOf leaf.pkg (leaf.pa va)
           let via := homeHolder s leaf.kind
           s.lineFree l via = false ∨ (s.line l).gatherWrite via = none →
           ∃ t : State, exec i s = .next t ∧ CachesOnly (done s id) { t with attempts := s.attempts } ∧
             ((s.line l).gatherWrite via ≠ none → t.attempts = s.attempts) ∧
             (∀ (pkg die : Nat), via = .die pkg die → (s.line l).gatherWrite via = none → ∃ e ∈ t.attempts, e.pkg = pkg ∧ e.die = die ∧ e.line = l) ∧
             (via = .home → (s.line l).gatherWrite via = none → ∃ e ∈ t.attempts, e.pkg = l.pkg ∧ e.die = 5 ∧ e.line = l) ∧
             Joins { who := s.core.id, home := via, offset := leaf.pa va % 64, ptr := p, size := leaf.size, op := .store { bytes := bs }, hint := hint
                     came := s.now, behind := decide (∃ p ∈ (s.line l).pins, p.2 = via), strong := isStrong st } (s.line l).queue (t.line l).queue) ∧
         (∀ (w o k : Nat) (c : Core), r = .ok (.remote w o k) → o + n ≤ 2 ^ 17 → s.Keyed → w ≠ s.core.id.lid →
           s.findCore { tenant := s.core.id.tenant, lid := w } = some c → c.task.st = .running → c.task.wait = .none →
           c.savedAway = false → (∀ x : Nat × Nat, c.task.xlast = some x → ¬ (x.1 = s.now ∧ s.core.id.lid < x.2)) → c.task.admits s.core.id.lid o n true = true → Tenancy.holdsRouter (s.tenant s.core.id.tenant) c.place = true → c.task.scratchBad = [] →
           ∃ t : State, exec i s = .next t ∧ t.mem = s.mem ∧
             t.core = { s.core with task := { past s.task with sent := s.task.sent || (c.task :: c.saved).any fun u => u.launch == s.task.launch } } ∧
             t.findCore c.id = some { c with task := { c.task with
               scratch := spWrite k o bs c.task.scratch, wlast := some s.now, xlast := some (s.now, s.core.id.lid) } })) ∧
  (∀ (s : State) (v a : Reg) (st : Strength) (h : Hint) (off : BitVec 10) (p : Word), Alone s → (isStrong st = true → Drained s) →
     memPtr s a off 8 = .ok p →
     let page := p.toNat % 2 ^ 48 / 65536 * 65536
     let park (dup : Bool) : State := done s fun t => { t with replay := t.replay ++
       [{ page := page, ptr := p, data := { bytes := bytesOf (s.rx v).toNat 8 }, hint := h, strong := isStrong st, readdup := dup }] }
     let i : Instr := .std v a st h off
     let fault : Prop := locate s .store p 8 false = .cause { code := .pageFault, addr := p }
     let behind : Prop := ∃ e ∈ s.task.replay, e.page = page ∨ e.ptr.toNat % 2 ^ 48 / 65536 * 65536 = page
     (fault → s.task.replay.length < 8 → ¬ behind → (s.task.traps { code := .pageFault, addr := p } = true ∨ s.task.requests.length < 16) →
       exec i s = .next (deliver { code := .pageFault, sub := 1, addr := p, parked := true } (park false).task.pc (park false))) ∧
     (fault → s.task.replay.length < 8 → behind → exec i s = .next (park false)) ∧
     (fault → 8 ≤ s.task.replay.length → Raises s i { code := .pageFault, addr := p }) ∧
     (locate s .store p 8 false = .cause (protect 8 p) → s.task.replay.length < 8 → exec i s = .next (deliver
       { code := .protect, sub := 8, addr := p, parked := true, entry := s.task.replay.length } (park true).task.pc (park true))) ∧
     (∀ (leaf : Leaf) (va : Nat), locate s .store p 8 false = .ok (.phys leaf va) → Ready s leaf va true → s.movedPage page = false → s.task.replay.length < 8 → behind →
       exec i s = .next (park false)))

/-- R193 to R196 and R198: LDF and `ldx.f32` write the element's value as FP32, rounded to nearest, and OR the flags into FSTAT; an FP32 element is
copied. STF and `stx.f32` write FP32 rounded to the element's format. Stated for formats without blocks, by the element's bytes at address + index × size. -/
def Obligations.FormatElements : Prop :=
  ∀ (s : State) (r a b : Reg) (st : Strength) (h : Hint) (off : BitVec 10), Alone s → (isStrong st = true → Drained s) →
    let p := s.rx a
    let code := pFmt p
    let e := elemBytes code
    let x := (s.rx r).toNat % 2 ^ 32
    isPlain code = true → code ≠ 0 →
    (∀ (ld st' : Instr) (hint : Hint) (j : Int), (ld, st', hint, j) ∈
        [(.ldf r a st h off, .stf r a st h off, h, off.toInt), (.ldx r a b st .f32, .stx r a b st .f32, .dflt, (s.rx b).toInt)] →
      ∀ q : Word, ptrTo p ((pAddr p : Int) + j * (e : Int)) = .ok q →
        (∀ (u : State) (bs : List Byte), loadAt s q e e true st hint = .ok (u, bs) →
          let v : Nat × Flags := if code = 1 then (leOf bs, 0) else frne fmtF32 (elemVal s.task.dta s.task.dtb code (leOf bs), 0)
          (p.toNat / 2 ^ 48 % 16 ≠ 2 → CachesOnly s u) ∧ ∃ t : State, exec ld s = .next t ∧
            CachesOnly (done u fun t => Task.orFlags (t.wx r (BitVec.ofNat 64 v.1)) v.2) t) ∧
        (let v : Nat × Flags := if code = 1 then (x, 0) else elemEnc s.task.dta s.task.dtb code .rne (fdecode fmtF32 x)
         let bs := bytesOf v.1 e
         (∀ o k : Nat, locate s .store q e true = .ok (.scratch o k) → o + e ≤ 2 ^ 17 → s.task.scratchBad = [] → s.ownLate = false →
           exec st' s = .next (done s fun t => Task.orFlags { t with scratch := spWrite k o bs t.scratch } v.2)) ∧
         (∀ (leaf : Leaf) (va : Nat), locate s .store q e true = .ok (.phys leaf va) → Passes s va →
           Ready s leaf va true → ∃ t : State, exec st' s = .next t ∧ MemOnly (done s fun t => t.orFlags v.2) t ∧
             Stored s leaf.pkg (leaf.pa va) bs t)))

/-- R197 and R199: a gather reads, and a scatter writes, its lanes in ascending order: those of the core's own scratchpad, and those of memory, each
of which can be performed. A lane's cause, of its address or of its access, is the instruction's, with the lane's number and nothing written. Stated
where nothing is left to release, if the access is strong. -/
def Obligations.GatherAndScatter : Prop :=
  ∀ (s : State) (r a b : Reg) (st : Strength) (z : IdxSize) (w : Nat), Alone s → (isStrong st = true → Drained s) →
    (z, w) ∈ [(IdxSize.s8, 1), (.z8, 1), (.s16, 2), (.z16, 2), (.s32, 4), (.z32, 4), (.s64, 8), (.f32, 4)] →
    let n := 64 / w
    let q (i : Nat) : Try Word := (gatherPtrs (s.rx a) s.task.v[b] w).getD i (.wait .none)
    let lane (i : Nat) := bytesOf (s.task.v[r].toNat / 2 ^ (8 * w * i)) w
    let gets (bs : Nat → List Byte) : Prop := ∃ t : State, exec (.vgather r a b st z) s = .next t ∧
      CachesOnly (done s fun t => t.wv r (BitVec.ofNat 512 (leOf ((List.range n).flatMap bs)))) t
    (∀ (o : Nat → Nat) (k : Nat), Quiet s → s.task.scratchBad = [] →
      (∀ i : Nat, i < n → ∃ p : Word, q i = .ok p ∧ o i + w ≤ 2 ^ 17 ∧ locate s .load p w false = .ok (.scratch (o i) k)) →
      gets fun i => spRead s.task k (o i) w) ∧
    (∀ (leaf : Nat → Leaf) (va : Nat → Nat) (h : Holder),
      (∀ i : Nat, i < n → ∃ p : Word, q i = .ok p ∧ locate s .load p w false = .ok (.phys (leaf i) (va i)) ∧
        Settled s (leaf i) (va i) false h ∧ (isStrong st = true ∨ (leaf i).kind = .shared ∨ (leaf i).kind = .nearmem)) →
      gets fun i => s.readPhys (leaf i).pkg ((leaf i).pa (va i)) w) ∧
    (∀ (o : Nat → Nat) (k : Nat), s.task.scratchBad = [] → s.ownLate = false →
      (∀ i : Nat, i < n → ∃ p : Word, q i = .ok p ∧ o i + w ≤ 2 ^ 17 ∧ locate s .store p w false = .ok (.scratch (o i) k)) →
      exec (.vscatter r a b st z) s = .next (done s fun t =>
        { t with scratch := ((List.range n).foldl (fun m i => spWrite k (o i) (lane i) m) t.scratch) })) ∧
    (∀ (leaf : Nat → Leaf) (va : Nat → Nat) (h : Holder),
      (∀ i : Nat, i < n → ∃ p : Word, q i = .ok p ∧ locate s .store p w false = .ok (.phys (leaf i) (va i)) ∧ Settled s (leaf i) (va i) true h) →
      ∃ t : State, exec (.vscatter r a b st z) s = .next t ∧ MemOnly (done s id) t ∧ ∀ x : Nat, memByte t.mem x = memByte
        ((List.range n).foldl (fun m i => memStore m (memKey (leaf i).pkg ((leaf i).pa (va i))) (lane i)) s.mem) x) ∧
    (∀ (o : Nat → Nat) (k i : Nat) (c : Cause), Quiet s → s.task.scratchBad = [] → s.ownLate = false → i < n →
      (∀ (cls : AccCls) (j : Nat), cls = .load ∨ cls = .store → j < i → ∃ p : Word, q j = .ok p ∧ o j + w ≤ 2 ^ 17 ∧ locate s cls p w false = .ok (.scratch (o j) k)) →
      let fails (cls : AccCls) : Prop := q i = .cause c ∨ ∃ p : Word, q i = .ok p ∧ locate s cls p w false = .cause c
      (fails .load → Raises s (.vgather r a b st z) { c with lane := i }) ∧ (fails .store → Raises s (.vscatter r a b st z) { c with lane := i }))

/-- R201 and R283: the place of a tensor access's lane. Inside the extents it is base + Σ position × stride; a read outside is clamped or filled by CLIP, a
write outside is suppressed. An unsealed record, a block format, or coordinates past x31 give SHAPE. -/
def Obligations.TensorAccesses : Prop :=
  ∀ (s : State) (v c : Reg) (sh : R16), Alone s →
    let r := s.task.sh[sh]
    let e := elemBytes r.fmt
    let n := 64 / e
    let pos (i d : Nat) : Int := (s.rx (Fin.ofNat 32 (c.val + d))).toInt + if d = 0 then (i : Int) else 0
    let inside (i : Nat) : Prop := ∀ d : Nat, d < r.rank → 0 ≤ pos i d ∧ pos i d < (r.ext d : Int)
    let clamped (i d : Nat) : Int := max 0 (min (pos i d) ((r.ext d : Int) - 1))
    let addr (f : Nat → Int) : Int :=
      (pAddr r.base : Int) + ((List.range r.rank).map fun d => f d * (if d = 0 then (e : Int) else ((r.str d * e : Nat) : Int))).sum
    ((r.sealed = false ∨ isPlain r.fmt = false ∨ 32 < c.val + r.rank) →
      Raises s (.tld v c sh) { code := .shape } ∧ Raises s (.tst v c sh) { code := .shape }) ∧
    (r.sealed = true → isPlain r.fmt = true → c.val + r.rank ≤ 32 → 0 < r.rank →
      (∀ (at_ : Nat → Option Word),
        (∀ i : Nat, i < n →
          (inside i → ∃ p : Word, at_ i = some p ∧ ptrTo r.base (addr (pos i)) = .ok p) ∧
          (¬ inside i → r.edge = true → ∃ p : Word, at_ i = some p ∧ ptrTo r.base (addr (clamped i)) = .ok p) ∧
          (¬ inside i → r.edge = false → at_ i = none)) →
        ∀ (u : State) (bs : List Byte),
          loadLanes e .weak 0 ((List.range n).map fun i => match at_ i with | some p => .inl (.ok p) | none => .inr r.fillBytes) s = .ok (u, bs) →
          (pSpace r.base ≠ 2 → CachesOnly s u) ∧ exec (.tld v c sh) s = .next (done u fun t => t.wv v (BitVec.ofNat 512 (leOf bs)))) ∧
      (∀ (at_ : Nat → Option Word),
        (∀ i : Nat, i < n → (inside i → ∃ p : Word, at_ i = some p ∧ ptrTo r.base (addr (pos i)) = .ok p) ∧ (¬ inside i → at_ i = none)) →
        ∀ u : State, u.task.gang = 0 →
          storeLanes e .weak 0 ((List.range n).map fun i => (at_ i).map fun p => (.ok p, bytesOf (s.task.v[v].toNat / 2 ^ (8 * e * i)) e)) s = .ok u →
          exec (.tst v c sh) s = .next (done u id)))

/-- R204 to R206 and R209: an atomic returns the old value and writes the new one, in the core's own scratchpad or at the home of the line; stated where
nothing is left to release. -/
def Obligations.Atomics : Prop :=
  ∀ (s : State) (d a b : Reg) (sc : Scope) (size : AmoSize) (z : Nat), Alone s → Drained s → (size, z) ∈ [(AmoSize.w, 4), (.d, 8)] →
    let y : BitVec (8 * z) := BitVec.ofNat (8 * z) (s.rx b).toNat
    let xd : BitVec (8 * z) := BitVec.ofNat (8 * z) (s.rx d).toNat
    let amo (i : Instr) (n : Nat) (new : Nat → Option Nat) (ret : Nat → Word) (fl : Nat → Flags) : Prop :=
      let r := locate s .atomic (s.rx a) n false
      (∀ c : Cause, r = .cause c → Raises s i c) ∧
      (∀ o k : Nat, r = .ok (.scratch o k) → Quiet s → s.ownLate = false → Bad s.task k o n → Raises s i { code := .memUe, addr := s.rx a }) ∧
      (∀ o k : Nat, r = .ok (.scratch o k) → Quiet s → s.ownLate = false → s.task.scratchBad = [] →
        let old := leOf (spRead s.task k o n)
        ∃ t : State, exec i s = .next t ∧ CachesOnly (done s fun t => Task.orFlags (Task.wx (match new old with
          | some v => { t with scratch := spWrite k o (bytesOf v n) t.scratch }
          | none => t) d (ret old)) (fl old)) t) ∧
      (∀ (leaf : Leaf) (va : Nat), r = .ok (.phys leaf va) → s.movingLeaf leaf = false →
        Ready s leaf va true →
        let old := leOf (s.readPhys leaf.pkg (leaf.pa va) n)
        ∃ t : State, exec i s = .next t ∧ MemOnly (done s fun t => Task.orFlags (t.wx d (ret old)) (fl old)) t ∧
          match new old with
          | some v => Stored s leaf.pkg (leaf.pa va) (bytesOf v n) t
          | none => t.mem = s.mem)
    let int (i : Instr) (f : BitVec (8 * z) → BitVec (8 * z)) : Prop :=
      amo i z (fun o => some (f (BitVec.ofNat (8 * z) o)).toNat) (fun o => (BitVec.ofNat (8 * z) o).signExtend 64) fun _ => 0
    int (.amoadd d a b sc size) (fun o => o + y) ∧ int (.amoand d a b sc size) (fun o => o &&& y) ∧
    int (.amoor d a b sc size) (fun o => o ||| y) ∧ int (.amoxor d a b sc size) (fun o => o ^^^ y) ∧
    int (.amomin d a b sc size) (fun o => if o.toInt ≤ y.toInt then o else y) ∧
    int (.amomax d a b sc size) (fun o => if y.toInt ≤ o.toInt then o else y) ∧
    int (.amominu d a b sc size) (fun o => if o.toNat ≤ y.toNat then o else y) ∧
    int (.amomaxu d a b sc size) (fun o => if y.toNat ≤ o.toNat then o else y) ∧
    int (.amoswap d a b sc size) (fun _ => y) ∧
    amo (.amocas d a b sc size) z (fun o => if BitVec.ofNat (8 * z) o = xd then some y.toNat else none)
      (fun o => (BitVec.ofNat (8 * z) o).signExtend 64) (fun _ => 0) ∧
    (let sum (o : Nat) := frne fmtF32 (fadd (fdecode fmtF32 o) (fdecode fmtF32 ((s.rx b).toNat % 2 ^ 32)))
     (s.task.determinate = false → amo (.amofadd d a b sc) 4 (fun o => some (sum o).1) (fun o => BitVec.ofNat 64 o) fun o => (sum o).2) ∧
     (s.task.determinate = true → ∃ sub : Nat, Raises s (.amofadd d a b sc) { code := .detViolation, sub := sub }))

/-- R204 to R207, R209 and R412: a reduction writes the new value, in the core's own scratchpad or at the home of the line, or waits there, or for a page that moves (R208), while its core
goes on, and writes no register or flag; over an error in the scratchpad it writes nothing and leaves MEM_UE to the next release. -/
def Obligations.Reductions : Prop :=
  ∀ (s : State) (a b : Reg) (sc : Scope) (size : AmoSize) (z : Nat), Alone s → Drained s → (size, z) ∈ [(AmoSize.w, 4), (.d, 8)] →
    let y : BitVec (8 * z) := BitVec.ofNat (8 * z) (s.rx b).toNat
    let red (i : Instr) (n : Nat) (new : Nat → Nat) : Prop :=
      let r := locate s .atomic (s.rx a) n false
      (∀ c : Cause, r = .cause c → Raises s i c) ∧
      (∀ o k : Nat, r = .ok (.scratch o k) → Quiet s → s.ownLate = false → Bad s.task k o n →
        exec i s = .next (done s fun t => { t with held := t.held ++ [{ code := .memUe, addr := s.rx a, async := true }] })) ∧
      (∀ o k : Nat, r = .ok (.scratch o k) → Quiet s → s.ownLate = false → s.task.scratchBad = [] →
        exec i s = .next (done s fun t => { t with scratch := spWrite k o (bytesOf (new (leOf (spRead s.task k o n))) n) t.scratch })) ∧
      (∀ (leaf : Leaf) (va : Nat), r = .ok (.phys leaf va) → s.movingLeaf leaf = false →
        Ready s leaf va true →
        ∃ t : State, exec i s = .next t ∧ MemOnly (done s id) t ∧
          Stored s leaf.pkg (leaf.pa va) (bytesOf (new (leOf (s.readPhys leaf.pkg (leaf.pa va) n))) n) t) ∧
      (∀ (leaf : Leaf) (va : Nat), r = .ok (.phys leaf va) → s.movingLeaf leaf = true →
        ∃ (t : State) (op : AmoOp) (y : Nat), exec i s = .next t ∧ (∀ o : Nat, o < 2 ^ (8 * n) → (op.eval n o y 0).1 = some (new o)) ∧
          CachesOnly { done s id with core := { (done s id).core with
            moved := s.core.moved ++ [{ ptr := s.rx a, op := op, z := n, b := y, since := s.now }] } } t) ∧
      (∀ (leaf : Leaf) (va : Nat), r = .ok (.phys leaf va) → s.task.determinate = false → s.movingLeaf leaf = false →
        let l := lineOf leaf.pkg (leaf.pa va)
        s.lineFree l (homeHolder s leaf.kind) = false ∨ (s.line l).gatherWrite (homeHolder s leaf.kind) = none →
        ∃ t : State, exec i s = .next t ∧ CachesOnly (done s id) { t with attempts := s.attempts } ∧
          ∃ e : HomeReq, e.who = s.core.id ∧ e.home = homeHolder s leaf.kind ∧ e.offset = leaf.pa va % 64 ∧ e.ptr = s.rx a ∧ e.came = s.now ∧ e.strong = true ∧
            (∃ (op : AmoOp) (y : Nat), e.op = .reduce op n y ∧ ∀ o : Nat, o < 2 ^ (8 * n) → (op.eval n o y 0).1 = some (new o)) ∧
            Joins e (s.line l).queue (t.line l).queue)
    let int (i : Instr) (f : BitVec (8 * z) → BitVec (8 * z)) : Prop := red i z fun o => (f (BitVec.ofNat (8 * z) o)).toNat
    int (.redadd a b sc size) (fun o => o + y) ∧ int (.redand a b sc size) (fun o => o &&& y) ∧
    int (.redor a b sc size) (fun o => o ||| y) ∧ int (.redxor a b sc size) (fun o => o ^^^ y) ∧
    int (.redmin a b sc size) (fun o => if o.toInt ≤ y.toInt then o else y) ∧
    int (.redmax a b sc size) (fun o => if y.toInt ≤ o.toInt then o else y) ∧
    int (.redminu a b sc size) (fun o => if o.toNat ≤ y.toNat then o else y) ∧
    int (.redmaxu a b sc size) (fun o => if y.toNat ≤ o.toNat then o else y) ∧
    (s.task.determinate = false → red (.redfadd a b sc) 4 fun o =>
      (frne fmtF32 (fadd (fdecode fmtF32 o) (fdecode fmtF32 ((s.rx b).toNat % 2 ^ 32)))).1) ∧
    (s.task.determinate = true → ∃ sub : Nat, Raises s (.redfadd a b sc) { code := .detViolation, sub := sub })

/-- R115, R192 and R211: LEASE holds its line for min(X[n], 4,096) cycles, and with a count of 0 ends the lease; a release waits for parked stores and
delivers the cause that is held for it; a lease's count ends it. -/
def Obligations.LeasesAndReleases : Prop :=
  ∀ (s : State) (a b : Reg), Alone s →
    let r := locate s .lease (s.rx a) 1 false
    (s.task.determinate = true → ∃ sub : Nat, Raises s (.lease a b) { code := .detViolation, sub := sub }) ∧
    (s.task.determinate = false → (∀ c : Cause, r = .cause c → Raises s (.lease a b) c)) ∧
    (∀ (leaf : Leaf) (va : Nat), r = .ok (.phys leaf va) → s.task.determinate = false →
      let l := lineOf leaf.pkg (leaf.pa va)
      (s.rx b ≠ 0 → s.task.lease = none → (∀ e ∈ s.task.replay, e.strong = false) → s.strongWaits = false → Ready s leaf va true →
        ∃ t : State, exec (.lease a b) s = .next t ∧
          CachesOnly (done s fun t => { t with lease := some (l, s.now + min (s.rx b).toNat 4096) }) t ∧ (t.line l).lease = some s.core.id) ∧
      (s.rx b = 0 → Drained s → (∀ n : Nat, s.task.lease = some (l, n) →
        ∃ t : State, exec (.lease a b) s = .next t ∧ CachesOnly (done s fun t => { t with lease := none }) t ∧ (t.line l).lease ≠ some s.core.id) ∧
        (s.task.lease = none → exec (.lease a b) s = .next (done s id)))) ∧
    (∀ (l : Line) (n : Nat), s.task.lease = some (l, n) →
      (s.now < n → exec (.leaseExpiry s.core.id) s = .next s) ∧
      (n ≤ s.now → ∃ t : State, exec (.leaseExpiry s.core.id) s = .next t ∧ t.task = { s.task with lease := none } ∧
        (t.line l).lease ≠ some s.core.id ∧ t.mem = s.mem)) ∧
    (∀ (sc : Scope) (c : Cause) (cs : List Cause), s.task.replay = [] → s.storesWait = false → s.task.held = c :: cs →
      exec (.fence sc) s = .next (raise c { s with core := { s.core with task := { s.task with held := cs } } })) ∧
    (∀ (sc : Scope), s.task.replay ≠ [] → exec (.fence sc) s = .next { s with core := { s.core with task := { s.task with wait := .stall } } })

/-- R27, R112 and R212 to R216: what EVCFG, EVSIG and a load of space 3 do at a line that the launch holds: an event's signal, a mutex's holder, the loads that wait
for either in the order of their arrival, those of one cycle by their place in the bench, and the arrivals of a barrier, the last of which fires it. -/
def Obligations.EventLines : Prop :=
  ∀ (s : State) (d a b : Reg) (st : Strength) (h : Hint) (off : BitVec 10) (n : Fin 32) (l : EvLine), Alone s → Drained s →
    s.task.determinate = false → s.evLine s.bench n = l →
    let me := s.core.id.lid
    let held (q : Word) : Prop := heldLine s q = .ok (n, l)
    let after (f : EvLine → EvLine) : State := (done s id).modLine s.bench n f
    let ld : Instr := .ldd d a st h off
    let ldOf (p : Word) : Prop := memPtr s a off 8 = .ok p ∧ p.toNat / 2 ^ 48 % 16 = 3 ∧ held p
    let gets (v : Word) (f : EvLine → EvLine) : Prop :=
      ∃ t : State, exec ld s = .next t ∧ CachesOnly ((done s fun t => t.wx d v).modLine s.bench n f) t
    let waits : Prop := exec ld s = .next (({ s with core := { s.core with task := { s.task with wait := .line n.val d } } } : State).modLine s.bench n
      (EvLine.join s.now s.wl me))
    (∀ p : Word, heldLine s p = .ok (n, l) ↔
      (ptrOk p = true ∧ pSpace p = 3 ∧ pAddr p = 8 * n.val ∧ s.core.kind = .compute ∧ l.kind ≠ .off ∧ l.held = some s.task.launch)) ∧
    (∃ w1 w2 : List Nat, l.waiters = w1 ++ w2 ∧ (l.join s.now s.wl me).waiters = w1 ++ me :: w2 ∧ (l.came ≠ s.now → w2 = []) ∧
      w2.length ≤ l.together ∧ ∀ w : Nat, w2.head? = some w → benchPos s.wl me < benchPos s.wl w) ∧
    (∀ p : Word, ldOf p →
      (l.kind = .event → l.pending = true → gets 0 fun l => { l with pending := false }) ∧
      (l.kind = .event → l.pending = false → waits) ∧
      (l.kind = .mutex → l.holder = none → gets 0 fun l => { l with holder := some me }) ∧
      (l.kind = .mutex → l.holder = some me → Raises s ld (protect 5 p)) ∧
      (l.kind = .mutex → (∃ o : Nat, o ≠ me ∧ l.holder = some o) → waits) ∧
      (l.kind = .barrier → l.count + 1 < l.arrivals → exec ld s = .next
        (({ s with core := { s.core with task := { s.task with wait := .line n.val d } } } : State).modLine s.bench n
          fun l => { l with count := l.count + 1, waiters := l.waiters ++ [me] })) ∧
      (l.kind = .barrier → l.arrivals = l.count + 1 → l.waiters = [] → l.next = 0 → l.counted = [] → s.task.xphase = none → s.Keyed →
        ∃ t : State, exec ld s = .next t ∧ t.mem = s.mem ∧
          t.task = past { Task.wx s.task d ((l.round + 1).setWidth 64) with dphase := (s.task.dphase + 1) % 2 ^ 32 } ∧
          (t.evLine s.bench n).round = l.round + 1 ∧ (t.evLine s.bench n).count = 0 ∧ (t.evLine s.bench n).waiters = l.later)) ∧
    (held (s.rx a) →
      (l.kind = .event → l.waiters = [] → exec (.evsig a) s = .next (after fun l => { l with pending := true })) ∧
      (l.kind = .mutex → l.holder = some me → l.waiters = [] → exec (.evsig a) s = .next (after fun l => { l with holder := none })) ∧
      (l.kind = .mutex → l.holder ≠ some me → Raises s (.evsig a) (protect 5 (s.rx a))) ∧
      (l.kind = .barrier → l.count + 1 < l.arrivals → exec (.evsig a) s = .next (after fun l => { l with count := l.count + 1 }))) ∧
    (∀ l' : EvLine, lineAt s (s.rx a) = .ok n → l.held = some s.task.launch → l.waiters = [] → l.later = [] → l.holder = none →
      (s.benchAt s.bench).spans n < 16 →
      lineConfig (s.rx b).toNat ((s.tenant s.core.id.tenant).wl / 2 * ((s.tenant s.core.id.tenant).hl / 4)) l.held = some l' →
      exec (.evcfg a b) s = .next (after fun _ => l') ∧
      l'.pending = false ∧ l'.count = 0 ∧ l'.childCount = 0 ∧ l'.round = 0 ∧ l'.holder = none ∧ l'.held = l.held ∧
      l'.arrivals = (s.rx b).toNat / 2 ^ 8 % 16 ∧ l'.children = (s.rx b).toNat / 2 ^ 32 % 16 ∧ l'.parentB = (s.rx b).toNat / 2 ^ 48 ∧
      l'.parentL = (s.rx b).toNat / 2 ^ 40 % 32 ∧ l'.root = (s.rx b).getLsbD 39 ∧
      ((s.rx b).toNat % 8, l'.kind) ∈ [(0, LineKind.off), (1, .event), (2, .barrier), (3, .mutex), (4, .span)])

/-! ## Vectors -/

/-- R250, R253, R255 and R270 for integer lanes: they wrap, VADDS and VSUBS saturate, and no flag is raised. -/
def Obligations.VectorIntegers : Prop :=
  ∀ (s : State) (d a b : Reg) (m : KReg) (t : VT), Alone s → t.isI = true →
    let x (j : Nat) := vlane t s.task.v[a] j
    let y (j : Nat) := vlane t s.task.v[b] j
    let z : BitVec t.width := BitVec.ofNat t.width (s.rx b).toNat
    let lo : Int := if t.isS = true then -2 ^ (t.width - 1) else 0
    let hi : Int := if t.isS = true then 2 ^ (t.width - 1) - 1 else 2 ^ t.width - 1
    let sat (n : Int) : BitVec t.width := BitVec.ofInt t.width (max lo (min hi n))
    let lanes (i : Instr) (f : Nat → BitVec t.width) : Prop := ByLanes s i d t m fun j => (f j, 0)
    lanes (.vadd d a b m t) (fun j => x j + y j) ∧ lanes (.vsub d a b m t) (fun j => x j - y j) ∧
    lanes (.vmul d a b m t) (fun j => x j * y j) ∧
    lanes (.vmin d a b m t) (fun j => if lnum t (x j) ≤ lnum t (y j) then x j else y j) ∧
    lanes (.vmax d a b m t) (fun j => if lnum t (x j) ≤ lnum t (y j) then y j else x j) ∧
    lanes (.vabs d a m t) (fun j => if lnum t (x j) < 0 then -(x j) else x j) ∧ lanes (.vneg d a m t) (fun j => -(x j)) ∧
    lanes (.vadds d a b m t) (fun j => sat (lnum t (x j) + lnum t (y j))) ∧
    lanes (.vsubs d a b m t) (fun j => sat (lnum t (x j) - lnum t (y j))) ∧
    lanes (.vand d a b m t) (fun j => x j &&& y j) ∧ lanes (.vor d a b m t) (fun j => x j ||| y j) ∧
    lanes (.vxor d a b m t) (fun j => x j ^^^ y j) ∧ lanes (.vshl d a b m t) (fun j => x j <<< ((y j).toNat % t.width)) ∧
    lanes (.vshr d a b m t) (fun j =>
      if t.isS = true then (x j).sshiftRight ((y j).toNat % t.width) else x j >>> ((y j).toNat % t.width)) ∧
    lanes (.vaddx d a b m t) (fun j => x j + z) ∧ lanes (.vsubx d a b m t) (fun j => x j - z) ∧ lanes (.vmulx d a b m t) (fun j => x j * z) ∧
    lanes (.vminx d a b m t) (fun j => if lnum t (x j) ≤ lnum t z then x j else z) ∧
    lanes (.vmaxx d a b m t) (fun j => if lnum t (x j) ≤ lnum t z then z else x j)

/-- R250, R253, R254, R256 and R270 for floating lanes: the exact result of the lane's formula, rounded once; VABS and VNEG change the sign bit alone.
Of the special functions (VDIV, VRCP, VSQRT, VRSQRT, VEXP2, VLOG2, VSIN, VCOS and VTANH) the lane structure alone is stated: each active lane takes
the model's function of its input, whose values between R257's special ones are the model's choice (assumption log 3). -/
def Obligations.VectorFloats : Prop :=
  ∀ (s : State) (d a b : Reg) (m : KReg) (t : VT), Alone s → t.isF = true →
    let x (j : Nat) := vlane t s.task.v[a] j
    let o (j : Nat) := lval t (vlane t s.task.v[d] j)
    let p (j : Nat) := lval t (x j)
    let fmt := vtFmt t
    let lanes (i : Instr) (f : Nat → BitVec t.width × Flags) : Prop := ByLanes s i d t m f
    let bits (r : Nat × Flags) : BitVec t.width × Flags := (BitVec.ofNat t.width r.1, r.2)
    let two (i₁ i₂ i₃ i₄ i₅ i₆ : Instr) (q : Nat → FVal) : Prop :=
      lanes i₁ (fun j => lround t (fadd (p j) (q j))) ∧ lanes i₂ (fun j => lround t (fsub (p j) (q j))) ∧
      lanes i₃ (fun j => lround t (fmul (p j) (q j))) ∧ lanes i₄ (fun j => lround t (ffma (p j) (q j) (o j))) ∧
      lanes i₅ (fun j => lround t (fmin (p j) (q j), 0)) ∧ lanes i₆ (fun j => lround t (fmax (p j) (q j), 0))
    two (.vadd d a b m t) (.vsub d a b m t) (.vmul d a b m t) (.vfma d a b m t) (.vmin d a b m t) (.vmax d a b m t)
      (fun j => lval t (vlane t s.task.v[b] j)) ∧
    two (.vaddx d a b m t) (.vsubx d a b m t) (.vmulx d a b m t) (.vfmax d a b m t) (.vminx d a b m t) (.vmaxx d a b m t)
      (fun _ => lval t (BitVec.ofNat t.width (s.rx b).toNat)) ∧
    lanes (.vfms d a b m t) (fun j => lround t (ffma (fneg (p j)) (lval t (vlane t s.task.v[b] j)) (o j))) ∧
    lanes (.vabs d a m t) (fun j => (if (p j).isNan then BitVec.ofNat t.width fmt.nan else x j &&& ~~~(BitVec.ofNat t.width (2 ^ (t.width - 1))), 0)) ∧
    lanes (.vneg d a m t) (fun j => (if (p j).isNan then BitVec.ofNat t.width fmt.nan else x j ^^^ BitVec.ofNat t.width (2 ^ (t.width - 1)), 0)) ∧
    lanes (.vdiv d a b m t) (fun j => bits (fdiv fmt (p j) (lval t (vlane t s.task.v[b] j)))) ∧
    lanes (.vrcp d a m t) (fun j => bits (fdiv fmt (fofInt 1) (p j))) ∧
    lanes (.vsqrt d a m t) (fun j => bits (fsqrt fmt (p j))) ∧ lanes (.vrsqrt d a m t) (fun j => bits (frsqrt fmt (p j))) ∧
    lanes (.vexp2 d a m t) (fun j => bits (fexp2 fmt t.width (x j).toNat (p j))) ∧
    lanes (.vlog2 d a m t) (fun j => bits (flog2 fmt t.width (x j).toNat (p j))) ∧
    lanes (.vsin d a m t) (fun j => bits (fsin fmt t.width (x j).toNat (p j))) ∧
    lanes (.vcos d a m t) (fun j => bits (fcos fmt t.width (x j).toNat (p j))) ∧
    lanes (.vtanh d a m t) (fun j => bits (ftanh fmt t.width (x j).toNat (p j)))

/-- R257: the results and flags of the special functions on zeros, infinities, values below zero and NaNs. -/
def Obligations.SpecialInputs : Prop :=
  ∀ (f : FFmt) (neg : Bool) (m w bits : Nat) (e : Int), f ∈ [fmtF32, fmtF16, fmtBF16] → 0 < m →
    let zero (n : Bool) : Nat := fpack f n 0
    let inf (n : Bool) : Nat := fpack f n (f.inf.getD 0)
    let one (n : Bool) : Nat := fpack f n (f.bias * 2 ^ f.mbits)
    let z (n : Bool) : FVal := .fin n 0 e
    let x (n : Bool) : FVal := .fin n m e
    (fdiv f (x neg) (z false) = (inf neg, flagDZ) ∧ fdiv f (x neg) (z true) = (inf (!neg), flagDZ) ∧
      fdiv f (z neg) (z false) = (f.nan, flagNV) ∧ fdiv f (.inf neg) (.inf false) = (f.nan, flagNV) ∧
      fdiv f (fofInt 1) (.inf neg) = (zero neg, 0) ∧ fdiv f .nan (x neg) = (f.nan, 0) ∧ fdiv f (x neg) .nan = (f.nan, 0)) ∧
    (fsqrt f (z neg) = (zero neg, 0) ∧ fsqrt f (x true) = (f.nan, flagNV) ∧ fsqrt f (.inf true) = (f.nan, flagNV) ∧
      fsqrt f (.inf false) = (inf false, 0) ∧ fsqrt f .nan = (f.nan, 0)) ∧
    (frsqrt f (z neg) = (inf neg, flagDZ) ∧ frsqrt f (x true) = (f.nan, flagNV) ∧ frsqrt f (.inf true) = (f.nan, flagNV) ∧
      frsqrt f (.inf false) = (zero false, 0) ∧ frsqrt f .nan = (f.nan, 0)) ∧
    (fexp2 f w bits (.inf true) = (zero false, 0) ∧ fexp2 f w bits (.inf false) = (inf false, 0) ∧
      fexp2 f w bits (z neg) = (one false, 0) ∧ fexp2 f w bits .nan = (f.nan, 0)) ∧
    (flog2 f w bits (z neg) = (inf true, flagDZ) ∧ flog2 f w bits (x true) = (f.nan, flagNV) ∧
      flog2 f w bits (.inf true) = (f.nan, flagNV) ∧ flog2 f w bits (.inf false) = (inf false, 0) ∧ flog2 f w bits .nan = (f.nan, 0)) ∧
    (fsin f w bits (z neg) = (zero neg, 0) ∧ fcos f w bits (z neg) = (one false, 0) ∧ fsin f w bits (.inf neg) = (f.nan, flagNV) ∧
      fcos f w bits (.inf neg) = (f.nan, flagNV) ∧ fsin f w bits .nan = (f.nan, 0) ∧ fcos f w bits .nan = (f.nan, 0)) ∧
    (ftanh f w bits (z neg) = (zero neg, 0) ∧ ftanh f w bits (.inf neg) = (one neg, 0) ∧ ftanh f w bits .nan = (f.nan, 0))

/-- R130, R258, R259, R268 and R269: compares write a whole mask register; VSEL picks lanes by a mask; the mask operations and KMOV; permutes and moves of lanes. -/
def Obligations.MasksComparesAndMoves : Prop :=
  (∀ (s : State) (d a b : Reg) (kd ka kb m : KReg) (t : VT), Alone s →
     let x (j : Nat) := vlane t s.task.v[a] j
     let y (j : Nat) := vlane t s.task.v[b] j
     let k (i : Instr) (v : Word) : Prop := exec i s = .next (done s fun c => c.wk kd v)
     let cmp (i : Instr) (holds : Nat → Prop) : Prop := ∃ v : Word, k i v ∧
       ∀ j : Nat, v.getLsbD j = true ↔ j < t.lanes ∧ (s.task.rk m).getLsbD j = true ∧ holds j
     (t.isI = true →
       cmp (.vcmpeq kd a b m t) (fun j => x j = y j) ∧ cmp (.vcmpne kd a b m t) (fun j => x j ≠ y j) ∧
       cmp (.vcmplt kd a b m t) (fun j => lnum t (x j) < lnum t (y j)) ∧ cmp (.vcmple kd a b m t) (fun j => lnum t (x j) ≤ lnum t (y j))) ∧
     (t.isF = true →
       let eq (j : Nat) : Prop := feq (lval t (x j)) (lval t (y j)) = true
       let lt (j : Nat) : Prop := flt (lval t (x j)) (lval t (y j)) = true
       cmp (.vcmpeq kd a b m t) eq ∧ cmp (.vcmpne kd a b m t) (fun j => ¬ eq j) ∧ cmp (.vcmplt kd a b m t) lt ∧
       cmp (.vcmple kd a b m t) (fun j => lt j ∨ eq j)) ∧
     (∃ r : Vec, exec (.vsel d a b m t) s = .next (done s fun c => c.wv d r) ∧
       ∀ j : Nat, j < t.lanes → vlane t r j = if (s.task.rk m).getLsbD j = true then x j else y j) ∧
     k (.kand kd ka kb) (s.task.rk ka &&& s.task.rk kb) ∧ k (.kor kd ka kb) (s.task.rk ka ||| s.task.rk kb) ∧
     k (.kxor kd ka kb) (s.task.rk ka ^^^ s.task.rk kb) ∧ k (.knot kd ka) (~~~(s.task.rk ka)) ∧ k (.kmov kd ka) (s.task.rk ka) ∧
     k (.kmovFromX kd a) (s.rx a) ∧ WritesX s (.kmovToX d ka) d (s.task.rk ka)) ∧
  (∀ (s : State) (d a b : Reg) (m : KReg) (t : VT), Alone s →
     let x (j : Nat) := vlane t s.task.v[a] j
     let y (j : Nat) := vlane t s.task.v[b] j
     let n := t.lanes
     let w := t.width
     let lanes (i : Instr) (f : Nat → BitVec t.width) : Prop := ByLanes s i d t m fun j => (f j, 0)
     let pair (i : Instr) (f g : Nat → BitVec t.width) : Prop := ∃ r u : Vec,
       exec i s = .next (done s fun k => (k.wv d r).wv (Fin.ofNat 32 (d.val + 1)) u) ∧
       ∀ j : Nat, j < n → vlane t r j = f j ∧ vlane t u j = g j
     lanes (.vperm d a b m t) (fun j => x ((y j).toNat % n)) ∧
     lanes (.vbcast d a m t) (fun _ => BitVec.ofNat w (s.rx a).toNat) ∧
     lanes (.vslide d a b m t) (fun j =>
       let k : Int := (j : Int) + (s.rx b).toInt
       if 0 ≤ k ∧ k < n then x k.toNat else 0) ∧
     pair (.vzip d a b t) (fun j => if j % 2 = 0 then x (j / 2) else y (j / 2))
       (fun j => if j % 2 = 0 then x (n / 2 + j / 2) else y (n / 2 + j / 2)) ∧
     pair (.vunzip d a b t) (fun j => if j < n / 2 then x (2 * j) else y (2 * (j - n / 2)))
       (fun j => if j < n / 2 then x (2 * j + 1) else y (2 * (j - n / 2) + 1)) ∧
     WritesX s (.vmovx d a b t) d
       (if t.isS = true then (x ((s.rx b).toNat % n)).signExtend 64 else (x ((s.rx b).toNat % n)).setWidth 64) ∧
     (∃ r : Vec, exec (.vmovv d a b t) s = .next (done s fun k => k.wv d r) ∧
       ∀ j : Nat, j < n → vlane t r j = if j = (s.rx b).toNat % n then BitVec.ofNat w (s.rx a).toNat else vlane t s.task.v[d] j))

/-- R239, R243 to R245 and R260 to R264: the elements that VCVT converts and its zeros; the residues of EF. That a conversion to an
integer that saturates raises NV and NX together (assumption log 5), and which part of its operands a conversion under EF takes (log 50), are the model's choices. -/
def Obligations.Conversions : Prop :=
  ∀ (s : State) (d a : Reg) (mode : RMode) (part : Fin 4) (q : QReg) (t src : VT), Alone s →
    let n := min src.lanes t.lanes
    let first := if t.lanes < src.lanes then part.val * t.lanes else 0
    let enc (r : RMode) (v : FVal) := elemEnc s.task.dta s.task.dtb (vtCode t) r v
    let dec (u : VT) (x : Nat) := elemVal s.task.dta s.task.dtb (vtCode u) x
    let writes (i : Instr) (res : Task → Task) (f : Nat → Nat × Flags) : Prop := ∃ (r : Vec) (fl : Flags),
      exec i s = .next (done s fun k => ((res k).wv d r).orFlags fl) ∧
      (∀ j : Nat, j < t.lanes → vlane t r j = if j < n then BitVec.ofNat t.width (f j).1 else 0) ∧
      ∀ b : Nat, fl.getLsbD b = true ↔ ∃ j : Nat, j < n ∧ (f j).2.getLsbD b = true
    (first + n ≤ src.lanes →
      let x (j : Nat) := vlane src s.task.v[a] (first + j)
      (t = src → writes (.vcvt d a mode part t src) id fun j => ((x j).toNat, 0)) ∧
      (t ≠ src → t.isI = true → src.isI = true → writes (.vcvt d a mode part t src) id fun j =>
        let lo : Int := if t.isS = true then -2 ^ (t.width - 1) else 0
        let hi : Int := if t.isS = true then 2 ^ (t.width - 1) - 1 else 2 ^ t.width - 1
        let v := lnum src (x j)
        ((BitVec.ofInt t.width (max lo (min hi v))).toNat, if v < lo ∨ hi < v then flagNV ||| flagNX else 0)) ∧
      (t ≠ src → ¬ (t.isI = true ∧ src.isI = true) → writes (.vcvt d a mode part t src) id fun j => enc mode (dec src (x j).toNat))) ∧
    (src.isF = true → first + n ≤ src.lanes →
      let x (j : Nat) := fdecode (vtFmt src) (vlane src s.task.v[a] (first + j)).toNat
      let reg (j : Nat) : QReg := if j < 16 then q else q + 1
      let res (j : Nat) : Nat := (s.task.q[reg j].extractLsb' (32 * (j % 16)) 32).toNat
      let sum (j : Nat) := frne fmtF32 (fadd (x j) (fdecode fmtF32 (res j)))
      let sv (j : Nat) := fdecode fmtF32 (sum j).1
      let y (j : Nat) := enc .rne (sv j)
      let yv (j : Nat) := dec t (y j).1
      let left (j : Nat) : Nat := if (sv j).isFin = true ∧ (yv j).isFin = true then (frne fmtF32 (fsub (sv j) (yv j))).1 else 0
      n ≤ 32 → (16 < n → q.val % 2 = 0) →
      ∃ qs : Vector Vec 8, writes (.vcvtEf d a q part t src) (fun k => { k with q := qs })
          (fun j => ((y j).1, (sum j).2 ||| (y j).2)) ∧
        (∀ j : Nat, j < n → (qs[reg j].extractLsb' (32 * (j % 16)) 32).toNat = left j) ∧
        ∀ (r : QReg) (j : Nat), j < 16 → (r ≠ q ∨ n ≤ j) → (r ≠ q + 1 ∨ n ≤ 16 + j) →
          qs[r].extractLsb' (32 * j) 32 = s.task.q[r].extractLsb' (32 * j) 32)

/-- R249, R266 and R267: reductions combine the active lanes in the fixed tree, scans from left to right, and COMPACT packs the active lanes. -/
def Obligations.ReductionsAndScans : Prop :=
  ∀ (s : State) (d a : Reg) (m : KReg) (t : VT), Alone s →
    let x (j : Nat) := vlane t s.task.v[a] j
    let on (j : Nat) : Bool := (s.task.rk m).getLsbD j
    let n := t.lanes
    let first (i : Instr) (v : BitVec t.width) : Prop := ∃ (r : Vec) (fl : Flags), exec i s = .next (done s fun k => (k.wv d r).orFlags fl) ∧
      (t.isI = true → fl = 0) ∧ ∀ j : Nat, j < n → vlane t r j = if j = 0 then v else 0
    (t.isI = true →
      let active := (List.range n).filter on
      let lo : Int := if t.isS = true then -2 ^ (t.width - 1) else 0
      let hi : Int := if t.isS = true then 2 ^ (t.width - 1) - 1 else 2 ^ t.width - 1
      first (.vredsum d a m t) (BitVec.ofInt t.width (active.map fun j => lnum t (x j)).sum) ∧
      first (.vredmin d a m t) (BitVec.ofInt t.width (active.foldl (fun r j => min r (lnum t (x j))) hi)) ∧
      first (.vredmax d a m t) (BitVec.ofInt t.width (active.foldl (fun r j => max r (lnum t (x j))) lo))) ∧
    (t.isF = true → ∀ node : Nat → Nat → FVal, ∀ (i : Instr) (unit : FVal) (op : FVal → FVal → FVal),
      (i, unit, op) ∈ [(.vredsum d a m t, fzero true, fun p q => fdecode fmtF32 (frne fmtF32 (fadd p q)).1),
        (.vredmin d a m t, .inf false, fmin), (.vredmax d a m t, .inf true, fmax)] →
      (∀ j : Nat, node 0 j = if on j = true then lval t (x j) else unit) →
      (∀ l j : Nat, node (l + 1) j = op (node l (2 * j)) (node l (2 * j + 1))) →
      first i (lround t (node (Nat.log2 n) 0, 0)).1) ∧
    (∀ excl : Bool, let i : Instr := if excl then .vscanExcl d a m t else .vscanIncl d a m t
      let scans (v : Nat → BitVec t.width) : Prop := ∃ (r : Vec) (fl : Flags), exec i s = .next (done s fun k => (k.wv d r).orFlags fl) ∧
        (t.isI = true → fl = 0) ∧ ∀ j : Nat, j < n → vlane t r j = if on j = true then v j else vlane t s.task.v[d] j
      (t.isI = true → scans fun j =>
        BitVec.ofInt t.width (((List.range (if excl then j else j + 1)).filter on).map fun l => lnum t (x l)).sum) ∧
      (t.isF = true → ∀ sum : Nat → FVal, sum 0 = fzero true →
        (∀ j : Nat, sum (j + 1) = if on j = true then fdecode fmtF32 (frne fmtF32 (fadd (sum j) (lval t (x j)))).1 else sum j) →
        scans fun j => (lround t (sum (if excl then j else j + 1), 0)).1)) ∧
    (let active := (List.range n).filter on
     ∃ r : Vec, exec (.vscanCompact d a m t) s = .next (done s fun k => k.wv d r) ∧
       ∀ j : Nat, j < n → vlane t r j = if h : j < active.length then x active[j] else 0)

/-- R230, R231, R243 and R246: a value that a format holds converts to its own code under every mode, with no flag. -/
def Obligations.HeldValuesConvertExactly : Prop :=
  ∀ (f : FFmt) (mode : RMode) (c : Nat), f ∈ [fmtF32, fmtF16, fmtBF16, fmtH19, fmtE4M3, fmtE5M2, fmtE2M1] →
    c < 2 ^ (1 + f.ebits + f.mbits) → (fdecode f c).isNan = false → fround f mode (fdecode f c) = (c, 0)

/-! ## Strata -/

/-- R22, R69, R70, R73 to R81, R84 and R88: a strata instruction that names a key: owning it, storing a state, closing it, and a load that resolves,
refuses, upcalls or waits, at a key that is owned or not, and the least of a cycle of waiting writers (R85). Stated where the key's home has the
lines of its slot and no event of this cycle has come before (R72). The loads that a store covers resolve anew, and those that wait at the home of a key that closes end. The key's slot in
memory holds the control line and the states. That a key is kept as structured data beside its slot's bytes (assumption log 39), the order of the checks of a strata access (log 97), that an event
which comes late in a cycle waits (log 1), and that an access waits for the lines of the slot (log 7) are the model's choices. -/
def Obligations.TimedStrata : Prop :=
  ∀ (s : State) (v a t st : Reg) (key : KeyId) (r : Region) (k : Key), Alone s → s.task.determinate = false →
    s.keyAt key = some (r, k) → r.released = false → k.st ≠ .retiring →
    s.homeLate r key.k s.core.id.lid = false → s.slotLacks r key.k = none → s.slotUe r key.k = false →
    let me := s.core.id.lid
    let p := s.rx a
    let time := (s.rx t).toNat
    let addr := r.keyAddr key.k
    let with_ (rs : Map Region) (m : Map Byte) : State :=
      { s with regions := rs, mem := m, homed := mapPut (r.homeOf key.k).lid (s.now, me) s.homed }
    let rekeyed (f : Key → Key) (rs : Map Region) : Prop :=
      (∀ j : KeyId, ((with_ rs s.mem).keyAt j).map (·.2) = if j = key then some (f k) else (s.keyAt j).map (·.2)) ∧
      ∀ rid : Nat, (mapFind rid rs).map (fun q => { q with keys := [] }) = (mapFind rid s.regions).map fun q => { q with keys := [] }
    let completes (i : Instr) (g : Task → Task) : Prop := ∃ rs : Map Region, exec i s = .next (done (with_ rs s.mem) g) ∧ rekeyed (fun q => q) rs
    let next := if k.count = 0 then 0 else (k.newest + 1) % r.retain
    let payload : Vec := BitVec.ofNat 512 ((s.rv v).toNat % 2 ^ (8 * r.payload))
    let stored (q : Key) : Key := { q with newest := next, count := min (k.count + 1) r.retain, recs := mapPut next (time, payload) k.recs }
    let state (q : Key) : Nat := match q.st with | .open_ => 0 | .closed => 1 | .retiring => 2
    let owner (q : Key) : Nat × Nat := match q.owner with | .none => (0, 0) | .core lid => (1, lid) | .stream port n => (2, 256 * port + n)
    let control (q : Key) : Nat := state q * 2 ^ 62 + (owner q).1 * 2 ^ 60 + q.count % 32 * 2 ^ 55 + q.newest % 16 * 2 ^ 51
      + (owner q).2 % 65536 * 2 ^ 32 + r.tenant % 256 * 2 ^ 24
    let lined (q : Key) : Map Byte := match s.slotPhys r key.k with
      | none => s.mem
      | some (pkg, x) => memStore s.mem (memKey pkg x) (bytesOf (control q) 8)
    let recorded (m : Map Byte) : Map Byte := match s.slotPhys r key.k with
      | none => m
      | some (pkg, x) => memStore (memStore m (memKey pkg (x + (64 + 8 * next))) (bytesOf time 8))
          (memKey pkg (x + (64 + (8 * r.retain + 63) / 64 * 64 + next * r.payload))) (bytesOf payload.toNat r.payload)
    (∀ c : Cause, strataKey s p = .cause c → Raises s (.town a) c ∧ Raises s (.stt v a t) c ∧ Raises s (.tclose a) c ∧
      Raises s (.ldt v a t st) c ∧ Raises s (.ldtn v a t st) c) ∧
    (strataKey s p = .ok key →
      (k.owner = .core me → completes (.town a) id) ∧
      (k.owner = .none → k.st = .open_ → ∃ rs : Map Region, rekeyed (fun q => { q with owner := .core me }) rs ∧
        exec (.town a) s = .next (done (with_ rs (lined { k with owner := .core me })) id)) ∧
      (k.owner ≠ .core me → (k.owner ≠ .none ∨ k.st = .closed) → Raises s (.town a) (protect 4 p)) ∧
      (k.owner ≠ .core me → Raises s (.stt v a t) (protect 4 p) ∧ Raises s (.tclose a) (protect 4 p)) ∧
      (k.owner = .core me → k.st = .closed → Raises s (.stt v a t) (strataCause .strataOrder 1 addr) ∧ completes (.tclose a) id) ∧
      (k.owner = .core me → k.st = .open_ →
        (∀ h : Nat × Vec, (k.states r.retain).getLast? = some h → time ≤ h.1 → Raises s (.stt v a t) (strataCause .strataOrder 0 addr)) ∧
        ((∀ h : Nat × Vec, (k.states r.retain).getLast? = some h → h.1 < time) → ∃ rs : Map Region, rekeyed stored rs ∧
          exec (.stt v a t) s = .next (adv (onCores reResolve
            (((s.waitRecs key).filter fun w => w.inTable && decide (w.t ≤ time + r.extrap)).map (·.who)) (with_ rs (recorded (lined (stored k))))))) ∧
        (∃ rs : Map Region, rekeyed (fun q => { q with st := .closed }) rs ∧
          exec (.tclose a) s = .next (adv (onCores (endLoad .strataAhead 1 addr) (((s.waitRecs key).filter (·.inTable)).map (·.who))
            (with_ rs (lined { k with st := .closed }))))))) ∧
    (strataKey s p = .ok key →
      let gets (status : Nat) (x : Vec) (u : Task) : Task := (u.wv v x).wx st (BitVec.ofNat 64 status)
      (∀ (status : Nat) (x : Vec), r.resolve k time false = .value status x → completes (.ldt v a t st) (gets status x)) ∧
      (∀ (status : Nat) (x : Vec), r.resolve k time true = .value status x → completes (.ldtn v a t st) (gets status x)) ∧
      (∀ status : Nat, r.resolve k time true = .refuse status →
        completes (.ldtn v a t st) fun u => u.wx st (BitVec.ofNat 64 status)) ∧
      (∀ (code : CauseCode) (sub : Nat), r.resolve k time false = .upcall code sub → Raises s (.ldt v a t st) (strataCause code sub addr)) ∧
      (∀ (code : CauseCode) (sub : Nat), r.resolve k time true = .upcall code sub → Raises s (.ldtn v a t st) (strataCause code sub addr)) ∧
      (r.resolve k time false = .waits →
        let full := decide (1024 ≤ s.tableSize (r.homeOf key.k))
        let waits (sent : List Msg) : Prop := exec (.ldt v a t st) s = .next { with_ s.regions s.mem with
          net := s.net ++ sent
          core := { s.core with task := { s.task with wait := .strata key time v st (!full) (if full then 64 else 0) s.now } } }
        let owns (q : KeyId) : KeyOwner := ((s.keyAt q).map (·.2.owner)).getD .none
        let record (w : Nat) : Option WaitRec := (s.findCore { tenant := s.core.id.tenant, lid := w }).bind Core.waitRec
        ∀ (ms : List WaitRec) (z : WaitRec), ms.length ≤ 8 → ms.head? = some { who := s.core.id, key := key, t := time, inTable := false } →
          ms.getLast? = some z →
          (∀ (l m : List WaitRec) (x y : WaitRec), ms = l ++ x :: y :: m → ∃ w : Nat, w ≠ me ∧ owns x.key = .core w ∧ record w = some y) →
          -- the writers wait for one another, up to a key that no waiting core owns, or for more than eight hops
          ((∀ w : Nat, owns z.key = .core w → w ≠ me ∧ (record w = none ∨ ms.length = 8)) → waits []) ∧
          -- they close a cycle, whose least member is released
          (∀ m : WaitRec, owns z.key = .core me → leastRec ms = some m →
            (m ∈ ms ∧ ∀ x ∈ ms, m.t ≤ x.t ∧ (m.t = x.t → m.who.lid ≤ x.who.lid)) ∧
            (m.who ≠ s.core.id → waits [Msg.release m.who m.key m.t]) ∧
            (m.who = s.core.id → k.count = 0 → exec (.ldt v a t st) s = .next (raise (strataCause .strataAhead 3 addr) (with_ s.regions s.mem))) ∧
            (m.who = s.core.id → k.count ≠ 0 → completes (.ldt v a t st) (gets 3 (r.extend k time)))))) ∧
    (∀ (u : Nat) (ldtn : Bool), let xs := k.states r.retain
      (xs = [] → r.resolve k u ldtn =
        if k.st = .open_ then (if ldtn then .refuse 4 else .waits) else if ldtn then .refuse 5 else .upcall .strataAhead 1) ∧
      (∀ o h : Nat × Vec, xs.Pairwise (fun x y => x.1 < y.1) → xs.head? = some o → xs.getLast? = some h →
        (u < o.1 → r.resolve k u ldtn = .upcall .strataBehind 0) ∧
        (∀ x : Nat × Vec, x ∈ xs → x.1 = u → r.resolve k u ldtn = .value 0 x.2) ∧
        (∀ (l m : List (Nat × Vec)) (x y : Nat × Vec), xs = l ++ x :: y :: m → x.1 < u → u < y.1 →
          r.resolve k u ldtn = .value 1 (match r.mode with
            | .hold => x.2
            | .nearest => if u - x.1 ≤ y.1 - u then x.2 else y.2
            | .linear => r.blend u x y)) ∧
        (h.1 < u → u ≤ h.1 + r.extrap → r.resolve k u ldtn = .value 2 (r.extend k u)) ∧
        (h.1 + r.extrap < u → k.st = .open_ → u ≤ h.1 + r.reach → r.resolve k u ldtn = if ldtn then .refuse 4 else .waits) ∧
        (h.1 + r.extrap < u → k.st = .open_ → h.1 + r.reach < u → r.resolve k u ldtn = .upcall .strataAhead 0)))

/-! ## The matrix engine -/

/-- R99, R104 to R106, R275, R276, R280, R322 and R412: geometry registers, slot claims, accumulator rows and capabilities of a compute core; what waits
and what raises MATRIX_HAZARD, SLOT_BUSY or SHAPE. -/
def Obligations.MatrixRegisters : Prop :=
  ∀ (s : State) (a b d v : Reg) (n : R16) (c : Fin 8), Alone s → s.task.determinate = false →
    let xa := (s.rx a).toNat
    let xb := (s.rx b).toNat
    let gets (i : Instr) (f : Task → Task) : Prop := exec i s = .next (done s f)
    let stalls (i : Instr) : Prop := exec i s = .next { s with core := { s.core with task := { s.task with wait := .stall } } }
    let stamped (i : Instr) (f : Task → Task) : Prop := ∃ m : Map PhaseStamp, (∀ row : Nat, mapFind row m = mapFind row s.task.accStamp) ∧
      exec i s = .next (done s fun t => { f t with accStamp := m })
    let shape : Cause := { code := .shape }
    let busy (sub : Nat) : Cause := { code := .slotBusy, sub := sub }
    (s.core.kind ≠ .compute → ∀ i : Instr, i ∈ [Instr.mgw a n, .mgr d n, .mclaim a, .mrel a, .mmac a b c, .mcommit, .mwaitb a, .mread a v c,
      .mwrite a v c, .mzero a b, .mcapw a b c, .mcmdMmac a b, .mcmdCommit a b, .mcmdZero a b] → Raises s i (protect 6)) ∧
    (s.core.kind = .compute →
      ((∀ m : MStep, m ∈ s.task.steps → m.started = false → m.g ≠ n.val / 2) → gets (.mgw a n) fun t => { t with mg := t.mg.set n.val (s.rx a) }) ∧
      ((∃ m : MStep, m ∈ s.task.steps ∧ m.started = false ∧ m.g = n.val / 2) → stalls (.mgw a n)) ∧
      WritesX s (.mgr d n) d s.task.mg[n] ∧
      (256 ≤ xa → Raises s (.mclaim a) (busy 3) ∧ Raises s (.mrel a) (busy 3)) ∧
      (xa < 256 →
        let claim (x : Bool) (t : Task) : Task :=
          { t with slots := Vector.ofFn fun i : Fin 8 => if xa.testBit i.val = true then { t.slots[i] with claimed := x } else t.slots[i] }
        ((∀ i : Fin 8, xa.testBit i.val = true → s.task.slots[i].claimed = false) → gets (.mclaim a) (claim true)) ∧
        ((∃ i : Fin 8, xa.testBit i.val = true ∧ s.task.slots[i].claimed = true) → Raises s (.mclaim a) (busy 2)) ∧
        ((∃ i : Fin 8, xa.testBit i.val = true ∧ s.task.slots[i].claimed = false) → Raises s (.mrel a) (busy 1)) ∧
        ((∀ i : Fin 8, xa.testBit i.val = true → s.task.slots[i].claimed = true) →
          let used (i : Nat) : Prop := (∃ m : MStep, m ∈ s.task.steps ∧ m.done = false ∧ (m.a = i ∨ (m.b = i ∧ 0 < m.cols))) ∨
            (∃ g : Guest, g ∈ s.task.guests ∧ g.slot = i) ∨ ∃ q : Copy, q ∈ s.task.copies ∧ q.kind = .cpin ∧ q.slot = i
          ((∀ i : Fin 8, xa.testBit i.val = true → ¬ used i) → gets (.mrel a) (claim false)) ∧
          ((∃ i : Fin 8, xa.testBit i.val = true ∧ used i) → stalls (.mrel a)))) ∧
      (s.task.batches ≤ xa → Raises s (.mwaitb a) { code := .matrixHazard }) ∧
      (xa < s.task.batches →
        let open_ : Prop := ∃ (m : MStep) (j : Nat), m ∈ s.task.steps ∧ m.batch = some j ∧ j ≤ xa
        (¬ open_ → gets (.mwaitb a) fun t => t) ∧ (open_ → stalls (.mwaitb a))) ∧
      (128 ≤ xa → Raises s (.mread a v c) shape ∧ Raises s (.mwrite a v c) shape) ∧
      (xb = 0 ∨ 128 < xa + xb → Raises s (.mzero a b) shape) ∧
      (xa < 128 →
        (s.task.cover xa 1 = .open_ → Raises s (.mread a v c) { code := .matrixHazard }) ∧
        (s.task.cover xa 1 = .committed → stalls (.mread a v c)) ∧
        (s.task.cover xa 1 ≠ .none → Raises s (.mwrite a v c) { code := .matrixHazard }) ∧
        (s.task.cover xa 1 = .none →
          (xa * 8 + c.val ∉ s.task.accBad → ∃ r : Vec, stamped (.mread a v c) (fun t => t.wv v r) ∧
            ∀ j : Nat, j < 16 → r.extractLsb' (32 * j) 32 = s.task.accAt xa (16 * c.val + j)) ∧
          (xa * 8 + c.val ∈ s.task.accBad → Raises s (.mread a v c) { code := .memUe }) ∧
          ∃ m : Map (BitVec 32), stamped (.mwrite a v c) (fun t => { t with acc := m, accBad := t.accBad.filter fun u => u != xa * 8 + c.val }) ∧
            ∀ row col : Nat, col < 128 → mapGet 0 m (row * 128 + col) =
              if row = xa ∧ 16 * c.val ≤ col ∧ col < 16 * c.val + 16 then (s.rv v).extractLsb' (32 * (col - 16 * c.val)) 32
              else s.task.accAt row col)) ∧
      (0 < xb → xa + xb ≤ 128 →
        (s.task.cover xa xb ≠ .none → Raises s (.mzero a b) { code := .matrixHazard }) ∧
        (s.task.cover xa xb = .none → ∃ m : Map (BitVec 32), stamped (.mzero a b) (fun t => { t with
            acc := m, accBad := t.accBad.filter fun u => !(decide (xa * 8 ≤ u) && decide (u < (xa + xb) * 8)) }) ∧
          ∀ row col : Nat, col < 128 → mapGet 0 m (row * 128 + col) = if xa ≤ row ∧ row < xa + xb then 0 else s.task.accAt row col)) ∧
      (xa < 2 ^ 48 → xb < 65536 → gets (.mcapw a b c) fun t => { t with caps := t.caps.set c.val { token := xa, sender := xb } }) ∧
      (2 ^ 48 ≤ xa ∨ 65536 ≤ xb → Raises s (.mcapw a b c) shape))

/-- R98 to R103, R247, R279 and R281: an MMAC joins the queue of every participant; a step at the heads of their queues starts once its slots are
filled; a completed step has added its groups to each element; MCOMMIT makes a batch; MCMD sends a command, which the routers discard, or the target's
capability table admits or refuses. Local issues and remote commands that both wait take turns (R282; which comes first is the model's choice, assumption log 56). Of two bench steps of one
cycle the lower leader's comes first (R300). That a step which has read an error brings MEM_UE late is the model's choice (assumption log 99). -/
def Obligations.MatrixSteps : Prop :=
  ∀ (s : State) (a b : Reg) (g : Fin 8), Alone s → s.core.kind = .compute →
    let xa := (s.rx a).toNat
    let xb := (s.rx b).toNat
    let me := s.core.id
    let g0 := s.task.mg[2 * g.val]
    let g1 := s.task.mg[2 * g.val + 1]
    let q := geoOf g0 g1
    let size (code rows cols : Nat) (slot : Nat) : Prop := operandFits code (rows * cols) q.k (s.task.slot slot).block = true
    let remote := s.remoteWaits s.core
    let turn : Prop := remote = false ∨ s.task.mnext = true
    (8 ≤ xa ∨ 8 ≤ xb → Raises s (.mmac a b g) { code := .shape }) ∧
    (xa < 8 → xb < 8 → q.bench = false → s.task.determinate = false →
      (geoOk g0 g1 = false ∨ ¬ size q.af q.m q.k xa ∨ ¬ size q.bf q.k q.n xb → Raises s (.mmac a b g) { code := .shape }) ∧
      (geoOk g0 g1 = true → size q.af q.m q.k xa → size q.bf q.k q.n xb →
        ((s.task.slot xa).claimed = false ∨ (s.task.slot xb).claimed = false → Raises s (.mmac a b g) { code := .slotBusy, sub := 1 }) ∧
        ((s.task.slot xa).claimed = true → (s.task.slot xb).claimed = true → s.task.mroom = false ∨ ¬ turn → s.task.mlocal = false →
          (remote = false ∨ s.task.malt = false →
            exec (.mmac a b g) s = .next { s with core := { s.core with task := { s.task with mlocal := true, mnext := true, malt := false, wait := .stall } } }) ∧
          (remote = true → s.task.malt = true →
            exec (.mmac a b g) s = .next { s with core := { s.core with task := { s.task with mlocal := true, wait := .stall } } })) ∧
        ((s.task.slot xa).claimed = true → (s.task.slot xb).claimed = true → s.task.mroom = true → turn →
          let new : MStep := { seq := s.task.mseq, a := xa, b := xb, g := g.val, geo := g0, fmt := g1, cols := q.n, parts := [], batch := none, started := false, done := false, flags := 0 }
          ∃ m : Map PhaseStamp, (∀ row : Nat, mapFind row m = mapFind row s.task.accStamp) ∧ exec (.mmac a b g) s = .next (done s fun t =>
            { t with accStamp := m, mseq := t.mseq + 1, steps := t.steps ++ [new], mlocal := false, mnext := false, malt := remote })))) ∧
    (∀ m : MStep, xa < 8 → xb < 8 → q.bench = true → s.task.determinate = false → benchStep s xa xb g = .ok m → s.stepLate = false → stepRoom m s = true → turn →
      s.Keyed → (m.others s).Nodup → me ∉ m.others s →
      ∃ t : State, exec (.mmac a b g) s = .next t ∧ t.mem = s.mem ∧
        t.task.steps = s.task.steps ++ [{ m with seq := s.task.mseq }] ∧ t.task.pc = (past s.task).pc ∧
        (t.benchAt s.bench).steplast = some (s.now, benchPos s.wl me.lid) ∧
        ∀ (c : CoreId) (k : Core), c ∈ m.others s → s.findCore c = some k → ∃ k' : Core, t.findCore c = some k' ∧
          k'.task.guests = k.task.guests ++ [{ leader := me.lid, step := s.task.mseq, seq := k.task.mseq, slot := m.b, row0 := m.shape.row0, rows := m.shape.m }]) ∧
    (∀ m : MStep, xa < 8 → xb < 8 → q.bench = true → s.task.determinate = false → benchStep s xa xb g = .ok m → s.stepLate = true →
      exec (.mmac a b g) s = .next { s with core := { s.core with task := { s.task with wait := .stall } } }) ∧
    (∀ m : MStep, s.headStep = some m →
      let sees (f : MStep → MStep) (ms : List MStep) : List MStep := ms.map fun x => if x.seq = m.seq then f x else x
      (m.started = false → stepAtHead m s = true → stepFilled m s = true → exec (.stepStart me) s =
        .next { s with core := { s.core with task := { s.task with steps := sees (fun x => { x with started := true }) s.task.steps } } }) ∧
      (m.started = false → exec (.stepCompletion me) s = .next s) ∧
      (m.started = true → m.parts = [] → m.shape.col0 + m.cols ≤ 128 →
        let el (i j : Nat) := stepElement s.task m.shape (s.task.slot m.a) (s.task.slot m.b) m.cols i j
          (s.task.accAt (m.shape.row0 + i) (m.shape.col0 + j))
        let spoilt : Prop := (s.task.slot m.a).bad ≠ [] ∨ (0 < m.cols ∧ ((s.task.slot m.b).bad ≠ [] ∨
          ∃ u ∈ s.task.accBad, m.shape.row0 * 8 ≤ u ∧ u < (m.shape.row0 + m.shape.m) * 8))
        ∃ (ac : Map (BitVec 32)) (fl : Flags) (late : List Cause),
          (spoilt → late = [{ code := .memUe, async := true }]) ∧ (¬ spoilt → late = []) ∧
          let t : Task := { s.task with acc := ac, asyncs := s.task.asyncs ++ late, steps := sees (fun x => { x with done := true, flags := fl }) s.task.steps }
          exec (.stepCompletion me) s = .next { s with core := { s.core with task := t.settleBatches } } ∧
          (∀ row col : Nat, col < 128 → mapGet 0 ac (row * 128 + col) =
            if m.shape.row0 ≤ row ∧ row < m.shape.row0 + m.shape.m ∧ m.shape.col0 ≤ col ∧ col < m.shape.col0 + m.cols then
              (el (row - m.shape.row0) (col - m.shape.col0)).1
            else s.task.accAt row col) ∧
          ∀ bit : Nat, fl.getLsbD bit = true ↔ ∃ i j : Nat, i < m.shape.m ∧ j < m.cols ∧ (el i j).2.getLsbD bit = true)) ∧
    (∃ t : Task, exec .mcommit s = .next (done s fun _ => t) ∧ t.batches = s.task.batches + 1 ∧ t.acc = s.task.acc ∧ t.x = s.task.x ∧
      ∀ m : MStep, m ∈ s.task.steps → m.batch = none → m.done = false → { m with batch := some s.task.batches } ∈ t.steps) ∧
    (∀ (i : Instr) (kind : Nat) (mask : Word), (i, kind, mask) ∈ [(Instr.mcmdMmac a b, 0, (0x1FF : Word)), (.mcmdCommit a b, 1, 0x1F), (.mcmdZero a b, 2, 0xFF7F)] →
      let target : CoreId := { tenant := me.tenant, lid := xa % 65536 }
      (s.rx b &&& ~~~mask ≠ 0 → Raises s i { code := .shape }) ∧
      (s.rx b &&& ~~~mask = 0 → s.task.replay = [] → s.storesWait = false → ∃ sent : Bool,
        exec i s = .next { s with
          net := s.net ++ [Msg.mcmd me target (xa / 65536) kind xb], core := { s.core with task := { s.task with wait := .remote, sent := sent } } } ∧
        (sent = true ↔ s.task.sent = true ∨ ∃ k : Core, s.findCore target = some k ∧ k.id ≠ me ∧ ∃ u ∈ k.task :: k.saved, u.launch = s.task.launch))) ∧
    (∀ (n : Nat) (who target : CoreId) (cap kind operand : Nat) (k : Core), s.net[n]? = some (.mcmd who target cap kind operand) → s.Keyed →
      s.findCore who = some k → k.task.wait = .remote → k.task.rep.running = false → k.task.gang = 0 →
      (s.findCore target = none →
        exec (.remoteCommand n) s = .next (onCore who (raise { code := .capability, party := target.lid }) { s with net := s.net.eraseIdx n })) ∧
      (target = me → who ≠ me → Tenancy.holdsRouter (s.tenant who.tenant) s.core.place = false →
        exec (.remoteCommand n) s = .next (onCore who (raise (protect 7)) { s with net := s.net.eraseIdx n })) ∧
      (target = me → who ≠ me → Tenancy.holdsRouter (s.tenant who.tenant) s.core.place = true → s.task.st = .running → s.task.capable cap who.lid = false →
        exec (.remoteCommand n) s = .next (onCore who (raise { code := .capability, party := target.lid }) { s with net := s.net.eraseIdx n })) ∧
      (target = me → who ≠ me → Tenancy.holdsRouter (s.tenant who.tenant) s.core.place = true → s.task.st = .running →
        s.task.capable cap who.lid = true → s.task.mroom = true → s.task.mnext = false →
        (∀ x : Nat × Nat, s.task.mlast = some x → x.1 < s.now) → kind = 1 → (∀ d : Reg, s.task.wait ≠ .term d) →
        ∃ t : State, exec (.remoteCommand n) s = .next t ∧ t.net = s.net.eraseIdx n ∧ t.mem = s.mem ∧ t.task.batches = s.task.batches + 1 ∧
          t.task.pc = s.task.pc ∧ (t.findCore who).map (·.task) = some (past k.task)))

/-! ## Engines -/

/-- R95, R100, R274 and R283 to R288: shape records are written, sealed and loaded; CPIN and CPOUT queue a copy of the record and box of their issue; a copy
ends with its bytes moved and its counter raised, or with an asynchronous cause, and one that waits for a page goes on once it is there. Where the conditions of SHAPE and of SLOT_BUSY hold at once, SHAPE comes first, origins are
signed, and an empty box is a box: the model's choice (assumption log 102). -/
def Obligations.ShapesAndCopies : Prop :=
  ∀ (s : State) (a b : Reg) (int : Bool) (n : R16), Alone s →
    let me := s.core.id
    let p := s.rx a
    let xb := (s.rx b).toNat
    let shape : Cause := { code := .shape, engine := 1 }
    let gets (i : Instr) (f : Task → Task) : Prop := exec i s = .next (done s f)
    (∀ h : xb < 8, gets (.shw a b n) fun t => { t with sh := t.sh.set n.val { d := t.sh[n].d.set xb p h, sealed := false } }) ∧
    (8 ≤ xb → Raises s (.shw a b n) shape) ∧
    (s.task.sh[n].ok = true → gets (.shseal n) fun t => { t with sh := t.sh.set n.val { t.sh[n] with sealed := true } }) ∧
    (s.task.sh[n].ok = false → Raises s (.shseal n) shape) ∧
    (∀ c : Cause, loadRecord p 64 s = .cause c → Raises s (.shld a n) c) ∧
    (∀ (u : State) (bs : List Byte), loadRecord p 64 s = .ok (u, bs) →
      let r : ShapeRec := { d := Vector.ofFn fun i => BitVec.ofNat 64 (leOf ((bs.drop (8 * i.val)).take 8)), sealed := true }
      (r.ok = true → (pSpace p ≠ 2 → CachesOnly s u) ∧ exec (.shld a n) s = .next (done u fun t => { t with sh := t.sh.set n.val r })) ∧
      (r.ok = false → Raises s (.shld a n) shape)) ∧
    (∀ (extra : Nat) (r : ShapeRec) (o e : List Word), boxOf s a int n extra = .ok (r, o, e) →
      r = s.task.sh[n] ∧ r.sealed = true ∧ a.val + 2 * r.rank + extra ≤ 32 ∧
      o = ((List.range r.rank).map fun (i : Nat) => s.rx (Fin.ofNat 32 (a.val + i))) ∧
      e = ((List.range r.rank).map fun (i : Nat) => s.rx (Fin.ofNat 32 (a.val + r.rank + i)))) ∧
    (s.core.kind ≠ .compute → Raises s (.cpin a b int n) { code := .protect, sub := 6, engine := 1 }) ∧
    (s.core.kind = .compute → ∀ c : Cause, boxOf s a int n 0 = .cause c → Raises s (.cpin a b int n) c) ∧
    (s.core.kind = .compute → ∀ (r : ShapeRec) (o e : List Word), boxOf s a int n 0 = .ok (r, o, e) →
      let i : Fin 8 := Fin.ofNat 8 xb
      let ctr := xb / 256 % 16
      (xb ≠ ctr * 256 + i.val ∨ slotFits r (boxUnits r o e) = false → Raises s (.cpin a b int n) shape) ∧
      (xb = ctr * 256 + i.val → slotFits r (boxUnits r o e) = true →
        (s.task.slots[i].claimed = false → Raises s (.cpin a b int n) { code := .slotBusy, sub := 1, engine := 1 }) ∧
        (s.task.slots[i].claimed = true → s.task.slotInUse i.val = true → Raises s (.cpin a b int n) { code := .slotBusy, sub := 0, engine := 1 }) ∧
        (s.task.slots[i].claimed = true → s.task.slotInUse i.val = false → s.task.copies.length < 16 → s.task.replay = [] → s.storesWait = false →
          let c : Copy := { seq := s.task.cseq, kind := .cpin, shape := r, origin := o, extent := e, buf := 0, slot := i.val, ctr := ctr, int := int, waiting := none, saved := false }
          gets (.cpin a b int n) fun t =>
            { t with
              copies := t.copies ++ [c], cseq := t.cseq + 1
              slots := t.slots.set i.val (if isSeam r.fmt = true then { t.slots[i] with block := r.blockN } else t.slots[i]) }))) ∧
    (∀ (put : Bool) (r : ShapeRec) (o e : List Word), boxOf s a int n 1 = .ok (r, o, e) →
      let i : Instr := if put then .cpoutPut a b int n else .cpoutGet a b int n
      let ctr := (s.rx (Fin.ofNat 32 (a.val + 2 * r.rank))).toNat
      let buf := s.rx b
      let good : Prop := ctr < 16 ∧ pSpace buf ≤ 2 ∧ pAddr buf % 16 = 0 ∧ (pFmt buf = 0 ∨ pFmt buf = r.fmt) ∧ boxUnits r o e * r.unit ≤ 131072
      (¬ good → Raises s i shape) ∧
      (good → 16 ≤ s.task.copies.length → exec i s = .next { s with core := { s.core with task := { s.task with wait := .stall } } }) ∧
      (good → s.task.copies.length < 16 → s.task.replay = [] → s.storesWait = false →
        let c : Copy := { seq := s.task.cseq, kind := if put then .put else .get, shape := r, origin := o, extent := e, buf := buf, slot := 0, ctr := ctr, int := int, waiting := none, saved := false }
        (∀ u : State, pinCopy c s = .ok u →
          ∃ t : State, exec i s = .next t ∧ t.task = past { s.task with copies := s.task.copies ++ [c], cseq := s.task.cseq + 1 } ∧ t.mem = s.mem) ∧
        -- the walk of a destination's page has to wait (R361)
        (∀ w : Wait, pinCopy c s = .wait w → ∃ t : State, exec i s = .next t ∧ t.task.copies = s.task.copies ∧ t.task.pc = s.task.pc ∧ t.mem = s.mem))) ∧
    (∀ (c : Copy) (j : Nat), Here s → s.task.copy? j = some c →
      (s.task.copyRuns c = true →
        (∀ u : State, copyMove c s = .did u none →
          ∃ t : State, exec (.copyCompletion me j) s = .next t ∧ exec (.copyFault me j) s = .next s ∧ t.mem = u.mem ∧
            t.task = Task.bump c.ctr c.int { u.task with copies := u.task.copies.filter fun d => d.seq != c.seq }) ∧
        (∀ (u : State) (f : Cause), copyMove c s = .did u (some f) →
          ∃ t : State, exec (.copyFault me j) s = .next t ∧ exec (.copyCompletion me j) s = .next s ∧ t.mem = u.mem ∧
            t.task = Task.bump c.ctr c.int { u.task with
              copies := u.task.copies.filter fun d => d.seq != c.seq
              asyncs := u.task.asyncs ++ [{ f with engine := 1, counter := c.ctr, async := true }] }) ∧
        (∀ va : Nat, copyMove c s = .page va → ∃ t : State, exec (.copyCompletion me j) s = .next t ∧
          t.task = { s.task with copies := s.task.copies.map fun d => if d.seq = j then { d with waiting := some (pageOf va) } else d } ∧
          (t.pkg s.core.place.pkg).notifs = (s.pkg s.core.place.pkg).notifs ++ [Notif.page me (pageOf va)])) ∧
      (c.kind = .cpin → isPlain c.shape.fmt = true → ∀ (u : State) (bs : List Byte) (stop : Option Cause),
        gather (some (s.copyPin c.seq)) c.shape.base (boxSources c.shape false c.coords) s = .did (u, bs) stop →
        copyMove c s = .did (u.modTask fun t => t.modSlot c.slot fun sl => { sl with
          data := memStore sl.data 0 bs, bad := sl.bad.filter fun x => !decide (x < 128 ∧ 64 * x + 64 ≤ bs.length) }) stop) ∧
      (∀ page : Nat, c.waiting = some page → c.saved = false → s.present page = true → s.core.pushes = [] → (∃ u : State, pinCopy c s = .ok u) →
        ∃ t : State, exec (.copyPageResume me j) s = .next t ∧ t.mem = s.mem ∧
          t.task = { s.task with copies := s.task.copies.map fun d => if d.seq = j then { d with waiting := none } else d }))

/-- R289, R290 and R299: CPUSH queues a push on a quarry core; its box is read once and its bytes land at each consumer that takes it, and a
consumer that does not is tried again after 64 cycles; a release frees the record with its last consumer. The order of the causes
of CPUSH is the model's choice (assumption log 63). -/
def Obligations.QuarryPushes : Prop :=
  ∀ (s : State) (a b : Reg) (int : Bool) (n : R16), Alone s → s.Keyed →
    let me := s.core.id
    let shape : Cause := { code := .shape, engine := 1 }
    let engine : Cause := { code := .protect, sub := 6, engine := 1 }
    (s.core.kind ≠ .quarry → Raises s (.cpush a b int n) engine) ∧
    (s.core.kind = .quarry → ∀ (r : ShapeRec) (o e : List Word), boxOf s a int n 0 = .ok (r, o, e) →
      let v := (s.rx b).toNat
      let p : Push :=
        { launch := s.task.launch, index := s.task.index, tag := v % 2 ^ 8, bench := v / 2 ^ 48, mask := v / 2 ^ 40 % 2 ^ 8, todo := v / 2 ^ 40 % 2 ^ 8
          toScratch := v.testBit 39, slot := v / 2 ^ 22 % 8, offset := v / 2 ^ 22 % 2 ^ 17, span := v / 2 ^ 8 % 8, ctr := v / 2 ^ 18 % 16, int := int
          shape := r, origin := o, extent := e, data := none, waiting := none, retry := [] }
      (pushOk s v r (boxUnits r o e) = false → Raises s (.cpush a b int n) shape) ∧
      (pushOk s v r (boxUnits r o e) = true →
        ((∃ q : Push, q ∈ s.core.pushes ∧ q.tag = p.tag ∧ q.bench = p.bench) → Raises s (.cpush a b int n) { code := .slotBusy, sub := 2, engine := 1 }) ∧
        ((∀ q : Push, q ∈ s.core.pushes → ¬ (q.tag = p.tag ∧ q.bench = p.bench)) → s.core.pushes.length < 16 → s.task.replay = [] → s.storesWait = false →
          exec (.cpush a b int n) s = .next { s with core := { s.core with task := past s.task, pushes := s.core.pushes ++ [p] } }))) ∧
    (s.core.kind ≠ .compute → Raises s (.cpushRelease a) engine) ∧
    (s.core.kind = .compute → ∀ (k : Core) (i : Nat) (p : Push),
      let x := (s.rx a).toNat
      let q : CoreId := { tenant := me.tenant, lid := 0xF000 + 192 * (x / 2 ^ 16) + x / 2 ^ 8 % 2 ^ 8 }
      let pos := benchPos s.wl me.lid
      (2 ^ 18 ≤ x ∨ 191 < x / 2 ^ 8 % 2 ^ 8 → Raises s (.cpushRelease a) shape) ∧
      (x < 2 ^ 18 → x / 2 ^ 8 % 2 ^ 8 ≤ 191 → s.findCore q = some k → k.pushes[i]? = some p → Drained s →
        (∀ j : Nat, j < i → ∀ o : Push, k.pushes[j]? = some o → ¬ (o.bench = s.bench.bench ∧ o.tag = x % 2 ^ 8 ∧ o.mask.testBit pos = true)) →
        p.bench = s.bench.bench → p.tag = x % 2 ^ 8 → p.mask.testBit pos = true →
        ∃ t : State, exec (.cpushRelease a) s = .next t ∧ t.task = past s.task ∧ t.mem = s.mem ∧ (t.findCore q).map (·.pushes) = some
          (if p.mask = 2 ^ pos then k.pushes.eraseIdx i else k.pushes.modify i fun p => { p with mask := p.mask - 2 ^ pos }))) ∧
    (∀ (i pos : Nat) (p : Push), s.core.pushes[i]? = some p → p.waiting = none →
      let c : CoreId := { tenant := me.tenant, lid := lidAt s.wl p.bench pos }
      let refused (p : Push) : Push := { p with retry := mapPut pos (s.now + 64) p.retry }
      let wrote (p : Push) : Push := { p with todo := p.todo - 2 ^ pos, retry := mapErase pos p.retry }
      (∀ (again : Bool) (bs : List Byte) (u : State) (k : Core), p.todo.testBit pos = true →
        let ev : Instr := if again then .pushRetry me i pos else .pushWrite me i pos
        (match mapFind pos p.retry with | none => again = false | some t => again = true ∧ t ≤ s.now) →
        (p.data = some bs ∧ u = s ∨ p.data = none ∧ pushGather p s = .did (u, bs) none) → c ≠ me → s.findCore c = some k →
        let pushes (f : Push → Push) : List Push := s.core.pushes.modify i fun p => f { p with data := some bs }
        let late : Prop := p.toScratch = true ∧ ∃ x : Nat × Nat, k.task.xlast = some x ∧ x.1 = s.now ∧ me.lid < x.2
        (late → ∃ t : State, exec ev s = .next t ∧ t.mem = s.mem ∧ t.task = s.task ∧ t.core.pushes = pushes id ∧ t.findCore c = s.findCore c) ∧
        (¬ late → k.task.takesPush p = true → ∃ t : State, exec ev s = .next t ∧ t.mem = s.mem ∧ t.task = s.task ∧ t.core.pushes = pushes wrote ∧
          (t.findCore c).map (·.task) = some (Task.land s.now me.lid p bs k.task)) ∧
        (¬ late → k.task.takesPush p = false → ∃ t : State, exec ev s = .next t ∧ t.mem = s.mem ∧ t.task = s.task ∧ t.core.pushes = pushes refused ∧
          t.findCore c = s.findCore c)) ∧
      (∀ (f : Cause) (r : State × List Byte), p.data = none → pushGather p s = .did r (some f) → p.launch = s.task.launch → p.index = s.task.index →
        exec (.pushReadFault me i) s = .next { s with core := { s.core with
          pushes := s.core.pushes.eraseIdx i
          task := { s.task with asyncs := s.task.asyncs ++ [{ f with engine := 1, counter := p.ctr, async := true }] } } }))

/-- R291, R293 to R296, R299, R303 to R305, R322 and R339: CHSUB queues a command and CHPOLL reads its state; the contexts of a chisel have turns, in
which a command goes on, parks at an absent page, or ends and writes its status; XSCHED arms a phase, XSEND sends its next entry in its slot, its lines
leave one in a cycle with the bytes that they then have, and a line lands in the receive area and raises the counter after the last.
What CHPOLL answers of another core's context (assumption log 78), the place of a command's status (log 62) and that the benches of one place share a
chisel (log 81) are the model's choice. -/
def Obligations.ChiselAndExchange : Prop :=
  ∀ (s : State) (a b d : Reg) (int : Bool) (k : R16), Alone s →
    let me := s.core.id
    let xphase (x : XPhase) (s : State) : State := { s with core := { s.core with task := { s.task with xphase := some x } } }
    (s.core.kind ≠ .compute →
      (∀ i : Instr, i ∈ [Instr.chsub d b int k, .chpoll d b] → Raises s i { code := .protect, sub := 6, engine := 2 }) ∧
      (∀ i : Instr, i ∈ [Instr.xsched a b k, .xsend a b] → Raises s i { code := .protect, sub := 6, engine := 3 })) ∧
    (s.core.kind = .compute →
      (s.task.determinate = false →
        let p := s.rx b
        let x := (s.rx b).toNat
        (2 ≤ pSpace p ∨ pAddr p % 64 ≠ 0 → Raises s (.chsub d b int k) { code := .shape, engine := 2 }) ∧
        let late : Prop := ∃ y : Nat × Nat, (s.benchAt (s.chiselBench s.bench)).sublast = some y ∧ y.1 = s.now ∧ benchPos s.wl me.lid < y.2
        (pSpace p < 2 → pAddr p % 64 = 0 → late → exec (.chsub d b int k) s = .next { s with core := { s.core with task := { s.task with wait := .stall } } }) ∧
        (pSpace p < 2 → pAddr p % 64 = 0 → ¬ late →
          ((∀ i : Fin 16, (s.ctx s.bench i).isSome = true) → WritesX s (.chsub d b int k) d (BitVec.allOnes 64)) ∧
          (∀ (i : Fin 16) (u : State) (bs : List Byte), (∀ j : Fin 16, j < i → (s.ctx s.bench j).isSome = true) → s.ctx s.bench i = none →
            s.task.replay = [] → s.storesWait = false → loadRecord p 64 s = .ok (u, bs) →
            let c : ChCtx :=
              { who := me, launch := s.task.launch, index := s.task.index, st := .queued, cmd := Vector.ofFn fun j => BitVec.ofNat 64 (leOf ((bs.drop (8 * j.val)).take 8))
                at_ := p, ctr := k.val, int := int, page := none }
            ∃ t : State, exec (.chsub d b int k) s = .next t ∧
              CachesOnly (((done s fun t => t.wx d (BitVec.ofNat 64 i.val)).modCtx s.bench i (some c)).modBench (s.chiselBench s.bench) fun k =>
                { k with sublast := some (s.now, benchPos s.wl me.lid) }) t)) ∧
        (16 ≤ x → Raises s (.chpoll d b) { code := .shape, engine := 2 }) ∧
        (∀ h : x < 16,
          (∀ c : ChCtx, s.ctx s.bench ⟨x, h⟩ = some c → c.who = me → WritesX s (.chpoll d b) d
            (match c.st with | .queued => 1 | .running => 2 | .parked => 3)) ∧
          ((∀ c : ChCtx, s.ctx s.bench ⟨x, h⟩ = some c → c.who ≠ me) → WritesX s (.chpoll d b) d 0))) ∧
      (∀ (n : Fin 32) (u w : State) (head bs : List Byte) (x : XPhase), xLine s (s.rx b) = .ok n → pSpace (s.rx a) < 2 → pAddr (s.rx a) % 64 = 0 →
        (∀ y : XPhase, s.task.xphase = some y → y.entries = [] ∧ y.over s.now = true) → loadRecord (s.rx a) 16 s = .ok (u, head) → leOf (head.take 8) ≤ 256 →
        loadRecord (s.rx a) (16 + 8 * leOf (head.take 8)) u = .ok (w, bs) →
        let grid := (s.tenant me.tenant).wl * (s.tenant me.tenant).hl
        (xTable n.val k.val grid bs = none → Raises s (.xsched a b k) { code := .shape, engine := 3 }) ∧
        (xTable n.val k.val grid bs = some x → ∃ t : State, exec (.xsched a b k) s = .next t ∧ CachesOnly (done s fun t => { t with xphase := some x }) t)) ∧
      (∀ (n : Fin 32) (y : XPhase), xLine s (s.rx b) = .ok n → pSpace (s.rx a) < 2 → pAddr (s.rx a) % 64 = 0 → s.task.xphase = some y →
        (y.entries ≠ [] ∨ y.over s.now = false) → Raises s (.xsched a b k) { code := .slotBusy, engine := 3 }) ∧
      ((∀ x : XPhase, s.task.xphase = some x → x.entries = []) → Raises s (.xsend a b) { code := .slotLate, sub := 2, engine := 3 }) ∧
      (∀ (x : XPhase) (e : XEntry) (rest : List XEntry) (z : Nat), s.task.xphase = some x → x.entries = e :: rest →
        let dst := (s.rx b).toNat
        let sent (src : Word) (off : Nat) : State := xphase { x with
          entries := rest, pending := none, leaving := some (z + e.o + 16 + e.lines - 1)
          out := some { src := src, off := off, dest := e.dest, first := z + e.o + 16, lines := e.lines, next := 0, good := true } } s
        (dst / 2 ^ 32 % 2 ^ 16 ≠ e.dest → Raises s (.xsend a b) { code := .slotLate, sub := 1, engine := 3 }) ∧
        (dst / 2 ^ 32 % 2 ^ 16 = e.dest → x.zero = some z →
          (z + e.o + 15 < s.now → Raises s (.xsend a b) { code := .slotLate, sub := 0, engine := 3 }) ∧
          (s.now ≤ z + e.o + 15 → ptrOk (s.rx a) = false → Raises s (.xsend a b) { code := .protect, addr := s.rx a, engine := 3 }) ∧
          (s.now ≤ z + e.o + 15 → ptrOk (s.rx a) = true → xsendOk e (s.rx a) (s.rx b) = false → Raises s (.xsend a b) { code := .shape, engine := 3 }) ∧
          (s.now ≤ z + e.o + 15 → ptrOk (s.rx a) = true → xsendOk e (s.rx a) (s.rx b) = true →
            (z + e.o ≤ s.now → exec (.xsend a b) s = .next (done (sent (s.rx a) (dst % 2 ^ 17)) fun t => t)) ∧
            (s.now < z + e.o → ∃ t : State, exec (.xsend a b) s = .next t ∧ t.net = s.net ∧
              t.task = { s.task with wait := .slot, xphase := some { x with pending := some (s.rx a, dst % 2 ^ 17) } }))) ∧
        (∀ (src : Word) (off : Nat), x.pending = some (src, off) → x.zero = some z → z + e.o ≤ s.now → s.now ≤ z + e.o + 15 →
          (s.task.rep.wait ≠ .slot → exec (.exchangeSlotOpen me) s = .next (done (sent src off) fun t => t)) ∧
          -- an XSEND of the repetition body waits: the body goes on, and the scalar instruction does not
          (s.task.rep.wait = .slot → s.task.inBody = false → exec (.exchangeSlotOpen me) s = .next { sent src off with
            core := { (sent src off).core with task := { (sent src off).task with rep := { s.task.rep.advance with wait := .none } } } })) ∧
        (x.zero = some z → (z + x.lastCycle < s.now → exec (.exchangePhaseEnd me) s = .next (xphase { x with passed := true } s)) ∧
          (s.now ≤ z + x.lastCycle → exec (.exchangePhaseEnd me) s = .next s))) ∧
      (∀ (x : XPhase) (o : XOut) (n : Nat), s.task.xphase = some x → x.out = some o → s.others = [] → s.task.scratchBad = [] →
        (s.pkg s.core.place.pkg).runs = true →
        let left := min o.lines (s.now + n + 1 - o.first)
        (tick n s).net = s.net ++ (List.range (left - o.next)).map fun (j : Nat) =>
          Msg.xline me { tenant := me.tenant, lid := o.dest } (o.off + 64 * (o.next + j))
            (spRead s.task (pSpan o.src) (pAddr o.src + 64 * (o.next + j)) 64) (o.lines - 1 - (o.next + j)) o.good)) ∧
    (∀ (k : Bench) (i : Fin 16) (c : ChCtx), k.chisel[i] = some c → c.st ≠ .parked → (∀ j : Fin 16, j ≠ i → k.chisel[j] = none) → k.turnOf = some i) ∧
    (∀ (b : BenchId) (i : Fin 16) (c : ChCtx), Here s → s.ctx b i = some c → c.who = me → c.launch = s.task.launch → c.index = s.task.index →
      let cb := s.chiselBench b
      let turn : Prop := (s.benchAt cb).turnOf = some i
      let s1 : State := s.modBench cb fun k => { k with served := i.val }
      let put (u : State) (c : ChCtx) : State := u.modCtx cb i (some c)
      (c.st = .parked ∨ ¬ turn → exec (.chiselCompletion b i.val) s = .next s) ∧
      (c.st = .queued → turn → exec (.chiselCompletion b i.val) s = .next (put s1 { c with st := .running })) ∧
      (c.st = .running → turn →
        (∀ (u : State) (n : Nat) (g : Flags), chPerform c s1 = .more u n g →
          exec (.chiselCompletion b i.val) s = .next (put (unwant me u) { c with step := n, flags := g })) ∧
        (∀ (u : State) (n va : Nat) (g : Flags), chPerform c s1 = .page u n g va →
          exec (.chiselCompletion b i.val) s = .next (askPage (pageOf va) (put u { c with step := n, flags := g, st := .parked, page := some (pageOf va) }))) ∧
        ∀ (u w : State) (e : ChEnd), chPerform c s1 = .ended u e →
          chWrite c.at_ ((pAddr c.at_ + 56 : Nat) : Int) (bytesOf (e.result % 256 + e.flags.toNat * 256 + e.cause % 256 * 65536 + e.index % 2 ^ 40 * 2 ^ 24) 8)
            (unwant me u) = .ok w →
          exec (.chiselCompletion b i.val) s = .next (((unwant me w).modCtx cb i none).modTask (Task.bump c.ctr c.int))) ∧
      ((chRec c.cmd).ok = false → chPerform c s = .ended s { result := 1, cause := 0, flags := 0, index := 0 }) ∧
      (∀ page : Nat, c.page = some page → s.present page = true →
        exec (.chiselPageResume b i.val) s = .next (s.modCtx b i (some { c with st := .running, page := none })))) ∧
    (∀ (n : Nat) (who : CoreId) (off left : Nat) (bs : List Byte) (good : Bool) (x : XPhase), s.net[n]? = some (.xline who me off bs left good) →
      (∀ m : Msg, m ∈ s.net.take n → ∀ (o : CoreId) (f l : Nat) (q : List Byte) (g : Bool), m ≠ .xline who o f q l g) →
      s.task.st = .running → s.task.xphase = some x → x.areaOff ≤ off → off + 64 ≤ x.areaOff + x.areaLen → s.task.scratchBad = [] →
      Tenancy.holdsRouter (s.tenant who.tenant) s.core.place = true → (∀ y : Nat × Nat, s.task.xlast = some y → y.1 < s.now) →
      let t : Task := { s.task with scratch := spWrite 0 off bs s.task.scratch, xlast := some (s.now, who.lid) }
      exec (.exchangeLine n) s = .next { s with
        net := s.net.eraseIdx n, core := { s.core with task := if left = 0 ∧ good = true then t.bump x.ctr false else t } })

/-! ## Launches and tasks -/

/-- R44 to R46, R54, R55 and R298: KICK answers 0 to 4 and queues a replay, CANCEL reaches the level that it names, and WAITL reads the completion word of a
level that has ended or waits for it. Of the KICKs and CANCELs of a graph in one cycle the service takes those of lower cores first, so one that comes late waits for a
later cycle. During a switchover of the service the three wait, and are then served in their order (R411). That the cause of an access to the patch table is the KICK's
(assumption log 65), what a late one does (log 1), and the order of what waited for the service (log 101) are the model's choices. -/
def Obligations.KickCancelWait : Prop :=
  ∀ (s : State) (a b d : Reg), Alone s →
    let h := s.rx a
    let tenant := s.core.id.tenant
    let refuse : Cause := { code := .protect, sub := 6, engine := 4 }
    let late (g : Graph) : Prop := ∃ i : Nat, g.last = some (s.now, i) ∧ s.core.id.lid < i
    let noted (g : Graph) : Graph := { g with last := some (s.now, s.core.id.lid) }
    let stalls (i : Instr) : Prop := exec i s = .next { s with core := { s.core with task := { s.task with wait := .stall } } }
    (Drained s → Answering s →
      (s.graphOf tenant h = none → WritesX s (.kick a b) a 3) ∧
      (∀ (gn : Nat) (g : Graph), s.graphOf tenant h = some (gn, g) → late g → stalls (.kick a b)) ∧
      (∀ (gn : Nat) (g : Graph) (u : State), s.graphOf tenant h = some (gn, g) → ¬ late g →
        let answers (code : Word) : Prop := ∃ t : State, exec (.kick a b) s = .next t ∧
          CachesOnly (done { s with graphs := mapPut gn (noted g) s.graphs } fun t => t.wx a code) t
        (∀ c : Cause, patchTable loadRecord (s.rx b) s = .cause c → Raises s (.kick a b) c) ∧
        (patchTable loadRecord (s.rx b) s = .ok (u, none) → answers 2) ∧
        (∀ ps : List (Nat × Word), patchTable loadRecord (s.rx b) s = .ok (u, some ps) →
          (patchesOk g.areaSize ps = false → answers 2) ∧
          (patchesOk g.areaSize ps = true → openPhase s gn g = none → answers 4) ∧
          (∀ (pn : Nat) (p : Phase), patchesOk g.areaSize ps = true → openPhase s gn g = some pn → mapFind pn s.phases = some p →
            (16 ≤ g.kicks.length → s.task.determinate = false → answers 1) ∧
            (16 ≤ g.kicks.length → s.task.determinate = true → stalls (.kick a b)) ∧
            (g.kicks.length < 16 → ∃ t : State, exec (.kick a b) s = .next t ∧ t.task = past (s.task.wx a 0) ∧ t.mem = s.mem ∧
              mapFind gn t.graphs = some { noted g with kicks := g.kicks ++ [{ seq := g.accepted, phase := pn, patches := ps }], accepted := g.accepted + 1 } ∧
              mapFind pn t.phases = some { p with pending := p.pending + 1 }))))) ∧
    (handleTenant h ≠ tenant → Raises s (.cancel a) refuse) ∧
    (handleTenant h = tenant → Answering s →
      (∀ g : Graph, levelOf h = .graph → mapFind (handleNum h) s.graphs = some g →
        (late g → stalls (.cancel a)) ∧
        (∀ (j : Job) (pn : Nat) (p : Phase), ¬ late g → g.tenant = tenant → bitsAt h.toNat 56 6 = 0 → g.running = none → (∀ k ∈ g.kicks, k.phase = pn) →
          mapFind g.job s.jobs = some j → j.ended = false → j.cancelled = false → j.phases = [pn] → mapFind pn s.phases = some p → p.ended = false →
          p.closed = false → ∃ t : State, exec (.cancel a) s = .next t ∧ t.mem = s.mem ∧ mapFind (handleNum h) t.graphs = some { noted g with kicks := [] } ∧
            mapFind pn t.phases = some { p with started := true, pending := p.pending - g.kicks.length })) ∧
      (levelOf h ≠ .graph ∨ mapFind (handleNum h) s.graphs = none → s.hasLevel h = false → exec (.cancel a) s = .next (done s fun t => t)) ∧
      (∀ (l : Launch) (g : GrantRec), s.hasLevel h = true → levelOf h = .launch → s.launch? (handleNum h) = some l → l.st = .running → g ∈ l.grants →
        g.done = false → g.lost = false → ∃ t : State, exec (.cancel a) s = .next t ∧ t.task = past (s.task.latchLevel t) ∧ t.mem = s.mem ∧
          t.launch? (handleNum h) = some { l with st := .draining, status := max l.status 1, lostIdx := [], stopped := true })) ∧
    (handleTenant h ≠ tenant ∨ s.hasLevel h = false ∨ ownLevel h s = true → Answering s → Raises s (.waitl a d) refuse) ∧
    (handleTenant h = tenant → s.hasLevel h = true → ownLevel h s = false → s.task.wait = .none → Answering s →
      (∀ w : Word, s.levelWord h (s.accepted h) = some w → ∃ t : State, exec (.waitl a d) s = .next t ∧ CachesOnly (done s fun t => t.wx d w) t) ∧
      (s.levelWord h (s.accepted h) = none →
        exec (.waitl a d) s = .next { s with core := { s.core with task := { s.task with wait := .level h (s.accepted h) none } } })) ∧
    (∀ (n : Nat) (seen : Option Word), handleTenant h = tenant → s.hasLevel h = true → ownLevel h s = false → s.task.wait = .level h n seen →
      (s.pausedHere = true → exec (.waitl a d) s = .next s) ∧
      (∀ w : Word, s.pausedHere = false → seen = some w → ∃ t : State, exec (.waitl a d) s = .next t ∧ CachesOnly (done s fun t => t.wx d w) t)) ∧
    (∀ i : Instr, i = .cancel a ∧ handleTenant h = tenant ∨ i = .waitl a d ∧ s.task.wait.forLevel = false → s.pausedHere = true →
      (s.pkg s.core.place.pkg).held = [] → ∃ t : State, exec i s = .next t ∧ t.mem = s.mem ∧ t.task = { s.task with wait := .stall } ∧
        (t.pkg s.core.place.pkg).held = [.call s.core.id]) ∧
    (∀ l : Launch, levelOf h = .launch → s.launch? (handleNum h) = some l → ∀ n : Nat, s.levelWord h n =
      if l.st = .ended then some (BitVec.ofNat 64 (l.status % 256 * 2 ^ 48 + l.counter % 2 ^ 48)) else none)

/-- R30, R31, R37, R56, R57, R59, R63 to R65, R388, R389 and R400: an index is granted to a core and, once the deputy knows, bound to it; its task runs when
binding is complete, and its end is reported; launches age, start across packages, and are found finished by the token. Of the cores that may take a launch,
the one that became free first takes it, and of those of one cycle the lowest. A launch all of whose dies have failed ends ABORTED_PARTIAL at once. When a launch takes its lines
(assumption log 94), that one taken but not granted is QUEUED still (log 95), that an answer at the bound itself counts (log 66), and that a replay waits while a page moves and for the lines
that the service writes (log 7) are the model's choices. -/
def Obligations.Dispatching : Prop :=
  ∀ (s : State) (n : Nat) (l : Launch), s.launch? n = some l →
    let me := s.core.id
    let bound (i : Nat) (t : Task) : Prop :=
      t = boundTask s n l i me.lid ∧ t.st = .granted ∧ t.launch = n ∧ t.index = i ∧ t.pc = l.entry ∧ t.upvec = l.upvec ∧ t.uivec = l.uivec ∧ t.tile = l.coord i ∧
      t.x[1] = 0x0000FFFFFFFF0000 ∧ t.x[2] = (if l.stackSize = 0 then 0 else l.stackBase + BitVec.ofNat 64 ((me.lid - l.f + 1) * l.stackSize)) ∧
      t.x[4] = l.coord i ∧ t.x[5] = BitVec.ofNat 64 me.lid ∧ (∀ r : Reg, 6 ≤ r.val → t.x[r] = 0) ∧ t.v = Vector.replicate 32 0 ∧
      t.k = Vector.replicate 8 0 ∧ t.fstat = 0 ∧ t.cycle = 0 ∧ t.scratch = [] ∧ t.drainFrom = s.now ∧
      ∀ a : Nat × Nat, t.area = some a → a ∈ (s.tenant l.tenant).areas ∧ ∀ k ∈ s.cores, ∀ u ∈ k.task :: k.saved, u.area = some a → u.holdsArea = false
    (s.grantLevel = none ∨ s.firstFree = false → exec (.tileGrant me) s = .next s) ∧
    (s.firstFree = true ↔ ∀ k ∈ s.cores, k.id.tenant = me.tenant → k.freed < s.core.freed ∨ k.freed = s.core.freed ∧ k.id.lid < me.lid →
      (switchTo k.id s).offered = false) ∧
    (∀ lev : Nat, s.grantLevel = some lev → s.offer lev = some (n, l) → s.firstFree = true → l.st = .queued → l.taken = false →
      l.farPkgs.contains s.core.place.pkg = true → ∃ t : State, exec (.tileGrant me) s = .next t ∧ t.core = s.core ∧ t.mem = s.mem ∧
        t.net = s.net ++ l.farPkgs.map (Msg.start n) ∧ t.launch? n = some { l with taken := true, waitingPkgs := l.farPkgs, startedAt := s.time } ∧
        ∀ (b i : Nat) (kind : LineKind) (arr : Nat), b ∈ s.launchBenches l → (i, kind, arr) ∈ l.lines →
          (∀ e ∈ l.lines, e.1 % 32 = i % 32 → e = (i, kind, arr)) → (s.evLine { tenant := l.tenant, bench := b } (Fin.ofNat 32 i)).held ≠ some n →
          t.evLine { tenant := l.tenant, bench := b } (Fin.ofNat 32 i) = { kind := kind, arrivals := arr, held := some n }) ∧
    (∀ (lev i : Nat) (lost : Bool), s.grantLevel = some lev → s.offer lev = some (n, l) → s.firstFree = true → l.next = some (i, lost) →
      l.st ≠ .queued ∨ l.taken = true ∨ l.farPkgs.contains s.core.place.pkg = false →
      ∃ (t : State) (m : Launch), exec (.tileGrant me) s = .next t ∧ t.launch? n = some m ∧ t.mem = s.mem ∧
        m.nextIdx = (if lost then l.nextIdx else l.nextIdx + 1) ∧ m.lostIdx = (if lost then l.lostIdx.tail else l.lostIdx) ∧
        m.grants = (l.grants.filter fun g => g.index != i) ++ [{ index := i, lid := me.lid, rank := s.core.rank, done := false, lost := false }] ∧
        m.st = (if l.st = .queued ∨ l.st = .running then if m.nextIdx = l.gx * l.gy * l.gz then .draining else .running else l.st) ∧
        (l.deputy = none → m.pending = l.pending ∧ bound i t.task) ∧
        (l.deputy.isSome = true → m.pending = l.pending ++ [(i, me.lid)] ∧ t.task = s.task)) ∧
    (∀ (i lid : Nat) (rest : List (Nat × Nat)), l.deputy = none ∨ l.up l.deputy = true → l.keystoneUp = true → l.pending = (i, lid) :: rest → l.tenant = me.tenant → lid = me.lid →
      ∃ t : State, exec (.deputyAck n) s = .next t ∧ t.launch? n = some { l with pending := rest } ∧ bound i t.task) ∧
    (l.pending = [] → exec (.deputyAck n) s = .next s) ∧
    (s.task.st = .granted → s.now < s.task.drainFrom + 1024 → exec (.bindingComplete me) s = .next s) ∧
    (s.task.st = .granted → s.task.drainFrom + 1024 ≤ s.now → s.myTurn = true → s.fenced = false →
      ∃ t : State, exec (.bindingComplete me) s = .next t ∧ t.task = { s.task with st := .running, ran := 0, slice := 0 } ∧ t.mem = s.mem) ∧
    (s.task.st = .ended → s.task.reported = false → s.task.launch = n →
      let grants := l.grants.map fun g => if g.index = s.task.index then { g with done := true } else g
      (s.fenced = true → exec (.completionReport me) s = .next s) ∧
      (s.fenced = false → l.st = .running → ∃ t : State, exec (.completionReport me) s = .next t ∧ t.task = { s.task with reported := true } ∧
        t.launch? n = some { l with grants := grants }) ∧
      (s.fenced = false → l.st = .draining → l.lostIdx = [] → (∀ g : GrantRec, g ∈ grants → g.done = true ∨ g.lost = true) →
        (mapFind l.graph s.graphs).bind (·.running) = none → ∃ t : State, exec (.completionReport me) s = .next t ∧
          t.task = ({ s.task with reported := true } : Task).latchLevel t ∧
          t.launch? n = some { l with grants := grants, st := .ended, token := none })) ∧
    (l.st = .queued ∧ l.level < 7 ∧ l.since + 2 ^ 20 ≤ s.now → ∃ t : State, exec (.aging n) s = .next t ∧
      t.launch? n = some { l with level := l.level + 1, since := s.now, order := s.serial } ∧ t.serial = s.serial + 1 ∧ t.core = s.core ∧ t.mem = s.mem) ∧
    (¬ (l.st = .queued ∧ l.level < 7 ∧ l.since + 2 ^ 20 ≤ s.now) → exec (.aging n) s = .next s) ∧
    (∀ (gn : Nat) (g : Graph) (k : Kick) (rest : List Kick) (p : Phase), mapFind gn s.graphs = some g → g.kicks = k :: rest → mapFind k.phase s.phases = some p →
      (g.running.isSome = true ∨ p.started = false → exec (.replayStart gn) s = .next s) ∧
      (s.moving ≠ [] → exec (.replayStart gn) s = .next s) ∧
      (s.moving = [] → (∀ i : Line, s.serviceHas (s.servicePkg g.tenant) i = true) → g.running = none → p.started = true → g.nodes = [n] → l.preds = [] →
        s.serving l ≠ [] → (∀ r ∈ s.serving l, r ∈ s.failed) → ∃ (t : State) (m : Launch) (g' : Graph), exec (.replayStart gn) s = .next t ∧
        t.launch? n = some m ∧ m.st = .ended ∧ m.status = 2 ∧ mapFind gn t.graphs = some g' ∧ g'.running = none ∧ g'.counter = g.counter + 1 ∧
        g'.status = max g.status 2) ∧
      (s.moving = [] → (∀ i : Line, s.serviceHas (s.servicePkg g.tenant) i = true) → g.running = none → p.started = true → g.nodes = [n] → l.preds = [] →
        (s.serving l = [] ∨ ∃ r ∈ s.serving l, r ∉ s.failed) → ∃ (t : State) (m : Launch), exec (.replayStart gn) s = .next t ∧
        mapFind gn t.graphs = some { g with kicks := rest, running := some { k with patches := [] } } ∧ t.launch? n = some m ∧ m.st = .queued ∧
        m.level = l.prio ∧ m.since = s.now ∧ m.order = s.serial ∧ m.status = 0 ∧ m.counter = 0 ∧ m.nextIdx = 0 ∧ m.grants = [] ∧ m.stopped = false ∧
        m.finished = false ∧ m.taken = false ∧ t.core.task = s.core.task.latchLevel t)) ∧
    (∀ (j p : Nat), s.net[j]? = some (.start n p) →
      (l.healthy.any (fun q => q / 4 == p) = true → exec (.startMessage j) s = .next { s with net := s.net.eraseIdx j ++ [Msg.startAnswer n p] }) ∧
      (l.healthy.any (fun q => q / 4 == p) = false → exec (.startMessage j) s = .next { s with net := s.net.eraseIdx j })) ∧
    (∀ (j p : Nat), s.net[j]? = some (.startAnswer n p) → ∃ t : State, exec (.startAnswer j) s = .next t ∧ t.net = s.net.eraseIdx j ∧ t.core = s.core ∧
      t.launch? n = some { l with waitingPkgs := l.waitingPkgs.filter (· != p) }) ∧
    ((l.st ≠ .queued ∧ l.st ≠ .running) ∨ s.time ≤ l.startedAt + micros 50 ∨ l.waitingPkgs = [] → exec (.startTimeout n) s = .next s) ∧
    (∀ g : GrantRec, l.st = .running → l.waitingPkgs ≠ [] → l.startedAt + micros 50 < s.time → g ∈ l.grants → g.done = false → g.lost = false →
      ∃ t : State, exec (.startTimeout n) s = .next t ∧ t.core = s.core ∧
        t.launch? n = some { l with waitingPkgs := [], st := .draining, status := max l.status 2, lostIdx := [], stopped := true }) ∧
    (∀ k : TermToken, l.token = some k → l.st = .running →
      let v := termView s n l k.at_
      let next := if k.at_ + 1 < l.f + l.n then k.at_ + 1 else l.f
      (k.at_ ≠ l.f → v.idle = false → exec (.terminationToken n) s = .next s) ∧
      (k.at_ ≠ l.f → v.idle = true → v.acked = false → ∃ t : State, exec (.terminationToken n) s = .next t ∧ t.core = s.core ∧
        t.launch? n = some { l with token := some { k with at_ := next, marked := k.marked || v.sent } }) ∧
      (k.at_ = l.f → k.inRound = true → k.marked = false → k.stayed = true → v.sent = false → ∃ (t : State) (m : Launch), exec (.terminationToken n) s = .next t ∧
        t.launch? n = some m ∧ m.finished = true ∧ m.token = none) ∧
      (k.at_ = l.f → k.inRound = true → k.marked = true ∨ k.stayed = false ∨ v.sent = true → ∃ t : State, exec (.terminationToken n) s = .next t ∧ t.core = s.core ∧
        t.launch? n = some { l with token := some { k with inRound := false, marked := false } }))

/-- R34, R191, R273, R299, R360, R379, R383 to R386, R390, R391 and R401: what comes to a task between its instructions: asynchronous causes, notices of pages, the end of its turn and its
return. A task that leaves its core, SUSPENDED, PREEMPTED or FAULTED, is saved to its context area behind the trap record, at the offsets of R383, and one that comes back takes its scratchpad,
accumulators and slots from there. The order of the words within the blocks at 0x1000 and 0x6000, which R383 leaves to the firmware ABI, and which of the state a restore reads from the area
(assumption log 82), that a due cause stops issue (log 77), what a refused page does to engines (log 23), that of what waits for the service the first is taken first (log 101), and that a save
waits for the lines that it writes (log 7) are the model's choices. -/
def Obligations.TasksLeaveAndReturn : Prop :=
  ∀ (s : State), Alone s →
    let me := s.core.id
    let task (t : Task) : State := { s with core := { s.core with task := t } }
    let q := (s.tenant me.tenant).quantum
    let n := (s.tenant me.tenant).tslice
    let waiting := s.cores.any fun k => samePlace s.core k && k.wants s.now
    (∀ (c : Cause) (rest : List Cause), s.task.asyncs = c :: rest →
      (s.asyncDue = false → exec (.asyncCause me) s = .next s) ∧
      (s.asyncDue = true → (∀ d : Reg, s.task.wait ≠ .term d) → exec (.asyncCause me) s = .next (raise c (task { s.task with asyncs := rest })))) ∧
    (∀ (page tables : Nat) (leaf : Word),
      let pg := pageOf page
      (s.pausedHere = true → exec (.pageNotice me page leaf tables) s = .next s ∧ exec (.pageRefusal me page) s = .next s) ∧
      (Answering s →
        (s.wantsPage pg = false → exec (.pageNotice me page leaf tables) s = .next s ∧ exec (.pageRefusal me page) s = .next s) ∧
        (s.present pg = true → exec (.pageRefusal me page) s = .next s) ∧
        (s.task.st = .running → s.task.rep.wait = .none → s.task.requests.contains pg = true → s.task.notices.length < 16 → s.task.replay = [] → s.task.copies = [] → s.core.saved = [] →
          let wait : Wait := if s.task.wait = .notice then .none else s.task.wait
          (s.present pg = true → exec (.pageNotice me page leaf tables) s = .next (task { s.task with
            requests := s.task.requests.erase pg, notices := s.task.notices ++ [BitVec.ofNat 64 (2 ^ 63 + pg % 2 ^ 48)], wait := wait })) ∧
          (s.present pg = false → s.core.pushes = [] → (∀ i : Fin 16, s.ctx s.bench i = none) → exec (.pageRefusal me page) s = .next (task { s.task with
            requests := s.task.requests.erase pg, notices := s.task.notices ++ [BitVec.ofNat 64 (2 ^ 63 + 2 ^ 62 + pg % 2 ^ 48)], wait := wait
            asyncs := s.task.asyncs ++ [{ code := .protect, sub := 10, addr := BitVec.ofNat 64 pg }] }))))) ∧
    (q = 0 ∨ s.task.ran < q ∨ s.mayLeave = false ∨ s.asyncTraps = true → exec (.quantumExpiry me) s = .next s) ∧
    (s.task.slice < n ∨ s.mayLeave = false → exec (.tsliceExpiry me) s = .next s) ∧
    (∀ l : Launch, q ≠ 0 → q ≤ s.task.ran → s.mayLeave = true → s.asyncTraps = false → s.launch? s.task.launch = some l →
      (s.offer (l.level + 1) = none → exec (.quantumExpiry me) s = .next (task { s.task with ran := 0 })) ∧
      ((s.offer (l.level + 1)).isSome = true → s.spareFor (s.core.saved.length + 1) = false → exec (.quantumExpiry me) s = .next (task { s.task with ran := 0 })) ∧
      ((s.offer (l.level + 1)).isSome = true → s.spareFor (s.core.saved.length + 1) = true → s.task.wait = .none → s.task.rep.wait = .none → s.task.lease = none →
        exec (.quantumExpiry me) s = .next (task { s.task with fusing := 0, draining := some .preempted, drainFrom := s.time }))) ∧
    (n ≤ s.task.slice → s.mayLeave = true →
      (waiting = false → exec (.tsliceExpiry me) s = .next (task { s.task with slice := 0 })) ∧
      (waiting = true → s.task.wait = .none → s.task.rep.wait = .none → s.task.lease = none →
        exec (.tsliceExpiry me) s = .next (task { s.task with draining := some .suspended, drainFrom := s.time }))) ∧
    (s.settled = false → exec (.contextSave me) s = .next s) ∧
    (s.settled = true → (∀ l : Line, s.serviceHas s.core.place.pkg l = true) →
      (s.task.draining = some .suspended →
        let u := task { s.task with st := .suspended, draining := none }
        ∃ t : State, exec (.contextSave me) s = .next t ∧ t = { u with mem := t.mem, lines := t.lines } ∧ Saves u t) ∧
      (∀ st : TaskSt, s.task.draining = some .preempted ∧ st = .preempted ∨ s.task.draining = none ∧ s.task.st = .faulted ∧ st = .faulted → s.task.copies = [] →
        ∃ t : State, exec (.contextSave me) s = .next t ∧ t = { s with
          mem := t.mem, lines := t.lines
          core := { s.core with task := Task.empty, saved := { s.task with st := st, draining := none } :: s.core.saved, freed := s.now, vacated := st == .preempted } } ∧
        Saves s t)) ∧
    (∀ e ∈ s.task.scratch, (0x2A000 + e.1, e.2) ∈ s.task.image) ∧
    (∀ e ∈ s.task.acc, ∀ j : Nat, j < 4 → (0x1A000 + 4 * e.1 + j, BitVec.ofNat 8 (e.2.toNat / 256 ^ j)) ∈ s.task.image) ∧
    (∀ i : Fin 8, ∀ e ∈ s.task.slots[i].data, (0xA000 + 8192 * i.val + e.1, e.2) ∈ s.task.image) ∧
    (∀ (i : Fin 256) (j : Nat), j < 4 → (0x5000 + 4 * i.val + j, BitVec.ofNat 8 (s.task.dta[i].toNat / 256 ^ j)) ∈ s.blocks ∧
      (0x5400 + 4 * i.val + j, BitVec.ofNat 8 (s.task.dtb[i].toNat / 256 ^ j)) ∈ s.blocks) ∧
    (∀ e ∈ s.blocks, 0x1000 ≤ e.1 ∧ e.1 < 0x8000) ∧
    (s.time < s.task.drainFrom + micros 100 → exec (.copyDrainTimeout me) s = .next s) ∧
    (s.task.draining = some .preempted → s.task.drainFrom + micros 100 ≤ s.time → ∃ t : State, exec (.copyDrainTimeout me) s = .next t ∧ t.mem = s.mem ∧
      t.task = { s.task with copies := s.task.copies.map fun c => { c with saved := true } }) ∧
    (s.myTurn = false ∨ s.fenced = true → exec (.contextRestore me) s = .next s) ∧
    (s.myTurn = true → s.fenced = false → s.task.replay = [] → s.task.copies = [] → s.task.arrived = [] → s.task.ready = true →
      ∃ (t : State) (v : Task), exec (.contextRestore me) s = .next t ∧ t.mem = s.mem ∧ Loaded s s.task v ∧
        t.task = { v with st := .running, slice := 0, wait := (match s.task.wait with | .await _ _ => .none | w => w) }) ∧
    (∀ (u : Task) (rest : List Task), s.myTurn = true → s.fenced = false → s.task.ready = false → s.task.over = true → s.promised = false →
      s.core.saved = u :: rest → u.st = .preempted → s.noRival u = true → u.replay = [] → u.copies = [] → u.arrived = [] → u.gang = 0 →
      ∃ (t : State) (v : Task), exec (.contextRestore me) s = .next t ∧ t.mem = s.mem ∧ t.core.saved = rest ∧ Loaded s u v ∧
        t.task = { v with st := .running, ran := 0, slice := 0 })

/-- R58, R60 to R62, R354: heartbeats keep a launch's dies informed of one another, a die that hears too few acknowledgements fences itself, a die that is silent
for 10 µs in a launch has failed for that launch, and its tasks and benches are given to others; once no launch that it serves has heard of it, it has failed altogether, and the homes sweep.
How a task counts that had ended unreported on a failed die (assumption log 67), that every dispatcher of a launch declares a failure at once, and that a die answers as a holder of tokens
until it has failed for each of its launches (log 68), and that a fenced or failed die still counts in R60's number of dies (log 28) are the model's choices. -/
def Obligations.DiesThatFail : Prop :=
  ∀ (s : State) (n : Nat) (l : Launch) (pkg die : Nat) (v : DieView), s.launch? n = some l → l.live = true → l.view (dieRank pkg die) = some v → v.failed = false →
    let r := dieRank pkg die
    let peers := (l.dies.map (·.rank)).filter (· != r)
    let viewed (i : Instr) (w : DieView) (net : List Msg) : Prop := ∃ (t : State) (m : Launch), exec i s = .next t ∧ t = { s with launches := t.launches, net := net } ∧
      t.launch? n = some m ∧ m.view r = some w
    (s.time < v.beat + micros 1 ∨ v.fenced = true → exec (.heartbeatTimer n pkg die) s = .next s) ∧
    (v.beat + micros 1 ≤ s.time → v.fenced = false → viewed (.heartbeatTimer n pkg die) { v with beat := s.time }
      (s.net ++ peers.map fun q => Msg.heartbeat n r q (peers.filter fun k => recent s.time (micros 10) k v.heard))) ∧
    (∀ (j src : Nat) (heard : List Nat), s.net[j]? = some (.heartbeat n src r heard) →
      ∃ w : DieView, viewed (.heartbeat j) w (s.net.eraseIdx j ++ if v.fenced then [] else [Msg.heartbeatAck n r src]) ∧ mapFind src w.heard = some s.time ∧
        ∀ q : Nat, (q = src ∨ q ∈ heard ∧ q ≠ r → mapFind q w.seen = some s.time) ∧ (q ≠ src → q ∉ heard → mapFind q w.seen = mapFind q v.seen)) ∧
    (∀ j src : Nat, s.net[j]? = some (.heartbeatAck n src r) → viewed (.heartbeatAck j) { v with acked := mapPut src s.time v.acked } (s.net.eraseIdx j)) ∧
    (v.fenced = true ∨ l.active s.time v = true → exec (.fenceTimeout n pkg die) s = .next s) ∧
    (v.fenced = false → l.active s.time v = false → (∃ q : Nat, q ∈ l.healthy ∧ q ≠ r) → ∃ (t : State) (m : Launch), exec (.fenceTimeout n pkg die) s = .next t ∧
      t.mem = s.mem ∧ (t.pkg pkg).notifs = (s.pkg pkg).notifs ++ [Notif.health] ∧ t.launch? n = some m ∧ m.view r = some { v with fenced := true } ∧
      (s.Keyed → s.dieCores r = [s.core.id] → s.core.saved = [] → s.task.launch = n → s.task.st = .running → t.task.replay = [] ∧ t.task.copies = [] ∧ t.task.steps = [])) ∧
    (s.failed.contains r = true ∨ 4 ≤ die ∨ (∀ e ∈ s.launches, e.2.servedBy r = true → e.2.silent s.time r = false) → exec (.dieFailed pkg die) s = .next s) ∧
    (die < 4 → s.failed.contains r = false → s.launches = [(n, l)] → l.silent s.time r = true → l.st = .running → l.pending = [] → l.stopped = false →
      l.noreissue = false → ∀ d : Nat, l.deputy = some d → d ∈ l.healthy → d ≠ r → l.keystone = some r → ∃ (t : State) (m : Launch), exec (.dieFailed pkg die) s = .next t ∧
        t.mem = s.mem ∧ t.failed = s.failed ++ [r] ∧
        (∀ x : Line, x.idx < 2 ^ 46 → (s.line x).homeCount ≠ 16 → (s.line x).collecting = none →
          (t.line x).collecting = some t.holders ∧ (t.line x).gen = ((s.line x).gen + 1) % 16) ∧
        t.launch? n = some m ∧ m.st = .running ∧ m.keystone = some d ∧ m.view r = some { v with failed := true } ∧
        m.grants = (l.grants.map fun g => if g.rank = r ∧ g.done = false then { g with lost := true } else g) ∧
        ∀ i : Nat, i ∈ m.lostIdx ↔ i ∈ l.lostIdx ∨ ∃ g : GrantRec, g ∈ l.grants ∧ g.index = i ∧ g.rank = r ∧ g.done = false ∧ g.lost = false) ∧
    (die < 4 → s.failed.contains r = false → s.launches = [(n, l)] → l.silent s.time r = true → l.st = .queued → (∃ q : Nat, q ∈ l.healthy ∧ q ≠ r) →
      ∃ (t : State) (m : Launch), exec (.dieFailed pkg die) s = .next t ∧ t.mem = s.mem ∧ t.launch? n = some m ∧ m.st = .queued ∧ m.status = l.status) ∧
    (∀ (o : Nat) (k : Launch), die < 4 → s.failed.contains r = false → s.launches = [(n, l), (o, k)] → n ≠ o → k.servedBy r = true → k.silent s.time r = false →
      l.silent s.time r = true → l.st = .queued → (∃ q : Nat, q ∈ l.healthy ∧ q ≠ r) → ∃ (t : State) (m : Launch), exec (.dieFailed pkg die) s = .next t ∧
        t.mem = s.mem ∧ t.failed = s.failed ∧ t.launch? o = some k ∧ t.launch? n = some m ∧ m.st = .queued ∧ m.view r = some { v with failed := true }) ∧
    (∀ (bench : Nat) (p q : Place), mapFind bench (s.tenant l.tenant).places = some q →
      let wl := (s.tenant l.tenant).wl
      (l.determinate = false ∨ (s.failed.contains (dieRank q.pkg q.die) = false ∧ l.knowsFailed (dieRank q.pkg q.die) = false) ∨ s.paused p.pkg = true → exec (.benchReplacement n bench p) s = .next s) ∧
      (l.determinate = true → s.paused p.pkg = false → (s.failed.contains (dieRank q.pkg q.die) = true ∨ l.knowsFailed (dieRank q.pkg q.die) = true) → (∃ i : Nat, i < l.n ∧ benchOf wl (l.f + i) = bench) →
        (replaceOk s l bench p = true → ∃ (t : State) (m : Launch), exec (.benchReplacement n bench p) s = .next t ∧ t.mem = s.mem ∧
          t.launch? n = some m ∧ dieRank p.pkg p.die ∈ m.dies.map (·.rank) ∧
          ((l.dies.map (·.rank)).Pairwise (· < ·) → (m.dies.map (·.rank)).Pairwise (· < ·)) ∧ mapFind bench (t.tenant l.tenant).places = some p ∧
          (s.Keyed → 2 ≤ wl → ∀ (i : Nat) (k : Core), i < 8 → s.findCore { tenant := l.tenant, lid := lidAt wl bench i } = some k →
            t.findCore { tenant := l.tenant, lid := lidAt wl bench i } = some { k with place := Place.core p (Tenancy.seat (s.tenant l.tenant) k.id.lid), l1 := [], icache := [] })) ∧
        ((tenantBenches (s.tenant l.tenant)).any (replaceOk s l bench) = true → replaceOk s l bench p = false → exec (.benchReplacement n bench p) s = .next s) ∧
        (∀ g : GrantRec, (tenantBenches (s.tenant l.tenant)).any (replaceOk s l bench) = false → replaceOk s l bench p = false → l.st = .running → g ∈ l.grants →
          g.done = false → g.lost = false → ∃ t : State, exec (.benchReplacement n bench p) s = .next t ∧ t.core = s.core ∧ t.mem = s.mem ∧
            t.launch? n = some { l with st := .draining, status := max l.status 2, lostIdx := [], stopped := true })))

/-- R347, R349 to R352, R354, R355 and R399: tokens go where they are asked for, an attempt that fails twice becomes a persistent request, a line's arbiter has one
active at a time, and a line whose tokens are lost is collected and made anew; tokens of a holder that COLLECT has not reached are of the old generation. Number 5 of a package stands for the
memory home of a line, which asks for tokens as a die does (assumption log 7). How links are numbered, over which of the 8 external ports a line's messages go between two packages, and that a link
loses every message whose way crosses it (log 26), are the model's choices. -/
def Obligations.TokensTravel : Prop :=
  ∀ (s : State) (l : Line) (j pkg die : Nat),
    let ls := s.line l
    let me : Holder := if die = 5 then .home else .die pkg die
    let gen (x : LineState) (h : Holder) : Nat := if x.collecting.any (·.contains h) = true then (x.gen + 15) % 16 else x.gen
    let k := s.arbiterOf l
    let rest := s.net.eraseIdx j
    let ends (i : Instr) (x : LineState) (net : List Msg) : Prop := ∃ t : State, exec i s = .next t ∧ t = { s with lines := t.lines, net := net } ∧ t.line l = x
    let drops (i : Instr) (x : LineState) (net : List Msg) (h : Holder) : Prop := ∃ t : State, exec i s = .next t ∧
      t = { s with lines := t.lines, l2 := t.l2, net := net } ∧ t.line l = x ∧
      ∀ p d : Nat, h = .die p d → d < 4 → ∀ w ∈ mapGet [] t.l2 (l2Key p d l), w.line ≠ l
    let all (x : LineState) (h dst : Holder) : Msg := .tokens l h dst (x.at_ h).count (x.at_ h).owner ((x.at_ h).owner && x.dirty) (x.at_ h).owner (gen x h) (x.at_ h).stamp
    let emptied (x : LineState) (h : Holder) : LineState := x.put { x.at_ h with count := 0, owner := false, data := false, stamp := none }
    (∀ h : Holder, s.net[j]? = some (.transient l pkg die false h) → s.gone h = false → s.gone me = false →
      (s.heldFast l h = true ∨ ls.collecting.isSome = true → exec (.transientRead j) s = .next s) ∧
      (s.heldFast l h = false → ls.collecting = none →
        ((ls.at_ h).owner = false → exec (.transientRead j) s = .next { s with net := rest }) ∧
        ((ls.at_ h).owner = true → 1 < (ls.at_ h).count → ends (.transientRead j) (ls.put { ls.at_ h with count := (ls.at_ h).count - 1 })
          (rest ++ [.tokens l h me 1 false false true ls.gen (ls.at_ h).stamp])) ∧
        ((ls.at_ h).owner = true → (ls.at_ h).count = 1 → h ≠ me → drops (.transientRead j) (emptied ls h) (rest ++ [all ls h me]) h))) ∧
    (∀ h : Holder, s.net[j]? = some (.transient l pkg die true h) → s.gone h = false → s.gone me = false → s.heldFast l h = false → ls.collecting = none →
      ((ls.at_ h).count = 0 → exec (.transientWrite j) s = .next { s with net := rest }) ∧
      ((ls.at_ h).count ≠ 0 → h ≠ me → drops (.transientWrite j) (emptied ls h) (rest ++ [all ls h me]) h)) ∧
    (∀ (src h : Holder) (c g : Nat) (o y b : Bool) (st : Option PhaseStamp), s.net[j]? = some (.tokens l src h c o y b g st) →
      (s.gone h = true ∨ ls.takes h g = false → exec (.tokenMessage j) s = .next { s with net := rest }) ∧
      (s.gone h = false → ls.takes h g = true →
        (∀ r : Holder, ls.active = some r → r ≠ h → ls.told.contains h = true →
          exec (.tokenMessage j) s = .next { s with net := rest ++ [.tokens l h r c o y b g st] }) ∧
        (ls.active = none →
          (h = .home → s.attempt l.pkg 5 l = none → ends (.tokenMessage j) (ls.join h c o b st) rest) ∧
          (h = .die pkg die → s.attempt pkg die l = none → (ls.at_ h).data = false → exec (.tokenMessage j) s = .next { s with net := rest ++ [.tokens l h .home c o y b g st] }) ∧
          (∀ a : Attempt, h = me → (die = 5 → pkg = l.pkg) → s.attempt pkg die l = some a →
            (a.satisfied ((ls.join h c o b st).at_ h) = false → ends (.tokenMessage j) (ls.join h c o b st) rest) ∧
            (a.satisfied ((ls.join h c o b st).at_ h) = true → ∃ t : State, exec (.tokenMessage j) s = .next t ∧ t.line l = ls.join h c o b st ∧
              t.attempt pkg die l = none ∧ t = { s with lines := t.lines, attempts := t.attempts, net := rest }))))) ∧
    (∀ a : Attempt, s.attempt pkg die l = some a →
      (a.persistent = true ∨ s.now < a.since + 2048 → exec (.attemptTimeout pkg die l) s = .next s) ∧
      (a.persistent = false → a.since + 2048 ≤ s.now → ∃ t : State, exec (.attemptTimeout pkg die l) s = .next t ∧
        t = { s with attempts := t.attempts, net := s.net ++ if a.fails = 0 then (s.holders.filter fun h => h ≠ me).map fun h => Msg.transient l pkg die a.write h
          else [.persistent l pkg die] } ∧
        t.attempt pkg die l = some { a with fails := a.fails + 1, persistent := decide (a.fails ≠ 0), since := s.now }) ∧
      (∀ u : Nat, a.retryAt = some u →
        (s.now < u → exec (.persistentRetry pkg die l) s = .next s) ∧
        (u ≤ s.now → ∃ t : State, exec (.persistentRetry pkg die l) s = .next t ∧ t = { s with attempts := t.attempts, net := s.net ++ [.persistent l pkg die] } ∧
          t.attempt pkg die l = some { a with retryAt := none })) ∧
      (s.net[j]? = some (.persistent l pkg die) → s.gone me = false → 32 ≤ (s.arbiter k).length → ∃ t : State, exec (.persistentRequest j) s = .next t ∧
        t = { s with attempts := t.attempts, net := rest } ∧ t.attempt pkg die l = some { a with retryAt := some (s.now + 256) })) ∧
    (s.net[j]? = some (.persistent l pkg die) → s.gone me = false → s.arbiter k = [] → ls.active = none → ls.collecting = none →
      ∃ t : State, exec (.persistentRequest j) s = .next t ∧ t = { s with arbiters := t.arbiters, lines := t.lines, net := rest ++ s.holders.map fun h => Msg.active l pkg die h } ∧
        t.arbiter k = [{ pkg := pkg, die := die, line := l, came := s.now, active := true }] ∧ t.line l = { ls with active := some me, told := [] }) ∧
    (∀ h : Holder, s.net[j]? = some (.active l pkg die h) → s.gone h = false →
      let x := { ls with told := ls.told ++ [h] }
      (h ≠ me → s.heldFast l h = true → exec (.active j) s = .next s) ∧
      (h ≠ me → s.heldFast l h = false → (ls.at_ h).count ≠ 0 → drops (.active j) (emptied x h) (rest ++ [all x h me]) h) ∧
      (h = me → (ls.at_ h).count ≠ 16 → ends (.active j) x rest) ∧
      (h = me → ls.active = some me → (ls.at_ h).count = 16 → (ls.at_ h).data = true → (∀ p d : Nat, Msg.done l p d ∉ rest) →
        ends (.active j) x (rest ++ [.done l pkg die]))) ∧
    (s.net[j]? = some (.done l pkg die) →
      (rest.any (Msg.activates l) = true ∨ s.dieWaits pkg die l = true → exec (.done j) s = .next s) ∧
      (rest.any (Msg.activates l) = false → s.dieWaits pkg die l = false → exec (.done j) s = .next { s with net := rest ++ s.holders.map fun h => Msg.inactive l h })) ∧
    (∀ h : Holder, s.net[j]? = some (.inactive l h) →
      (rest.any (Msg.inactivates l) = true → ends (.inactive j) { ls with told := ls.told.erase h } rest) ∧
      (∀ r : PersReq, rest.any (Msg.inactivates l) = false → s.arbiter k = [r] → r.line = l → r.active = true → ∃ t : State, exec (.inactive j) s = .next t ∧
        t.arbiter k = [] ∧ t.line l = { ls with active := none, told := [] } ∧ t = { s with arbiters := t.arbiters, lines := t.lines, net := rest })) ∧
    (∀ link : Nat,
      (s.downLinks.contains link = true ∨ linkIs link = false → exec (.linkDown link) s = .next s) ∧
      (s.downLinks.contains link = false → linkIs link = true → ∃ t : State, exec (.linkDown link) s = .next t ∧ t = { s with downLinks := s.downLinks ++ [link], net := t.net } ∧
        ∀ (i c g : Nat) (src h : Holder) (o y b : Bool) (st : Option PhaseStamp), s.net[i]? = some (.tokens l src h c o y b g st) →
          t.net[i]? = some (if routeCrosses link l (holderNode l src) (holderNode l h) = true then .lossLog l g c o y else .tokens l src h c o y b g st))) ∧
    (∀ p q u v : Nat, p < 4 → q < 4 → u < 5 → v < 5 → p ≠ q → linkIs (extLink p q l.idx) = true ∧
      routeCrosses (extLink p q l.idx) l (dieNode p u) (dieNode q v) = true) ∧
    (∀ p i : Nat, p < 4 → i < 8 → ∃ q : Nat, q < 4 ∧ q ≠ p ∧ ∃ x : Line, extLink p q x.idx = 400 + 8 * min p q + i) ∧
    (∀ p q u v a b : Nat, p < 4 → q < 4 → u < 5 → v < 5 → p ≠ q → a ≠ b → a < 8 → b < 8 → ¬ (routeCrosses (400 + 8 * min p q + a) l (dieNode p u) (dieNode q v) = true ∧
      routeCrosses (400 + 8 * min p q + b) l (dieNode p u) (dieNode q v) = true)) ∧
    (∀ (g c : Nat) (o y : Bool), s.net[j]? = some (.lossLog l g c o y) →
      (g ≠ ls.gen → exec (.lossLogEntry j) s = .next { s with net := rest }) ∧
      (g = ls.gen → ls.collecting = none → ∃ t : State, exec (.lossLogEntry j) s = .next t ∧ t.mem = s.mem ∧ t.core = s.core ∧
        t.line l = { ls with active := none, told := [], gen := (ls.gen + 1) % 16, collecting := some s.holders, lostClean := o && !y, ownerBack := false } ∧
        ∀ h : Holder, h ∈ s.holders → Msg.collect l ((ls.gen + 1) % 16) h ∈ t.net)) ∧
    (∀ (g : Nat) (h : Holder) (hs : List Holder), s.net[j]? = some (.collect l g h) → ls.collecting = some hs →
      (g ≠ ls.gen → exec (.collect j) s = .next { s with net := rest }) ∧
      (g = ls.gen → ∃ t : State, exec (.collect j) s = .next t ∧ t = { s with lines := t.lines, l2 := t.l2, net := rest } ∧
        (∀ p d : Nat, h = .die p d → d < 4 → ∀ w ∈ mapGet [] t.l2 (l2Key p d l), w.line ≠ l) ∧ (t.line l).collecting = some (hs.erase h) ∧
        (t.line l).ownerBack = (ls.ownerBack || (ls.at_ h).owner) ∧ ((t.line l).at_ h).count = 0)) ∧
    ((∀ hs : List Holder, ls.collecting = some hs → hs ≠ []) → exec (.lineRecreation l) s = .next s) ∧
    (ls.collecting = some [] → s.arbiter k = [] → ∃ t : State, exec (.lineRecreation l) s = .next t ∧ t = { s with lines := t.lines } ∧
      t.line l = { ls with homeCount := 16, homeOwner := true, others := [], dirty := false, collecting := none, lostClean := false, ownerBack := false, poison := ls.poison || !(ls.ownerBack || ls.lostClean) })

/-- R208, R334, R341, R343, R344, R359, R364 and R365: an L1 line runs out, an access repeats its walk, a page moves in two parts, and a page that several packages read
becomes one that can be written. That a page moves in two parts, the agent asking for the lines in between (assumption log 27), how the service splits and collapses a page (log 76), that it waits for
the lines that it writes (log 7), and which of the traps that wait is handled first (log 101) are the model's choices. -/
def Obligations.PagesChange : Prop :=
  ∀ (s : State), Alone s →
    let me := s.core.id
    (∀ tag : Nat, ∃ t : State, exec (.l1LineTimeout me tag) s = .next t ∧ t = { s with core := { s.core with l1 := t.core.l1 } } ∧
      ∀ e : L1Line, (∃ x : Nat × List L1Line, x ∈ t.core.l1 ∧ e ∈ x.2) ↔
        (∃ x : Nat × List L1Line, x ∈ s.core.l1 ∧ e ∈ x.2) ∧ ¬ (e.tag = tag ∧ e.priv = true ∧ e.filled + 2048 ≤ s.now)) ∧
    (∀ since : Nat, s.core.moved = [] → s.task.wait = .mig since → s.task.rep.wait = .none →
      (since + 1024 ≤ s.now → exec (.migRewalk me) s = .next { s with core := { s.core with task := { s.task with wait := .none } } }) ∧
      (s.now < since + 1024 → exec (.migRewalk me) s = .next s)) ∧
    (∀ m : MovedOp, s.core.moved = [m] → s.task.wait = .none → s.task.rep.wait = .none →
      let left : State := { s with core := { s.core with moved := [] } }
      (s.now < m.since + 1024 → exec (.migRewalk me) s = .next s) ∧
      (∀ c : Cause, m.since + 1024 ≤ s.now → amoAt left m.op m.z m.b 0 false m.ptr = .cause c → exec (.migRewalk me) s =
        .next { s with core := { s.core with moved := [], task := { s.task with held := s.task.held ++ [{ c with async := true }] } } }) ∧
      (∀ w : Wait, m.since + 1024 ≤ s.now → amoAt left m.op m.z m.b 0 false m.ptr = .wait w → exec (.migRewalk me) s =
        .next { s with core := { s.core with moved := [{ m with since := s.now }] } }) ∧
      (∀ r : AmoDone, m.since + 1024 ≤ s.now → amoAt left m.op m.z m.b 0 false m.ptr = .ok r → r.s.core.moved = [] → r.s.task.wait = .none → r.s.task.rep.wait = .none →
        exec (.migRewalk me) s = .next r.s)) ∧
    (∀ (tenant page quarry : Nat) (word : Word) (old : LeafAt) (new : Leaf) (mig : Bool), s.leafAt (s.servicePkg tenant) (s.tenant tenant).asid page = some old →
      entryAt old.level word.toNat = .leaf new mig → new.kind ≠ .readdup → quarry < 192 →
      let stays : Prop := exec (.pageMigration tenant page word quarry) s = .next s
      let asid := (s.tenant tenant).asid
      let va := page / old.leaf.size * old.leaf.size
      let frame := (old.leaf.pkg, old.leaf.addr, old.leaf.size)
      let u := copyFrame old.leaf.pkg old.leaf.addr new.pkg new.addr old.leaf.size (dropWays old.leaf.pkg old.leaf.addr old.leaf.size s)
      (mig = true ∨ frameOk s new = false ∨ quarryFits new.kind new.addr new.size quarry = false ∨ s.paused (s.servicePkg tenant) = true ∨ new.kind ≠ old.leaf.kind ∨ new.x ≠ old.leaf.x ∨ new.w ≠ old.leaf.w → stays) ∧
      (new.pkg = old.leaf.pkg → new.addr = old.leaf.addr → stays) ∧
      (mig = false → frameOk s new = true → quarryFits new.kind new.addr new.size quarry = true → s.paused (s.servicePkg tenant) = false → new.kind = old.leaf.kind →
        new.kind ≠ .strata → new.x = old.leaf.x → new.w = old.leaf.w →
        new.pkg ≠ old.leaf.pkg ∨ new.addr ≠ old.leaf.addr →
        (∀ p : Nat, old.mig = false → s.packages = [p] → s.servicePkg tenant = p → (∀ x : Line, s.serviceHas p x = true) → ∃ t : State, exec (.pageMigration tenant page word quarry) s = .next t ∧
          MemOnly { s with moving := s.moving ++ [frame] } t ∧ Stored s old.pkg old.at_ (bytesOf (old.leaf.entry + 2 ^ 53) 8) t) ∧
        (old.mig = true → s.moving.contains frame = false ∨ s.shotClear asid va old.leaf.size = false → stays) ∧
        (∀ x : Line, old.mig = true → s.moving.contains frame = true → s.shotClear asid va old.leaf.size = true → x.pkg = old.leaf.pkg →
          (∃ i : Nat, i < old.leaf.size / 64 ∧ x.idx = old.leaf.addr / 64 + i) → s.agentReady (s.servicePkg tenant) old.leaf.pkg old.leaf.addr old.leaf.size = false →
          agentHas (s.servicePkg tenant) (s.line x) = false → s.attempt (s.servicePkg tenant) 4 x = none →
          ∃ t : State, exec (.pageMigration tenant page word quarry) s = .next t ∧ t = { s with attempts := t.attempts, net := t.net } ∧
            Msg.persistent x (s.servicePkg tenant) 4 ∈ t.net ∧ (t.attempt (s.servicePkg tenant) 4 x).isSome = true) ∧
        (∀ (p : Nat) (at_ : LeafAt), Safe s → old.mig = true → s.moving.contains frame = true → s.shotClear asid va old.leaf.size = true → s.packages = [p] →
          s.servicePkg tenant = p → s.agentReady p old.leaf.pkg old.leaf.addr old.leaf.size = true →
          (∀ e ∈ s.frameLines new.pkg new.addr new.size, e.2.quiet = true ∧ e.2.homeCount = 16) → u.leafAt p asid va = some at_ →
          ∃ t : State, exec (.pageMigration tenant page word quarry) s = .next t ∧ t.task = s.task ∧ t.moving = s.moving.erase frame ∧
            Stored u at_.pkg at_.at_ (bytesOf new.entry 8) t ∧
            Stored s new.pkg new.addr ((List.range old.leaf.size).map fun i => memByte s.mem (memKey old.leaf.pkg old.leaf.addr + i)) u))) ∧
    (∀ tables : Nat, s.traps = [] → exec (.collapse tables) s = .next s) ∧
    (∀ (tables : Nat) (r : TrapRecord) (a : LeafAt), s.traps = [me] → s.task.st = .faulted → s.task.trap = some r → r.cause.code = .protect → r.cause.sub = 8 →
      s.leafAt r.pkg r.asid (pAddr r.cause.addr / 65536 * 65536) = some a →
      let clear : Bool := s.shotClear r.asid (pAddr r.cause.addr / 65536 * 65536 / a.leaf.size * a.leaf.size) a.leaf.size
      (s.core.saved = [] → a.mig = true ∨ s.paused r.pkg = true ∨ clear = false → exec (.collapse tables) s = .next s) ∧
      ((∀ k : Core, k ∈ s.cores → samePlace s.core k = true → k.task.occupies = false) → s.fenced = false → s.core.saved = [] → s.task.replay = [] → s.task.copies = [] →
        s.task.arrived = [] → r.body = false → a.mig = false → s.paused r.pkg = false → (s.pkg r.pkg).held = [] → clear = true →
        let resumed : Task := { s.task with st := .running, pc := r.resume, trap := none, slice := 0 }
        (a.leaf.kind ≠ .readdup → ∃ t : State, exec (.collapse tables) s = .next t ∧
          CachesOnly { s with core := { s.core with task := resumed, turn := s.moves + 1 }, traps := [] } t) ∧
        (a.leaf.kind = .readdup → a.level = 3 → s.packages = [r.pkg] → (∀ x : Line, s.serviceHas r.pkg x = true) → ∃ t : State, exec (.collapse tables) s = .next t ∧
          MemOnly { s with core := { s.core with task := resumed, turn := s.moves + 1 }, traps := [] } t ∧
          Stored s a.pkg a.at_ (bytesOf ({ a.leaf with kind := .shared, w := true } : Leaf).entry 8) t)))

/-- R26, R74, R81, R82, R84 to R86, R94, R112, R115, R192, R216, R310, R313, R323, R332 and R356: what was left waiting at a line, at a remote scratchpad, at a
strata key or at an event line's parent is done when its turn comes. When a released region's slots are free (assumption log 98), that events at the home of a key in one cycle are ordered by core id and
a late one waits (logs 39 and 1), that an access to a slot waits for its lines (log 7), and what a causality release or a retry does where the slot cannot be read (log 97) are the model's choices. -/
def Obligations.WhatWaitsIsDone : Prop :=
  ∀ (s : State) (j : Nat), Alone s → s.task.rep.running = false →
    let me := s.core.id
    let rest : State := { s with net := s.net.eraseIdx j }
    let waitsAt (key : KeyId) (k : Core) : Prop := ∃ (t : Nat) (v st : Reg) (d since : Nat), k.task.wait = .strata key t v st true d since
    (∀ l : Line, s.waiting l = [] → exec (.mergeStep l) s = .next s) ∧
    (∀ (l : Line) (e : HomeReq) (d : StoreData) (x : LineState), s.waiting l = [e] → e.who = me → d.nib = none →
      (e.op = .store d ∨ ∃ (op : AmoOp) (z b v : Nat), e.op = .reduce op z b ∧ s.movingLine l = false ∧ d.bytes = bytesOf v z ∧
        (op.eval z (leOf (s.readPhys l.pkg (l.idx * 64 + e.offset) z)) b 0).1 = some v) →
      ((s.line l).pinned e.home = true ∧ e.behind = true ∨ (∃ c : CoreId, c ≠ me ∧ s.leaseOf l = some c) → exec (.mergeStep l) s = .next s) ∧
      ((s.line l).pinned e.home = false ∨ e.behind = false → (∀ c : CoreId, s.leaseOf l = some c → c = me) → (s.line l).collecting = none → (homeTouch e.home l .dflt s).isSome = true →
        (s.line l).gatherWrite e.home = some x → e.offset + d.bytes.length ≤ 64 →
        (x.poison = true → d.bytes.length < 64 → ∃ t : State, exec (.mergeStep l) s = .next t ∧ t.mem = s.mem ∧ (t.line l).queue = [] ∧
          t.task = { s.task with held := s.task.held ++ [{ memUe e.ptr with lane := e.lane, async := true }] }) ∧
        (x.poison = false → 0 < d.bytes.length → e.offset < 64 → ∃ t : State, exec (.mergeStep l) s = .next t ∧ MemOnly s t ∧ (t.line l).queue = [] ∧
          Stored s l.pkg (l.idx * 64 + e.offset) d.bytes t))) ∧
    (∀ (l : Line) (e : HomeReq), s.waiting l = [e] → e.who = me → e.op ≠ .access → (s.line l).pinned e.home = false ∨ e.behind = false →
      (∀ c : CoreId, s.leaseOf l = some c → c = me) → (s.line l).collecting = none → (homeTouch e.home l .dflt s).isSome = true →
      ((s.line l).gatherWrite e.home = none → ∃ t : State, exec (.mergeStep l) s = .next t ∧ t = { s with attempts := t.attempts, net := t.net } ∧
        t.attempts.any (fun a => a.line == l) = true) ∧
      (∀ (op : AmoOp) (z b : Nat), e.op = .reduce op z b → s.movingLine l = true → ((s.line l).gatherWrite e.home).isSome = true → ∃ t : State,
        exec (.mergeStep l) s = .next t ∧ t.mem = s.mem ∧ (t.line l).queue = [] ∧ t.core = { s.core with moved := s.core.moved ++ [{ ptr := e.ptr, op := op, z := z, b := b, since := s.now }] })) ∧
    (∀ (owner n : Nat) (p : Word) (store : Option (List Byte)) (dst : LoadDst) (acq : Bool), s.net[j]? = some (.remote me owner p n store dst acq) →
      let o := pAddr p % 2 ^ 17
      (s.task.wait ≠ .remote → exec (.remoteScratchpadAccess j) s = .next rest) ∧
      (s.task.wait = .remote →
        (∀ c : Cause, remoteCheck rest p owner o n store.isSome = .cause c → exec (.remoteScratchpadAccess j) s = .next (raise c rest)) ∧
        (∀ w : Wait, remoteCheck rest p owner o n store.isSome = .wait w → exec (.remoteScratchpadAccess j) s = .next s) ∧
        (∀ k : Core, remoteCheck rest p owner o n store.isSome = .ok k →
          let busy : Bool := s.scratchBusy k.id (pSpan p) o n
          (store = none → busy = true → exec (.remoteScratchpadAccess j) s = .next s) ∧
          (Bad k.task (pSpan p) o n → store = none → busy = false → exec (.remoteScratchpadAccess j) s = .next (raise (memUe p) rest)) ∧
          (¬ Bad k.task (pSpan p) o n → store = none → busy = false → k.id ≠ me → s.Keyed → k.id.tenant = me.tenant → k.id.lid = owner → ∃ t : State,
            exec (.remoteScratchpadAccess j) s = .next t ∧ CachesOnly { Sys2Proof.Claims.done rest (dst.put (spRead k.task (pSpan p) o n)) with others := t.others } t ∧
              t.findCore k.id = some { k with task := { k.task with wlast := some s.now } }) ∧
          (∀ bs : List Byte, store = some bs → k.task.lineLate s.now me.lid = true → exec (.remoteScratchpadAccess j) s = .next s) ∧
          (∀ bs : List Byte, store = some bs → k.task.lineLate s.now me.lid = false → k.task.scratchBad = [] → acq = false → k.id ≠ me → s.Keyed →
            (∀ r : Reg, k.task.wait ≠ .term r) → k.id.tenant = me.tenant → k.id.lid = owner →
            ∃ t : State, exec (.remoteScratchpadAccess j) s = .next t ∧
              t.task = past { s.task with sent := s.task.sent || (k.task :: k.saved).any fun u => u.launch == s.task.launch } ∧ t.mem = s.mem ∧
              t.findCore k.id = some { k with task := { spStore (pSpan p) o { bytes := bs } k.task with wlast := some s.now, xlast := some (s.now, me.lid) } })))) ∧
    (∀ (key key' : KeyId) (t0 t1 : Nat) (v st : Reg) (inTable : Bool) (delay since : Nat) (r : Region) (k : Key), s.net[j]? = some (.release me key t0) →
      s.task.wait = .strata key' t1 v st inTable delay since →
      (s.keyAt key = some (r, k) → ∀ l : Line, s.slotLacks r key.k = some l → exec (.causalityRelease j) s = .next (askFor l .home true s)) ∧
      (s.keyAt key = some (r, k) → s.slotLacks r key.k = none → inTable = false ∨ key' ≠ key ∨ t1 ≠ t0 → exec (.causalityRelease j) s = .next rest) ∧
      (inTable = true → key' = key → t1 = t0 → s.keyAt key = some (r, k) → s.slotLacks r key.k = none →
        (k.count = 0 → exec (.causalityRelease j) s = .next (raise (strataCause .strataAhead 3 (r.keyAddr key.k)) rest)) ∧
        (k.count ≠ 0 → s.task.determinate = false → s.slotUe r key.k = true → exec (.causalityRelease j) s = .next (raise (memUe (BitVec.ofNat 64 (r.keyAddr key.k))) rest)) ∧
        (k.count ≠ 0 → s.task.determinate = false → s.slotUe r key.k = false → ∃ t : State, exec (.causalityRelease j) s = .next t ∧
          t = { Sys2Proof.Claims.done rest fun t => (t.wv v (r.extend k t0)).wx st 3 with regions := t.regions }))) ∧
    (∀ (key : KeyId) (t0 : Nat) (v st : Reg) (inTable : Bool) (delay since : Nat), s.task.wait = .strata key t0 v st inTable delay since →
      (inTable = true ∨ s.now < since + delay → exec (.strataBackoff me) s = .next s) ∧
      (inTable = false → since + delay ≤ s.now → s.keyAt key = none →
        exec (.strataBackoff me) s = .next { s with core := { s.core with task := { s.task with wait := .none } } }) ∧
      (∀ (r : Region) (k : Key), s.keyAt key = some (r, k) → inTable = false → since + delay ≤ s.now → s.task.determinate = false →
        (s.homeLate r key.k me.lid = true → exec (.strataBackoff me) s = .next s) ∧
        (∀ l : Line, s.homeLate r key.k me.lid = false → s.slotLacks r key.k = some l → exec (.strataBackoff me) s = .next (askFor l .home true s)) ∧
        (s.homeLate r key.k me.lid = false → s.slotLacks r key.k = none →
          (r.released = true ∨ k.st = .retiring → exec (.strataBackoff me) s = .next (raise (protect 4 (BitVec.ofNat 64 (r.keyAddr key.k))) s)) ∧
          (r.released = false → k.st ≠ .retiring → s.slotUe r key.k = true → exec (.strataBackoff me) s = .next (raise (memUe (BitVec.ofNat 64 (r.keyAddr key.k))) s)) ∧
          (r.released = false → k.st ≠ .retiring → s.slotUe r key.k = false → ∀ (status : Nat) (x : Vec), r.resolve k t0 false = .value status x →
            ∃ t : State, exec (.strataBackoff me) s = .next t ∧ t.task = past ((s.task.wv v x).wx st (BitVec.ofNat 64 status)) ∧ t.mem = s.mem)))) ∧
    (∀ (rid : Nat) (r : Region), mapFind rid s.regions = some r →
      let retires (t : State) : Prop := ∃ r' : Region, mapFind rid t.regions = some r' ∧ r' = { r with released := true, keys := r'.keys } ∧
        (∀ i : Nat, r'.key i = if i < r.nkeys then { r.key i with st := .retiring } else r.key i) ∧
        ∀ i : Nat, i ≠ rid → mapFind i t.regions = mapFind i s.regions
      (r.released = true → exec (.regionRelease rid) s = .next s) ∧
      ((∃ e, e ∈ s.streams ∧ ∃ (id : KeyId) (b : Binding), e.2.key = some (id, b) ∧ id.rid = rid) → exec (.regionRelease rid) s = .next s) ∧
      (r.released = false → (∀ e, e ∈ s.streams → e.2.key = none) → (∃ (i : Nat) (l : Line), i < r.nkeys ∧ s.slotLacks r i = some l) →
        ∃ t : State, exec (.regionRelease rid) s = .next t ∧ t = { s with attempts := t.attempts, net := t.net }) ∧
      (r.released = false → (∀ e, e ∈ s.streams → e.2.key = none) → (∀ i : Nat, i < r.nkeys → s.slotLacks r i = none) →
        ((∀ (k : Core) (key : KeyId), k ∈ s.cores → key.rid = rid → ¬ waitsAt key k) →
          ∃ t : State, exec (.regionRelease rid) s = .next t ∧ t = { s with regions := t.regions, mem := t.mem } ∧ retires t ∧
            ∀ p a : Nat, r.nkeys = 1 → s.slotPhys r 0 = some (p, a) → Stored s p a (bytesOf (({ r.key 0 with st := .retiring } : Key).control r.tenant) 8) t) ∧
        (∀ key : KeyId, key.rid = rid → s.others = [] → waitsAt key s.core → ∃ t : State, exec (.regionRelease rid) s = .next t ∧
          retires t ∧ t.task = (raise (strataCause .strataAhead 2 (r.keyAddr key.k)) s).task))) ∧
    (∀ (cb pb : BenchId) (cl pl : Nat) (pkgs : List Nat), s.net[j]? = some (.spanArrive cb cl pb pl pkgs) →
      let n : Fin 32 := Fin.ofNat 32 pl
      let c : Fin 32 := Fin.ofNat 32 cl
      let l := s.evLine pb n
      let counted : EvLine := { l with childCount := l.childCount + 1, counted := l.counted ++ [(cb, cl)], pkgs := l.pkgs ++ pkgs }
      (s.benchRouted pb = false ∨ l.kind ≠ .span ∨ l.children ≤ l.childCount → (s.evLine cb c).waiters = [] → (s.evLine cb c).later = [] → exec (.spanArrivalMessage j) s = .next (rest.modLine cb c
        fun x => { x with count := 0, next := 0, childCount := 0, counted := [], complete := false, waiters := [], later := [], pkgs := [] })) ∧
      (s.benchRouted pb = true → l.kind = .span → l.childCount + 1 < l.children ∨ l.childCount < l.children ∧ l.count < l.arrivals →
        exec (.spanArrivalMessage j) s = .next (rest.modLine pb n fun _ => counted)) ∧
      (s.benchRouted pb = true → l.kind = .span → l.children = l.childCount + 1 → l.arrivals ≤ l.count → l.complete = false →
        (l.root = false → exec (.spanArrivalMessage j) s = .next { rest.modLine pb n fun _ => { counted with complete := true } with
          net := rest.net ++ [.spanArrive pb n.val { tenant := pb.tenant, bench := l.parentB } l.parentL (s.benchPkg pb :: counted.pkgs)] }) ∧
        (l.root = true → l.waiters = [] → ∃ t : State, exec (.spanArrivalMessage j) s = .next t ∧ t.mem = s.mem ∧ (t.evLine pb n).round = l.round + 1 ∧
          (t.evLine pb n).childCount = 0 ∧ (t.evLine pb n).count = l.next ∧ (t.evLine pb n).complete = false ∧
          t.net = rest.net ++ counted.counted.map fun e => .spanFire e.1 e.2 l.held s.now (spanLead (s.benchPkg pb) counted.pkgs)))) ∧
    (∀ (b : BenchId) (i cycle lead : Nat) (launch : Option Nat), s.net[j]? = some (.spanFire b i launch cycle lead) →
      let n : Fin 32 := Fin.ofNat 32 i
      let l := s.evLine b n
      (l.held ≠ launch ∨ l.complete = false → exec (.spanFireMessage j) s = .next rest) ∧
      (l.held = launch → l.complete = true → l.kind = .span → l.waiters = [] → l.next < l.arrivals ∨ 0 < l.children → ∃ t : State, exec (.spanFireMessage j) s = .next t ∧
        t.mem = s.mem ∧ (t.evLine b n).round = l.round + 1 ∧ (t.evLine b n).complete = false ∧
        t.net = rest.net ++ l.counted.map fun e => .spanFire e.1 e.2 l.held cycle lead))

/-- R90 to R94, R339 and R402 to R406: rules sort a port's frames into streams; a frame that its package's clock has stamped enters its stream's queue as a record or becomes a state of the key that its
stream is bound to, and what does not fit is a drop that is counted. What a queue's reset keeps (assumption log 31), that a stamp beyond the clock's reading tells that the clock has been set forward
and that the frames of a port enter in the order of their stamps (log 100), that a key is kept as structured data beside its slot's bytes (log 39), that ingress comes last among the events of a
cycle at a key's home (log 1), and that the supervisor's writes wait while a page moves and for their lines (log 7) are the model's choices. -/
def Obligations.PortsAndStreams : Prop :=
  ∀ (s : State) (pkg port stream : Nat), s.portUp pkg port = true →
    let st := s.stream pkg port stream
    let p := s.port pkg port
    let dropped (i : Instr) (u : State) : Prop := exec i s = .next (u.modStream pkg port stream fun x => { x with drops := x.drops + 1, dropped := true })
    (∀ (i : Nat) (rule : Rule),
      (s.paused pkg = true ∨ 64 ≤ i ∨ 112 < rule.off ∨ 256 ≤ rule.stream → exec (.classifierRuleWrite pkg port i rule) s = .next s) ∧
      (s.paused pkg = false → i < 64 → rule.off ≤ 112 → rule.stream < 256 → ∃ t : State, exec (.classifierRuleWrite pkg port i rule) s = .next t ∧
        t = { s with ports := t.ports, streams := t.streams } ∧ t.port pkg port = { p with rules := mapPut i rule p.rules } ∧
        (rule.stream = stream → stream ≠ 0 → t.stream pkg port stream = { st with tenant := rule.tenant }))) ∧
    (∀ ring i j : Nat, 0 < stream → stream < 256 → 12 ≤ i → i ≤ 26 → 7 ≤ j → j ≤ 14 →
      let reset : Instr := .streamQueueReset pkg port stream ring (2 ^ i) (2 ^ j)
      (s.paused pkg = true ∨ s.moving ≠ [] ∨ i < j ∨ s.ringNear st.tenant ring (2 ^ i) = false ∨ ring % 65536 ≠ 0 ∨ 2 ^ 26 < s.queueBytes pkg port stream + 2 ^ i →
        exec reset s = .next s) ∧
      (s.paused pkg = false → s.moving = [] → (∀ l : Line, s.serviceHas pkg l = true) → j ≤ i → s.ringNear st.tenant ring (2 ^ i) = true → ring % 65536 = 0 → s.queueBytes pkg port stream + 2 ^ i ≤ 2 ^ 26 → ∃ u : State, u = { s with streams := u.streams } ∧
        u.stream pkg port stream = { st with ring := ring, size := 2 ^ i, slot := 2 ^ j, tail := 0, stopped := false } ∧
        exec reset s = .next (writeVa st.tenant ring (bytesOf 0 16 ++ bytesOf (2 ^ i) 8) u))) ∧
    (∀ (id : KeyId) (r : Region) (k : Key) (b : Binding), s.keyAt id = some (r, k) →
      (s.paused pkg = true ∨ r.kind ≠ .strata ∨ r.nkeys ≤ id.k ∨ st.key.isSome = true ∨ k.st ≠ .open_ ∨ k.owner ≠ .none ∨ r.tenant ≠ st.tenant → exec (.streamBind pkg port stream id.rid id.k b) s = .next s) ∧
      (s.paused pkg = false → r.kind = .strata → id.k < r.nkeys → 0 < stream → stream < 256 → st.key = none → r.released = false → r.tenant = st.tenant → k.st = .open_ → k.owner = .none →
        (b.descriptor = true → r.format = .s32 ∧ r.mode = .hold ∧ 32 ≤ r.payload) → 1 ≤ b.divisor → b.divisor < 2 ^ 32 →
        (∀ l : Line, s.slotLacks r id.k = some l → exec (.streamBind pkg port stream id.rid id.k b) s = .next (askFor l .home true s)) ∧
        (s.slotLacks r id.k = none → ∃ t : State, exec (.streamBind pkg port stream id.rid id.k b) s = .next t ∧ t = { s with regions := t.regions, streams := t.streams, mem := t.mem } ∧
          (∀ q a : Nat, s.slotPhys r id.k = some (q, a) → Stored s q a (bytesOf (({ k with owner := .stream port stream } : Key).control r.tenant) 8) t) ∧
          (t.keyAt id).map (·.2) = some { k with owner := .stream port stream } ∧ t.stream pkg port stream = { st with key := some (id, b), exhausted := false })) ∧
      (st.key = none → exec (.streamUnbind pkg port stream) s = .next s) ∧
      (st.key = some (id, b) → s.paused pkg = false → s.waitRecs id = [] → (k.st = .open_ → s.slotLacks r id.k = none) → ∃ t : State, exec (.streamUnbind pkg port stream) s = .next t ∧
        t = { s with regions := t.regions, streams := t.streams, mem := t.mem } ∧ t.stream pkg port stream = { st with key := none, exhausted := false } ∧
        (k.st = .open_ → (t.keyAt id).map (·.2) = some { k with st := .closed }))) ∧
    (∀ (frame : List Byte) (ok : Bool) (t : Stamp),
      let arrives : Instr := .ingressFrame pkg port frame ok t
      let len := frame.length + 4
      let own := s.stream pkg port (p.classify frame)
      let stamped := t.s < 2 ^ 48 ∧ t.n < 10 ^ 9 ∧ t.f < 65536 ∧ Stamp.value p.last < Stamp.value t
      let free := ok = true → 64 ≤ len → len ≤ 9216 → (own.queues = true → s.queueFree own = true) ∧ s.boundFree own = true
      let timely := stamped ∧ free
      (¬ stamped → exec arrives s = .next s) ∧
      (stamped → ¬ free → ∃ v : State, exec arrives s = .next v ∧ v = { s with attempts := v.attempts, net := v.net }) ∧
      (timely → ∃ u : State, u = { s with ports := u.ports, pkgs := u.pkgs } ∧ u.port pkg port = { p with last := t } ∧
        u.pkg pkg = { s.pkg pkg with ptp := max (s.pkg pkg).ptp (Stamp.value t - s.time * 65536000 / micros 1) } ∧
        (ok = false ∨ len < 64 ∨ 9216 < len → ∃ v : State, exec arrives s = .next v ∧ v = { u with ports := v.ports } ∧
          v.port pkg port = { p with last := t, errors := p.errors + 1 }) ∧
        (ok = true → 64 ≤ len → len ≤ 9216 → p.classify frame = 0 → exec arrives s = .next (notify pkg (.client 0) u)) ∧
        (ok = true → 64 ≤ len → len ≤ 9216 → p.classify frame = stream → stream ≠ 0 →
          let tail := st.tail + st.slot
          let room := st.slot - 32
          let flags := (if st.dropped = true then 1 else 0) + if room < frame.length then 2 else 0
          let body := frame.take room
          let record := bytesOf frame.length 4 ++ bytesOf port 1 ++ bytesOf flags 1 ++ bytesOf t.f 2 ++ bytesOf t.s 6 ++ bytesOf t.n 4 ++ bytesOf stream 2 ++
            bytesOf 0 12 ++ body ++ List.replicate (room - body.length) 0
          let queued : State := (writeVa st.tenant st.ring (bytesOf tail 8) (writeVa st.tenant (st.ring + 64 + st.tail % st.size) record u)).modStream pkg port stream
            fun x => { x with tail := x.tail + x.slot, dropped := false }
          (st.key = none →
            (Stream.head s st = none → dropped arrives u) ∧
            (∀ head : Nat, Stream.head s st = some head →
              (st.size = 0 ∨ st.stopped = true → dropped arrives u) ∧
              (st.size ≠ 0 → st.stopped = false → st.tail < head ∨ head % st.slot ≠ 0 →
                dropped arrives (u.modStream pkg port stream fun x => { x with stopped := true })) ∧
              (st.size ≠ 0 → st.stopped = false → head ≤ st.tail → head % st.slot = 0 →
                (st.size - st.slot < st.tail - head → dropped arrives u) ∧
                (st.tail - head ≤ st.size - st.slot → ∃ v : State, exec arrives s = .next v ∧ v.mem = queued.mem ∧ v.core = queued.core ∧
                  v.stream pkg port stream = { st with tail := tail, dropped := false })))) ∧
          (∀ (id : KeyId) (b : Binding) (r : Region) (k : Key), st.key = some (id, b) → b.descriptor = false → s.keyAt id = some (r, k) →
            let time := if Stamp.value t < b.origin then 0 else (Stamp.value t - b.origin) / b.divisor
            let newest := ((k.states r.retain).map (·.1)).getLast?
            let payload := BitVec.ofNat 512 (leOf (frame.take r.payload))
            let at_ (v : State) : State := { v with homed := mapPut (r.homeOf id.k).lid (s.now, 65536) s.homed }
            (st.exhausted = true → dropped arrives u) ∧
            (st.exhausted = false → time < 2 ^ 64 →
              ((∀ h : Nat, newest = some h → h < time) → exec arrives s = .next (storeState id time payload (at_ u))) ∧
              (∀ h : Nat, newest = some h → time ≤ h → h + 1 < 2 ^ 64 →
                exec arrives s = .next (storeState id (h + 1) payload ((at_ u).modStream pkg port stream fun x => { x with raised := x.raised + 1 }))))))))

/-- R44 to R46, R49 to R55, R148, R182, R407, R409, R416 and R417: the resident service answers a client's requests, each of which notifies the supervisor, once HELLO
has agreed on a version. How handles and region numbers are chosen (assumption log 40), how a job or phase with nothing left ends (log 93), that requests stop during a switchover
(log 101), and that those that touch tenants' memory wait while a page moves and for their lines (log 7) are the model's choices. -/
def Obligations.ClientRequests : Prop :=
  ∀ (s : State) (conn : Nat),
    let c := s.client conn
    let u := notify c.pkg (.client conn) s
    let handle (v : Level) (n : Nat) : Answer := .handle (BitVec.ofNat 64 (v.num * 2 ^ 62 + c.tenant % 256 * 2 ^ 48 + n % 2 ^ 48))
    let answers (i : Instr) (a : Answer) (v : State) : Prop :=
      exec i s = .next { v with clients := mapPut conn { v.client conn with answers := (v.client conn).answers ++ [a] } v.clients }
    let requests (job h g p : Word) (req : RegionReq) (gr : Grant) (object nonce : List Byte) (rs : List (Nat × Grant)) (secs : List Section) (gs : List Word) (img : Image) : List Instr :=
      [.region conn req gr, .job conn, .upload conn job object gr rs secs, .phase conn job gs, .close conn h, .clientKick conn g p, .clientCancel conn h, .wait conn h,
        .attest conn nonce, .update conn img]
    let still : Prop := s.moving = [] ∧ ∀ l : Line, s.serviceHas c.pkg l = true
    (∀ (job g p : Word) (req : RegionReq) (gr : Grant) (object : List Byte) (rs : List (Nat × Grant)) (secs : List Section), s.moving ≠ [] →
      exec (.region conn req gr) s = .next s ∧ exec (.upload conn job object gr rs secs) s = .next s ∧ exec (.clientKick conn g p) s = .next s) ∧
    ((u.pkg c.pkg).notifs = (s.pkg c.pkg).notifs ++ [.client conn] ∧ u.client conn = c ∧ u.mem = s.mem ∧ u.core = s.core) ∧
    (∀ (job h g p : Word) (req : RegionReq) (gr : Grant) (object nonce : List Byte) (rs : List (Nat × Grant)) (secs : List Section) (gs : List Word) (img : Image) (i : Instr),
      i ∈ requests job h g p req gr object nonce rs secs gs img →
      ((s.pkg c.pkg).runs = false ∨ s.paused c.pkg = true → exec i s = .next s) ∧ ((s.pkg c.pkg).runs = true → s.paused c.pkg = false → c.version = none → s.moving = [] → answers i .refused u)) ∧
    (∀ (tenant pkg : Nat) (vs : List (Nat × Nat)) (ten : Tenancy),
      let hello : Instr := .hello conn tenant pkg vs ten
      ((s.pkg pkg).runs = false ∨ s.paused pkg = true → exec hello s = .next s) ∧
      ((s.pkg pkg).runs = true → s.paused pkg = false → ∃ (t : State) (d : Client), exec hello s = .next t ∧ t.client conn = d ∧ t.mem = s.mem ∧ t.core = s.core ∧
        d.tenant = (if (mapFind conn s.clients).isSome = true then c.tenant else tenant) ∧
        (mapFind conn s.clients = none → mapFind tenant s.tenants = none → tenancyOk s tenant ten = true → t.tenant tenant = ten ∧
          ∀ lid : Nat, lid < ten.wl * ten.hl → (t.findCore { tenant := tenant, lid := lid }).isSome = true) ∧
        (∀ m : Nat, (2, m) ∈ vs → (∀ n : Nat, (2, n) ∈ vs → n ≤ m) → d.version = some (2, min m 1) ∧ d.answers = c.answers ++ [.version 2 (min m 1)]) ∧
        (∀ m : Nat, (∀ n : Nat, (2, n) ∉ vs) → (1, m) ∈ vs → (∀ n : Nat, (1, n) ∈ vs → n ≤ m) →
          d.version = some (1, min m 2) ∧ d.answers = c.answers ++ [.version 1 (min m 2)]) ∧
        ((∀ n : Nat, (1, n) ∉ vs ∧ (2, n) ∉ vs) → d.version = none ∧ d.answers = c.answers ++ [.refused]))) ∧
    ((s.pkg c.pkg).runs = true → s.paused c.pkg = false → c.version.isSome = true →
      (∀ (req : RegionReq) (gr : Grant), still →
        (declareRegion c.tenant req gr u = none → answers (.region conn req gr) .refused u) ∧
        (∀ (r : Region) (v : State), declareRegion c.tenant req gr u = some (r, v) → answers (.region conn req gr) (.handle (BitVec.ofNat 64 r.base)) v)) ∧
      answers (.job conn) (handle .job s.serial) { u with
        jobs := mapPut s.serial { tenant := c.tenant, phases := [], closed := false, cancelled := false, ended := false, counter := 0, status := 0 } s.jobs, serial := s.serial + 1 } ∧
      (∀ (h : Word) (object : List Byte) (gr : Grant) (rs : List (Nat × Grant)) (secs : List Section) (gs : List Word),
        (s.jobOf c.tenant h = none → (still → answers (.upload conn h object gr rs secs) .refused u) ∧ answers (.phase conn h gs) .refused u) ∧
        (∀ (jn : Nat) (j : Job), s.jobOf c.tenant h = some (jn, j) →
          (still → parseGraph object = none → answers (.upload conn h object gr rs secs) .refused u) ∧
          (still → uploadGraph c.tenant jn object gr rs secs u = none → answers (.upload conn h object gr rs secs) .refused u) ∧
          (∀ (gn : Nat) (v : State), still → uploadGraph c.tenant jn object gr rs secs u = some (gn, v) → answers (.upload conn h object gr rs secs) (handle .graph gn) v) ∧
          (j.closed = true ∨ j.cancelled = true ∨ j.ended = true ∨ gs = [] ∨ 256 < gs.length ∨ (∃ g : Word, g ∈ gs ∧ ∀ (gn : Nat) (x : Graph),
            s.graphOf c.tenant g = some (gn, x) → x.job ≠ jn) → answers (.phase conn h gs) .refused u) ∧
          (j.closed = false → j.cancelled = false → j.ended = false → gs ≠ [] → gs.length ≤ 256 →
            (∀ g : Word, g ∈ gs → ∃ (gn : Nat) (x : Graph), s.graphOf c.tenant g = some (gn, x) ∧ x.job = jn) →
            ∃ (t : State) (q : Phase), exec (.phase conn h gs) s = .next t ∧ (t.client conn).answers.getLast? = some (handle .phase s.serial) ∧ t.serial = s.serial + 1 ∧
              mapFind s.serial t.phases = some q ∧ q.tenant = c.tenant ∧ q.job = jn ∧ q.graphs = gs.map handleNum ∧ (j.phases = [] → q.closed = false ∧ q.started = true)))) ∧
      (∀ h : Word,
        (handleTenant h ≠ c.tenant ∨ s.hasLevel h = false → answers (.close conn h) .refused u ∧ answers (.clientCancel conn h) .refused u ∧
          answers (.wait conn h) .refused u) ∧
        (handleTenant h = c.tenant → s.hasLevel h = true →
          (levelOf h = .launch ∨ levelOf h = .graph → answers (.close conn h) .refused u) ∧
          (∀ q : Phase, levelOf h = .phase → mapFind (handleNum h) s.phases = some q → ∃ (t : State) (r : Phase), exec (.close conn h) s = .next t ∧
            mapFind (handleNum h) t.phases = some r ∧ r.closed = true ∧ r.graphs = q.graphs ∧ (t.client conn).answers.getLast? = some .done) ∧
          (∀ j : Job, levelOf h = .job → mapFind (handleNum h) s.jobs = some j → ∃ (t : State) (i : Job), exec (.close conn h) s = .next t ∧
            mapFind (handleNum h) t.jobs = some i ∧ i.closed = true ∧ (t.client conn).answers.getLast? = some .done) ∧
          answers (.clientCancel conn h) .done (cancelLevel h u) ∧
          (∃ t : State, exec (.wait conn h) s = .next t ∧ t = { u with clients := t.clients, core := t.core, others := t.others } ∧ t.task = u.task.latchLevel u ∧ (t.client conn).answers.getLast? = some (match s.levelWord h (s.accepted h) with
            | some w => .word w
            | none => .waiting h (s.accepted h))))) ∧
      (∀ g p : Word, s.moving = [] →
        (s.graphOf c.tenant g = none → answers (.clientKick conn g p) (.result 3) u) ∧
        (∀ (gn : Nat) (x : Graph), s.graphOf c.tenant g = some (gn, x) → p = 0 →
          (openPhase s gn x = none → answers (.clientKick conn g p) (.result 4) u) ∧
          (∀ (pn : Nat) (q : Phase), openPhase s gn x = some pn → mapFind pn s.phases = some q →
            (16 ≤ x.kicks.length → answers (.clientKick conn g p) (.result 1) u) ∧
            (x.kicks.length < 16 → answers (.clientKick conn g p) (.result 0) { u with
              graphs := mapPut gn { x with kicks := x.kicks ++ [{ seq := x.accepted, phase := pn, patches := [] }], accepted := x.accepted + 1 } s.graphs
              phases := mapPut pn { q with pending := q.pending + 1 } s.phases })))) ∧
      (∀ nonce : List Byte,
        let q := s.pkg c.pkg
        (nonce.length ≠ 32 → answers (.attest conn nonce) .refused u) ∧
        (nonce.length = 32 → answers (.attest conn nonce) (.attested q.measures.toList q.versions nonce
          (Config.slhSign c.pkg (q.measures.toList.flatMap (fun m => bytesOf m.toNat 48) ++ q.versions.flatMap (fun v => bytesOf v 8) ++ nonce))) u)))

/-- R408 to R415: a package boots in four steps, an update is verified before its half is taken into use, errors in stored data are counted or stay where they are, and
sensors, droops and power move the clock's step. That a link without a common version, or an image without a common ABI, fails boot (assumption logs 69 and 70), that
registers 1 and 2 stay as they are where one image of step 3 fails (log 114, a reading of R409), the bytes of the boot ROM (log 91), the supply voltages (log 107), where the ASID root tables lie
(log 34), a second UPDATE (log 71), what a switchover leaves waiting (log 101), the count of droops (log 72), how rises of k are owed and paid (log 73), and where an error that is not corrected
stays (log 99) are the model's choices. -/
def Obligations.FirmwareAndClock : Prop :=
  ∀ (s : State) (pkg : Nat),
    let p := s.pkg pkg
    let verified (i : Image) : Prop := i.rsaOk = true ∧ i.slhOk = true ∧ Config.fusedMin pkg ≤ i.version
    let measures (m : BitVec 384) (bs : List Byte) : BitVec 384 := Config.sha384 (bytesOf m.toNat 48 ++ bytesOf (Config.sha384 bs).toNat 48)
    let measured (m : BitVec 384) (i : Image) : BitVec 384 := measures m i.bytes
    let becomes (i : Instr) (q : Package) : Prop := ∃ t : State, exec i s = .next t ∧ t = { s with pkgs := t.pkgs } ∧ t.pkg pkg = q
    let best (major : Nat) (vs : List (Nat × Nat)) (m : Nat) : Prop := (major, m) ∈ vs ∧ ∀ n : Nat, (major, n) ∈ vs → n ≤ m
    (∀ (first fw sv : Image) (link sram serves : Bool) (peers : List (Nat × List (Nat × Nat))),
      let boots : Instr := .boot pkg first fw sv link sram serves peers
      let joins : Prop := ∀ e ∈ peers, e.1 < 8 ∧ ∃ v ∈ e.2, v.1 = 2 ∨ v.1 = 3
      (4 ≤ pkg ∨ p.up = true ∨ p.halted = true → exec boots s = .next s) ∧
      (pkg < 4 → p.up = false → p.halted = false →
        (¬ verified first → becomes boots { p with haltStep := 1 }) ∧
        (verified first →
          let m0 := p.measures.set 0 (measured (measures p.measures[0] (Config.bootRom pkg)) first)
          let m2 := (m0.set 1 (measured p.measures[1] fw)).set 2 (measured p.measures[2] sv)
          let supply := (List.range 4).map (Config.supply pkg)
          (link = false ∨ sram = false ∨ ¬ joins → becomes boots { p with measures := m0, haltStep := 2 }) ∧
          (link = true → sram = true → joins → ∃ links : List (Nat × Nat × Nat),
            ((peers.map (·.1)).Nodup → ∀ e ∈ peers, ∀ m : Nat, (best 3 e.2 m → mapFind e.1 links = some (3, min m 2)) ∧
              ((∀ n : Nat, (3, n) ∉ e.2) → best 2 e.2 m → mapFind e.1 links = some (2, min m 3))) ∧
            (¬ (verified fw ∧ verified sv ∧ ∃ n : Nat, (1, n) ∈ fw.abi) → becomes boots { p with measures := m0, links := links, supply := supply, haltStep := 3 }) ∧
            (∀ m : Nat, verified fw → verified sv → best 1 fw.abi m →
              (serves = false → becomes boots { p with measures := m2, links := links, supply := supply, haltStep := 4 }) ∧
              (serves = true → ∃ t : State, exec boots s = .next t ∧ t.mem = s.mem ∧ t.pkg pkg = { p with
                  measures := m2, links := links, supply := supply, up := true, active := 0, abi := (1, min m 4)
                  versions := [first.version, fw.version, sv.version], asidTable := Config.asidTable pkg } ∧
                ∀ i : Nat, i < 16 → (t.findCore { tenant := 0, lid := 16 * pkg + i }).isSome = true)))))) ∧
    (∀ (conn : Nat) (img : Image),
      let c := s.client conn
      let supports : Prop := p.abi.1 = 1 ∧ ∃ n : Nat, (1, n) ∈ img.abi
      c.pkg = pkg → p.runs = true → p.paused = none → c.version.isSome = true →
        (¬ verified img ∨ ¬ supports ∨ p.standby.isSome = true → ∃ t : State, exec (.update conn img) s = .next t ∧ t.mem = s.mem ∧
          (t.client conn).answers = c.answers ++ [.updated false] ∧ (t.pkg pkg).standby = p.standby) ∧
        (verified img → supports → p.standby = none → ∃ t : State, exec (.update conn img) s = .next t ∧ t.mem = s.mem ∧ t.clients = s.clients ∧
          (t.pkg pkg).standby = some { img := img, since := s.time, conn := conn } ∧ (t.pkg pkg).measures = p.measures.set 3 (measured p.measures[3] img))) ∧
    (p.standby = none → exec (.switchover pkg) s = .next s ∧ exec (.switchoverTimeout pkg) s = .next s) ∧
    (∀ b : Standby, p.standby = some b →
      let answered (i : Instr) (ok : Bool) (q : Package) : Prop := ∃ t : State, exec i s = .next t ∧ t = { s with pkgs := t.pkgs, clients := t.clients } ∧ t.pkg pkg = q ∧
        (t.client b.conn).answers = (s.client b.conn).answers ++ [.updated ok]
      (p.runs = false → exec (.switchover pkg) s = .next s) ∧
      (p.runs = true → p.paused = none → b.ready = false →
        (s.time ≤ b.since + micros 1000 → becomes (.switchover pkg) { p with standby := some { b with ready := true } }) ∧
        (b.since + micros 1000 < s.time → exec (.switchover pkg) s = .next s)) ∧
      (p.runs = true → p.paused = none → b.ready = true →
        (s.moving ≠ [] → exec (.switchover pkg) s = .next s) ∧
        (s.traps = [] → s.moving = [] → (∀ e, e ∈ s.lines → e.2.collecting = none) →
          becomes (.switchover pkg) { p with active := 1 - p.active, paused := some s.time })) ∧
      (p.runs = true → p.paused.isSome = true →
        ∃ a : Nat × Nat, (∀ m : Nat, p.abi.1 = 1 → best 1 b.img.abi m → a = (1, min m 4)) ∧
        answered (.switchover pkg) true { p with paused := none, standby := none, abi := a, versions := p.versions.take 1 ++ [b.img.version, b.img.version] }) ∧
      (∀ n x : Nat, s.pkgs = [(pkg, p)] → p.runs = true → p.paused = some x → x + micros 20 ≤ (tick n s).time → ((passTime n s).pkg pkg).paused = none) ∧
      (b.ready = true ∨ s.time ≤ b.since + micros 1000 → exec (.switchoverTimeout pkg) s = .next s) ∧
      (b.ready = false → b.since + micros 1000 < s.time → answered (.switchoverTimeout pkg) false { p with standby := none })) ∧
    (∀ (a b c d : Sensors),
      let polls : Instr := .sensorPoll pkg [a, b, c, d]
      let temp (r : Sensors) : Int := if r.flowOk = true then r.maxTemp else max r.maxTemp 115
      let m := max (max (max (temp a) (temp b)) (temp c)) (temp d)
      let crossed (limit : Int) : Prop := ¬ (limit ≤ p.maxTemp ↔ limit ≤ m)
      (p.runs = false ∨ (∃ x : Nat, p.polled = some x ∧ s.time < x + micros 10) → exec polls s = .next s) ∧
      (p.runs = true → (∀ x : Nat, p.polled = some x → x + micros 10 ≤ s.time) →
        ∃ alerts : List Notif, becomes polls { p with
            maxTemp := m, cool := decide (m < 100), polled := some s.time, process := [a.process, b.process, c.process, d.process], rises := p.rises + (if 105 ≤ m then 1 else 0), stopped := p.stopped || decide (115 ≤ m)
            notifs := p.notifs ++ alerts } ∧
          (crossed 100 ∨ crossed 105 ∨ crossed 115 → alerts = [.health]) ∧ (¬ (crossed 100 ∨ crossed 105 ∨ crossed 115) → alerts = []))) ∧
    (∀ die : Nat,
      (4 ≤ die ∨ p.runs = false → exec (.droopEvent pkg die) s = .next s) ∧
      (die < 4 → p.runs = true → becomes (.droopEvent pkg die) { p with droops := p.droops + 1, lastDroop := some s.time, rises := p.rises + 1 })) ∧
    (∀ power : Nat,
      let records : Instr := .healthRecord pkg power
      (p.runs = false ∨ (∃ x : Nat, p.recorded = some x ∧ s.time < x + micros 1000) → exec records s = .next s) ∧
      (p.runs = true → (∀ x : Nat, p.recorded = some x → x + micros 1000 ≤ s.time) → ∃ alerts : List Notif, becomes records { p with
            records := p.records ++ [{ maxTemp := p.maxTemp, droops := p.droops, k := s.k, power := power, corrected := p.corrected }], power := power
            recorded := some s.time, rises := p.rises + (if 2800 < power then 1 else 0), notifs := p.notifs ++ alerts } ∧
          ((2800 < p.power ↔ 2800 < power) → alerts = []) ∧ (¬ (2800 < p.power ↔ 2800 < power) → alerts = [.health]))) ∧
    (upset (.corrected pkg) s = s.modPkg pkg fun q => { q with corrected := q.corrected + 1 }) ∧
    (∀ l : Line, (upset (.memLine l) s).line l = { s.line l with poison := true } ∧ upset (.memLine l) s = { s with lines := (upset (.memLine l) s).lines }) ∧
    (∀ w : Nat, w < 16384 → ∃ t : State, upset (.scratch s.core.id w) s = t ∧ t = { s with core := { s.core with task := { s.task with scratchBad := t.task.scratchBad } } } ∧
      ∀ i : Nat, i ∈ t.task.scratchBad ↔ i = w ∨ i ∈ s.task.scratchBad) ∧
    (∀ x : Nat, x < 1024 → ∃ t : State, upset (.acc s.core.id x) s = t ∧ t = { s with core := { s.core with task := { s.task with accBad := t.task.accBad } } } ∧
      ∀ i : Nat, i ∈ t.task.accBad ↔ i = x ∨ i ∈ s.task.accBad) ∧
    (∀ (n : Fin 8) (row : Nat), row < 144 → ∃ t : State, upset (.slot s.core.id n row) s = t ∧ t = { s with core := { s.core with task := { s.task with slots := t.task.slots } } } ∧
      (∀ i : Nat, i ∈ t.task.slots[n].bad ↔ i = row ∨ i ∈ s.task.slots[n].bad) ∧ ∀ j : Fin 8, j ≠ n → t.task.slots[j] = s.task.slots[j]) ∧
    (∀ tag : Nat, ∃ t : State, upset (.icache s.core.id tag) s = t ∧ t = { s with core := { s.core with icache := t.core.icache } } ∧
      ∀ e ∈ t.core.icache, (e.tag = tag → e.bad = true) ∧ (e.tag ≠ tag → e ∈ s.core.icache)) ∧
    (∀ tag : Nat, ∃ t : State, upset (.l1Line s.core.id tag) s = t ∧ t = { s with core := { s.core with l1 := t.core.l1 } } ∧
      ∀ x ∈ t.core.l1, ∀ e ∈ x.2, e.tag = tag → e.bad = true) ∧
    (∀ k : Nat,
      let owed := ∃ e, e ∈ s.pkgs ∧ 0 < e.2.rises
      (owed → k = s.k + 1 ∨ k = 40 ∧ s.k = 40 → k ≤ 40 → ∃ t : State, exec (.throttleStep k) s = .next t ∧ t = { s with k := k, stepped := s.time, pkgs := t.pkgs } ∧
        ∀ q : Nat, mapFind q t.pkgs = (mapFind q s.pkgs).map fun x => { x with rises := x.rises - 1 }) ∧
      (¬ owed → k + 1 = s.k → s.mayFall = true → s.stepped + micros 1000 ≤ s.time → exec (.throttleStep k) s = .next { s with k := k, stepped := s.time }) ∧
      (k + 1 ≠ s.k → 40 < k ∨ k ≠ s.k + 1 ∧ k ≠ s.k → exec (.throttleStep k) s = .next s))

/-- R113, R191, R273, R299, R343, R378, R379 and R382: what happens to a core is that core's alone: a happening at another core than the current one acts as it
would if that core were current, after which the current core is current again. A core that the domain does not hold is unaffected. A context save is stated where the service has the lines that it writes. -/
def Obligations.HappeningsReachTheirCore : Prop :=
  ∀ (s : State) (c : CoreId), s.Keyed → c ≠ s.core.id →
    let reaches (e : Instr) : Prop :=
      (s.findCore c = none → exec e s = .next s) ∧
      ((s.findCore c).isSome = true → ∃ t : State, exec e (switchTo c s) = .next t ∧ exec e s = .next (switchTo s.core.id t))
    (∀ e ∈ [Instr.strataBackoff c, .leaseExpiry c, .stepStart c, .stepCompletion c, .exchangeSlotOpen c, .exchangePhaseEnd c, .completionInterrupt c, .asyncCause c,
      .tileGrant c, .bindingComplete c, .completionReport c, .quantumExpiry c, .tsliceExpiry c, .copyDrainTimeout c, .contextRestore c, .trapEnd c,
      .migRewalk c, .taskEndBySupervisor c], reaches e) ∧
    (∀ n : Nat, reaches (.copyCompletion c n) ∧ reaches (.copyFault c n) ∧ reaches (.copyPageResume c n) ∧ reaches (.l1LineTimeout c n) ∧ reaches (.pageRefusal c n)) ∧
    ((∀ (p : Nat) (l : Line), s.serviceHas p l = true ∧ (switchTo c s).serviceHas p l = true) → reaches (.contextSave c)) ∧
    (∀ (n m : Nat) (w : Word), reaches (.pageNotice c n w m)) ∧
    (∀ (w : Word) (regs : List (SavedReg × Word)), reaches (.trapResume c w regs))

/-- R113, R127, R360 and R361: one step makes the next move; a core that may issue fetches the word at its program counter and performs the instruction that the
word decodes to, or takes ILLEGAL_INSTRUCTION or the cause of the fetch; a repetition buffer that runs issues its own words beside it, and holds back the words that
must follow them. A switchover whose pause has lasted 20 µs ends as time passes. That the order of moves is free beyond the orders that rules state (assumption log 1), what a running body holds back
(log 48), that a due cause or interrupt stops issue (log 77), that the machine halts only when every package has (log 86), that a supervisor's message is a move of its own (log 90), and when errors in stored
data come (log 99) are the model's choices. -/
def Obligations.StepRunsDecoded : Prop :=
  ∀ (s : State),
    (s.halted = true → step s = .fault .halted) ∧
    (s.agenda = [] → step s = step { s with agenda := [Config.nextMove s.moves] }) ∧
    (∀ (m : Move) (rest : List Move), s.halted = false → s.agenda = m :: rest →
      let u : State := { s with agenda := rest, moves := s.moves + 1 }
      let b := u.begin
      (∀ n : Nat, m = .tick n → step s = .next (passTime n u) ∧ ((∀ e ∈ (tick n u).pkgs, e.2.paused = none) → step s = .next (tick n u))) ∧
      (∀ e : Instr, m = .happen e → (e.isEvent = true → (∀ p : Nat, u.placeOf e = some p → (u.pkg p).runs = true) → step s = exec e u) ∧
        (e.isEvent = false ∨ (∃ p : Nat, u.placeOf e = some p ∧ (u.pkg p).runs = false) → step s = .next u)) ∧
      (∀ c : CoreId, m = .issue c ∨ m = .body c → u.findCore c = none → step s = .next u) ∧
      (∀ x : Upset, m = .upset x → step s = .next (upset x u)) ∧ (∀ p : Nat, m = .message p → step s = .next (notify p .message u)) ∧
      (m = .issue s.core.id → u.mayIssue = false → step s = .next u) ∧
      (m = .body s.core.id → u.mayIssueBody = false → step s = .next u) ∧
      (m = .body s.core.id → u.mayIssueBody = true → ∀ t : State, exec s.task.rep.instr b.enterBody = .next t → step s = .next t.leaveBody) ∧
      (m = .issue s.core.id → u.mayIssue = true →
        (∀ (v : State) (w : Nat), fetch b = .ok (v, w) → v.bodyHolds w = true → step s = .next v) ∧
        (∀ (v : State) (w : Nat), fetch b = .ok (v, w) → v.bodyHolds w = false →
          (∀ i : Instr, decodeWord w = .ok i → step s = exec i v) ∧ (∀ e : DecodeError, decodeWord w = .error e → step s = exec .illegalInstruction v)) ∧
        (∀ w : Wait, fetch b = .wait w → step s = .next (settle (.wait w) b)) ∧
        (∀ c : Cause, fetch b = .cause c → step s = exec .fetchFault b))) ∧
    (∀ w : Nat, s.task.gang = 0 → s.bodyHolds w = s.task.rep.holds w) ∧
    (∀ leaf : Leaf, s.task.pc.toNat < 2 ^ 48 → s.task.pc.toNat % 4 = 0 → translate s s.task.pc.toNat = .leaf leaf → leaf.x = true → leaf.size % 64 = 0 →
      iFind s.core s.asid s.task.pc.toNat = none → Ready s leaf (s.task.pc.toNat / 64 * 64) false →
      ∃ v : State, fetch s = .ok (v, leOf (s.readPhys leaf.pkg (leaf.pa s.task.pc.toNat) 4)) ∧ CachesOnly s v)

/-- R116 to R127: every well-formed word instruction decodes from the four bytes of its word, and every word that decodes is the word of the instruction that it decodes
to, so that each of its bits counts and no other word has that meaning. -/
def Obligations.WordsHaveOneMeaning : Prop :=
  (∀ (i : Instr) (rest : List Byte), i.isEvent = false → i.wf = true → decodeBytes (leBytes 4 (encode i) ++ rest) = .ok (i, rest)) ∧
  (∀ (w : Nat) (i : Instr), w < 2 ^ 32 → decodeWord w = .ok i → i.isEvent = false ∧ i.wf = true ∧ encode i = w)

/-- R11 and R116 to R127, on words written out by hand from the encoding tables: one or more of each major opcode, and words with a reserved field. -/
def Obligations.SampleWordsDecode : Prop :=
  (∀ e ∈ ([(0x09C0000A, .addi 14 0 10), (0x19840030, .slli 12 4 48), (0x254A7004, .addp 10 10 14), (0x28A02010, .bne 5 0 16), (0x34290C20, .rep 0 9 1 1 1),
      (0x34000031, .fuse .g8), (0x34000005, .exit), (0x34000087, .fence .bench), (0x380F0112, .sysw 15 (.rngc 0)), (0x392001D1, .sysr 9 .pgnote),
      (0x38120003, .dtld 18 .a), (0x50A6A004, .ldw 5 6 (.strong .die) .dflt 4), (0x59430000, .ldd 10 3 .weak .dflt 0), (0x69159000, .stw 8 21 (.strong .bench) .dflt 0),
      (0x746D0002, .vld 3 13 .weak .dflt 2), (0x853443C9, .amocas 9 20 8 .pkg .d), (0x881442C0, .redadd 20 8 .die .d), (0x94034801, .waitc 3 9),
      (0xA0088000, .vadd 0 8 16 0 .f32), (0xA8210051, .vcmpne 1 1 0 0 .s32), (0xAC6180A0, .vcvtEf 3 1 0 0 .c8a .f32), (0xB0411153, .vscanCompact 2 1 1 .s32),
      (0xC0050840, .mmac 1 1 0)] : List (Nat × Instr)), decodeTableWord 32 e.1 = some e.2) ∧
  (∀ w ∈ [0x00000000, 0x09C0000A + 2 ^ 31, 0x34000002 + 2 ^ 21, 0x34000031 + 2 ^ 11, 0x04000000 + 2 ^ 10, 0xFFFFFFFF], decodeTableWord 32 w = none)

/-- The model's form of memory, which every step keeps: addresses rise, and no listed byte is what an unlisted address reads as (assumption log 33: memory that nothing
has written reads as zero, the model's choice). -/
def Obligations.StepKeepsMemoryForm : Prop :=
  ∀ s t : State, Safe s → step s = .next t → Safe t

/-- R31, R172, R178, R347, R408 and R413: right after reset no package has booted, no task is bound, every token of every line is at its memory home, and the clock's
step is 0. That unwritten memory reads as zero, the clock's first step and the registers of a core without a task are the model's choice (assumption log 33, 34 and 35). -/
def Obligations.ResetLeaves : Prop :=
  let s := State.reset
  Safe s ∧ s.Keyed ∧ (∀ a : Nat, memByte s.mem a = 0) ∧ (∀ l : Line, s.line l = { homeCount := 16, homeOwner := true }) ∧ s.task.st = .none ∧
    (∀ pkg : Nat, (s.pkg pkg).up = false ∧ (s.pkg pkg).halted = false ∧ (s.pkg pkg).measures = Vector.replicate 8 0) ∧ s.k = 0 ∧ s.now = 0 ∧ s.halted = false ∧
    (∀ t : Nat, mapFind t s.tenants = none) ∧ (∀ c : CoreId, s.findCore c = if c = s.core.id then some s.core else none) ∧ ∀ c : CoreId, stepMove (.issue c) s = .next s ∧ stepMove (.body c) s = .next s

/-- R84, R127, R164, R177 and R379 to R382: what the supervisor's software does with a faulted task, a task that it ends, and a word that cannot be issued. A task ended after a trap leaves its launch
FAULTED; one that it ends without a trap leaves the launch's status as it is, and that is the model's choice (assumption log 113). Which registers it may change on resume and in what form (log 82),
and that of what waits for the service the first is taken first (log 101), are the model's choices too. -/
def Obligations.SupervisorAnswers : Prop :=
  ∀ (s : State), Alone s →
    let me := s.core.id
    (s.pausedHere = true → exec (.trapEnd me) s = .next s ∧ exec (.taskEndBySupervisor me) s = .next s ∧
      ∀ (resume : Word) (regs : List (SavedReg × Word)), exec (.trapResume me resume regs) s = .next s) ∧
    (s.faulted = none → Answering s → exec (.trapEnd me) s = .next s ∧ ∀ (resume : Word) (regs : List (SavedReg × Word)), exec (.trapResume me resume regs) s = .next s) ∧
    (s.Keyed → Answering s → s.task.st = .faulted → ∀ l : Launch, s.launch? s.task.launch = some l → ∃ (t : State) (m : Launch), exec (.trapEnd me) s = .next t ∧
      t.task.st = .ended ∧ t.task.trap = none ∧ t.task.replay = [] ∧ t.task.copies = [] ∧ t.task.steps = [] ∧ t.task.lease = none ∧ t.task.win = Vector.replicate 4 0 ∧
      t.task.x = s.task.x ∧ ((∀ c : CoreId, s.fusingOf c = 0) → t.mem = s.mem ∧ t.traps = s.traps.erase me) ∧ t.launch? s.task.launch = some m ∧ m.status = max l.status 3 ∧ m.counter = l.counter + 1) ∧
    (s.Keyed → s.pausedHere = false → s.task.st = .running → ∀ l : Launch, s.launch? s.task.launch = some l → (∀ d : Reg, s.task.wait ≠ .term d) → ∃ (t : State) (m : Launch),
      exec (.taskEndBySupervisor me) s = .next t ∧ ((∀ c : CoreId, s.fusingOf c = 0) → t.mem = s.mem) ∧ t.task.st = .ended ∧ t.task.x = s.task.x ∧ t.launch? s.task.launch = some m ∧ m.status = l.status ∧
      m.counter = l.counter + 1) ∧
    (s.task.st ≠ .running → exec (.taskEndBySupervisor me) s = .next s) ∧
    (∀ (resume v : Word) (reg : SavedReg), Answering s → s.task.st = .faulted → (∀ k : Core, k ∈ s.cores → samePlace s.core k = true → k.task.occupies = false) → s.fenced = false →
      s.core.saved = [] → s.task.replay = [] → s.task.copies = [] → s.task.arrived = [] → (s.task.trap.map (·.body)).getD false = false → s.task.inBody = false →
      ∃ t : State, exec (.trapResume me resume [(reg, v)]) s = .next t ∧ t.mem = s.mem ∧ t.traps = s.traps.erase me ∧
        t.task = { s.task.poke (reg, v) with st := .running, pc := resume, trap := none, slice := 0 }) ∧
    (∀ (u : Task) (rest : List Task) (resume v : Word) (reg : SavedReg), Answering s → s.task.st = .none → s.promised = false → s.core.saved = u :: rest → u.st = .faulted →
      (∀ k : Core, k ∈ s.cores → samePlace s.core k = true → k.task.occupies = false) → s.fencedFor u.launch = false → u.replay = [] → u.copies = [] → u.arrived = [] → u.gang = 0 →
      (u.trap.map (·.body)).getD false = false → u.inBody = false →
      ∃ (t : State) (w : Task), exec (.trapResume me resume [(reg, v)]) s = .next t ∧ t.mem = s.mem ∧ t.traps = s.traps.erase me ∧ t.core.saved = rest ∧ Loaded s u w ∧
        t.task = { w.poke (reg, v) with st := .running, pc := resume, trap := none, slice := 0 }) ∧
    (∀ (r : Reg) (i : Fin 8) (n : Fin 16) (v : Word),
      s.task.poke (.x r, v) = { s.task with x := if r = 0 then s.task.x else s.task.x.set r.val v } ∧ s.task.poke (.xs i, v) = { s.task with xs := s.task.xs.set i.val v } ∧
      (∃ w : Vec, s.task.poke (.v r i, v) = { s.task with v := s.task.v.set r.val w } ∧ ∀ j : Fin 8, w.extractLsb' (64 * j.val) 64 = if j = i then v else s.task.v[r].extractLsb' (64 * j.val) 64) ∧
      s.task.poke (.k i, v) = { s.task with k := if i = 0 then s.task.k else s.task.k.set i.val v } ∧
      s.task.poke (.c n, v) = { s.task with c := s.task.c.set n.val (v.setWidth 32) } ∧ s.task.poke (.sys .upvec, v) = { s.task with upvec := v / 4 * 4 }) ∧
    (s.task.st ≠ .running → exec .illegalInstruction s = .next s ∧ exec .fetchFault s = .next s) ∧
    (s.task.st = .running →
      (∀ (u : State) (w : Nat), fetch s = .ok (u, w) → exec .fetchFault s = .next s ∧
        ((∃ e, decodeWord w = .error e) → exec .illegalInstruction s = .next (raise { code := .illegalInstruction } u)) ∧
        ((∃ i, decodeWord w = .ok i) → exec .illegalInstruction s = .next s)) ∧
      (∀ c : Cause, fetch s = .cause c → exec .fetchFault s = .next (raise c s) ∧ exec .illegalInstruction s = .next s))
end

