-- ==== Sys2Proof/Laws/Map.lean ====
section
/-!
SUPPORT. Finite maps: what a read gives after a write, and that every operation keeps the canonical form.
-/
namespace Sys2Proof.Machine

variable {α : Type}

/-! ## Reads -/

theorem mapFind_erase (k k' : Nat) (m : Map α) : mapFind k (mapErase k' m) = if k = k' then none else mapFind k m := by
  induction m with
  | nil => simp [mapErase, mapFind]
  | cons e m ih =>
    obtain ⟨a, v⟩ := e
    by_cases ha : a = k'
    · subst ha
      by_cases hk : k = a
      · subst hk; simp [mapErase, ih]
      · have : ¬ a = k := fun h => hk h.symm
        simp [mapErase, mapFind, ih, hk, this]
    · by_cases hk : a = k
      · subst hk; simp [mapErase, mapFind, ha]
      · simp [mapErase, mapFind, ha, hk, ih]

theorem mapFind_insert (k k' : Nat) (v : α) (m : Map α) (h : mapFind k m = none) :
    mapFind k' (mapInsert k v m) = if k' = k then some v else mapFind k' m := by
  induction m with
  | nil => by_cases hk : k = k' <;> simp [mapInsert, mapFind, hk, eq_comm]
  | cons e m ih =>
    obtain ⟨a, w⟩ := e
    have ha : a ≠ k := by intro he; simp [mapFind, he] at h
    have hm : mapFind k m = none := by simpa [mapFind, ha] using h
    by_cases hlt : k < a
    · by_cases hk : k = k'
      · subst hk; simp [mapInsert, mapFind, hlt]
      · simp [mapInsert, mapFind, hlt, hk, Ne.symm hk]
    · by_cases hk : a = k'
      · subst hk; simp [mapInsert, mapFind, hlt, ha]
      · simp [mapInsert, mapFind, hlt, hk, ih hm]

theorem mapFind_put (k k' : Nat) (v : α) (m : Map α) : mapFind k' (mapPut k v m) = if k' = k then some v else mapFind k' m := by
  unfold mapPut
  rw [mapFind_insert _ _ _ _ (by simp [mapFind_erase]), mapFind_erase]
  by_cases h : k' = k <;> simp [h]

theorem mapGet_set [DecidableEq α] (d : α) (m : Map α) (k k' : Nat) (v : α) :
    mapGet d (mapSet d m k v) k' = if k' = k then v else mapGet d m k' := by
  unfold mapGet mapSet
  by_cases hv : v = d
  · subst hv; by_cases h : k' = k <;> simp [mapFind_erase, h]
  · by_cases h : k' = k <;> simp [hv, mapFind_put, h]

/-! ## The canonical form -/

/-- Every key of the map is above `k`. -/
def mapAbove (k : Nat) : Map α → Prop
  | [] => True
  | (a, _) :: m => k < a ∧ mapAbove k m

theorem mapAbove_mono {j k : Nat} (h : j ≤ k) : ∀ {m : Map α}, mapAbove k m → mapAbove j m
  | [], _ => trivial
  | _ :: _, ⟨h1, h2⟩ => ⟨by omega, mapAbove_mono h h2⟩

/-- The canonical form, one pair at a time: the value is no default, and every later key is greater. -/
theorem mapWf_cons [DecidableEq α] (d : α) (k : Nat) (v : α) (m : Map α) :
    mapWf d ((k, v) :: m) = true ↔ v ≠ d ∧ mapAbove k m ∧ mapWf d m = true := by
  induction m generalizing k v with
  | nil => simp [mapWf, mapAbove]
  | cons e m ih =>
    obtain ⟨a, w⟩ := e
    rw [ih a w]
    have : mapWf d ((k, v) :: (a, w) :: m) = ((v != d && decide (k < a)) && mapWf d ((a, w) :: m)) := rfl
    rw [this, Bool.and_eq_true, ih a w]
    simp only [mapAbove, Bool.and_eq_true, bne_iff_ne, decide_eq_true_eq]
    constructor
    · rintro ⟨⟨h1, h2⟩, h3, h4, h5⟩
      exact ⟨h1, ⟨h2, mapAbove_mono (by omega) h4⟩, h3, h4, h5⟩
    · rintro ⟨h1, ⟨h2, _⟩, h3, h4, h5⟩
      exact ⟨⟨h1, h2⟩, h3, h4, h5⟩

theorem mapAbove_erase (j k : Nat) : ∀ (m : Map α), mapAbove j m → mapAbove j (mapErase k m)
  | [], _ => trivial
  | (a, _) :: m, ⟨h1, h2⟩ => by
    by_cases ha : a = k
    · simpa [mapErase, ha] using mapAbove_erase j k m h2
    · simpa [mapErase, ha, mapAbove] using ⟨h1, mapAbove_erase j k m h2⟩

theorem mapAbove_insert (j k : Nat) (v : α) (hj : j < k) : ∀ (m : Map α), mapAbove j m → mapAbove j (mapInsert k v m)
  | [], _ => ⟨hj, trivial⟩
  | (a, w) :: m, ⟨h1, h2⟩ => by
    by_cases ha : k < a
    · simp [mapInsert, ha, mapAbove, hj, h1, h2]
    · simpa [mapInsert, ha, mapAbove] using ⟨h1, mapAbove_insert j k v hj m h2⟩

theorem mapWf_erase [DecidableEq α] (d : α) (k : Nat) : ∀ (m : Map α), mapWf d m = true → mapWf d (mapErase k m) = true
  | [], _ => rfl
  | (a, v) :: m, h => by
    obtain ⟨h1, h2, h3⟩ := (mapWf_cons d a v m).1 h
    by_cases ha : a = k
    · simpa [mapErase, ha] using mapWf_erase d k m h3
    · simpa [mapErase, ha] using (mapWf_cons d a v _).2 ⟨h1, mapAbove_erase a k m h2, mapWf_erase d k m h3⟩

theorem mapFind_above {j : Nat} : ∀ {m : Map α}, mapAbove j m → mapFind j m = none
  | [], _ => rfl
  | (a, _) :: m, ⟨h1, h2⟩ => by
    have : ¬ a = j := by omega
    simpa [mapFind, this] using mapFind_above h2

theorem mapWf_insert [DecidableEq α] (d : α) (k : Nat) (v : α) (hv : v ≠ d) :
    ∀ (m : Map α), mapFind k m = none → mapWf d m = true → mapWf d (mapInsert k v m) = true
  | [], _, _ => by simp [mapInsert, mapWf, hv]
  | (a, w) :: m, hf, h => by
    obtain ⟨h1, h2, h3⟩ := (mapWf_cons d a w m).1 h
    have ha : a ≠ k := by intro he; simp [mapFind, he] at hf
    have hm : mapFind k m = none := by simpa [mapFind, ha] using hf
    by_cases hlt : k < a
    · have : mapInsert k v ((a, w) :: m) = (k, v) :: (a, w) :: m := by simp [mapInsert, hlt]
      rw [this]
      exact (mapWf_cons d k v _).2 ⟨hv, ⟨hlt, mapAbove_mono (by omega) h2⟩, h⟩
    · have : mapInsert k v ((a, w) :: m) = (a, w) :: mapInsert k v m := by simp [mapInsert, hlt]
      rw [this]
      exact (mapWf_cons d a w _).2 ⟨h1, mapAbove_insert a k v (by omega) m h2, mapWf_insert d k v hv m hm h3⟩

theorem mapWf_set [DecidableEq α] (d : α) (m : Map α) (k : Nat) (v : α) (h : mapWf d m = true) : mapWf d (mapSet d m k v) = true := by
  unfold mapSet
  by_cases hv : v = d
  · simpa [hv] using mapWf_erase d k m h
  · simpa [hv, mapPut] using mapWf_insert d k v hv _ (by simp [mapFind_erase]) (mapWf_erase d k m h)

theorem mapAbove_filter (j : Nat) (p : Nat × α → Bool) : ∀ (m : Map α), mapAbove j m → mapAbove j (m.filter p)
  | [], _ => trivial
  | e :: m, ⟨h1, h2⟩ => by
    by_cases he : p e = true
    · simpa [List.filter_cons, he, mapAbove] using ⟨h1, mapAbove_filter j p m h2⟩
    · simpa [List.filter_cons, he] using mapAbove_filter j p m h2

theorem mapWf_filter [DecidableEq α] (d : α) (p : Nat × α → Bool) : ∀ (m : Map α), mapWf d m = true → mapWf d (m.filter p) = true
  | [], _ => rfl
  | (a, v) :: m, h => by
    obtain ⟨h1, h2, h3⟩ := (mapWf_cons d a v m).1 h
    by_cases he : p (a, v) = true
    · simpa [List.filter_cons, he] using (mapWf_cons d a v _).2 ⟨h1, mapAbove_filter a p m h2, mapWf_filter d p m h3⟩
    · simpa [List.filter_cons, he] using mapWf_filter d p m h3

/-! ## Memory -/

/-- A byte stored and read: the stored byte at its address, and every other byte as it was. -/
theorem memByte_set (m : Map Byte) (a b : Nat) (v : Byte) : memByte (mapSet 0 m a v) b = if b = a then v else memByte m b :=
  mapGet_set 0 m a b v

/-- Bytes stored at rising addresses, read one by one. -/
theorem memByte_store (m : Map Byte) (a : Nat) (bs : List Byte) (b : Nat) :
    memByte (memStore m a bs) b = if a ≤ b ∧ b < a + bs.length then bs.getD (b - a) 0 else memByte m b := by
  induction bs generalizing m a with
  | nil => have : ¬ (a ≤ b ∧ b < a) := by omega
           simp [memStore, this]
  | cons x xs ih =>
    rw [memStore, ih, memByte_set]
    by_cases h0 : b = a
    · subst h0
      have : ¬ (b + 1 ≤ b ∧ b < b + 1 + xs.length) := by omega
      simp [this]
    · by_cases h1 : a + 1 ≤ b ∧ b < a + 1 + xs.length
      · have h2 : a ≤ b ∧ b < a + (x :: xs).length := by simp; omega
        have h3 : b - a = (b - (a + 1)) + 1 := by omega
        rw [if_pos h1, if_pos h2, h3]; rfl
      · have h2 : ¬ (a ≤ b ∧ b < a + (x :: xs).length) := by simp; omega
        rw [if_neg h1, if_neg h2, if_neg h0]

theorem memWf_store (m : Map Byte) (a : Nat) (bs : List Byte) (h : Memory.wf m = true) : Memory.wf (memStore m a bs) = true := by
  induction bs generalizing m a with
  | nil => exact h
  | cons x xs ih => exact ih _ _ (mapWf_set 0 m a x h)

end Sys2Proof.Machine
end

