-- ==== Sys2Proof/Laws/Bytes.lean ====
section
/-!
SUPPORT. Numbers as bytes and as lanes, and the bytes of a scratchpad under a span code.
-/
namespace Sys2Proof.Claims

open Sys2Proof.Machine

/-- The number of a list of bytes is below 256 to its length. -/
theorem leOf_lt : ∀ (bs : List Byte), leOf bs < 2 ^ (8 * bs.length)
  | [] => by simp [leOf]
  | b :: bs => by
    have := leOf_lt bs
    have hb := b.isLt
    simp only [leOf, List.length_cons]
    rw [Nat.mul_succ, pow_add]
    omega

/-- As many bytes are read as are asked for. -/
theorem memBytes_len (m : Map Byte) : ∀ (n a : Nat), (memBytes m a n).length = n
  | 0, a => rfl
  | n + 1, a => by simp [memBytes, memBytes_len m n]

/-- Byte `i` of a number. -/
theorem bytesOf_get : ∀ (n v i : Nat), i < n → ((bytesOf v n).getD i 0).toNat = v / 256 ^ i % 256
  | n + 1, v, 0, _ => by simp [bytesOf]
  | n + 1, v, i + 1, h => by
    simp only [bytesOf, List.getD_cons_succ]
    rw [bytesOf_get n _ i (by omega), Nat.div_div_eq_div_mul, pow_succ']

/-- As many bytes as are asked for. -/
theorem bytesOf_len : ∀ (n v : Nat), (bytesOf v n).length = n
  | 0, v => rfl
  | n + 1, v => by simp [bytesOf, bytesOf_len n]

/-- Lane `i` of a number cut into lanes. -/
theorem lanesFrom_get (w : Nat) : ∀ (n x i : Nat), i < n → (lanesFrom w x n)[i]? = some (x / 2 ^ (w * i) % 2 ^ w)
  | n + 1, x, 0, _ => by simp [lanesFrom]
  | n + 1, x, i + 1, h => by
    simp only [lanesFrom, List.getElem?_cons_succ]
    rw [lanesFrom_get w n _ i (by omega), Nat.div_div_eq_div_mul, ← pow_add, Nat.mul_succ, Nat.add_comm]

/-- The signed value of a field is that of its bit vector. -/
theorem signedOf_toInt (w n : Nat) (hw : 0 < w) : signedOf w n = (BitVec.ofNat w n).toInt := by
  unfold signedOf
  rw [BitVec.toInt_eq_toNat_cond]
  simp only [BitVec.toNat_ofNat]
  have : 2 ^ w = 2 * 2 ^ (w - 1) := by rw [← pow_succ']; congr 1; omega
  split <;> split <;> omega

/-- A span code keeps the row and the byte within the bank (R307). -/
theorem swizzle_row (k o : Nat) : swizzle k o / 128 = o / 128 ∧ swizzle k o % 8 = o % 8 ∧ (0 < k → swizzle k o / 8 % 16 = (o / 8 % 16) ^^^ (o / 2 ^ (k + 3) % 16)) ∧ swizzle 0 o = o := by
  have hb : ∀ x y : Nat, (x % 16 ^^^ y % 16) < 16 := fun x y => Nat.xor_lt_two_pow (n := 4) (by omega) (by omega)
  unfold swizzle
  dsimp only
  have := hb (o / 8) (o / 2 ^ (k + 3))
  refine ⟨?_, ?_, fun hk => ?_, ?_⟩
  · split <;> omega
  · split <;> omega
  · rw [if_neg (by omega)]; omega
  · simp; omega

/-- A span code sends no two offsets to one place (R307). -/
theorem swizzle_inj (k o o' : Nat) (hk : k ≤ 6) (h : swizzle k o' = swizzle k o) : o' = o := by
  by_cases h0 : k = 0
  · subst h0
    rw [(swizzle_row 0 o).2.2.2, (swizzle_row 0 o').2.2.2] at h; exact h
  · have r1 := swizzle_row k o
    have r2 := swizzle_row k o'
    have e1 : o' / 128 = o / 128 := by rw [← r2.1, ← r1.1, h]
    have e2 : o' % 8 = o % 8 := by rw [← r2.2.1, ← r1.2.1, h]
    have e3 : (o' / 8 % 16) ^^^ (o' / 2 ^ (k + 3) % 16) = (o / 8 % 16) ^^^ (o / 2 ^ (k + 3) % 16) := by
      rw [← r2.2.2.1 (by omega), ← r1.2.2.1 (by omega), h]
    -- bits of a = o/8 : a = r*16 + c, second operand = (a / 2^k) % 16
    have ha : ∀ x : Nat, x / 2 ^ (k + 3) = x / 8 / 2 ^ k := by
      intro x; rw [Nat.div_div_eq_div_mul, pow_add]; congr 1; ring
    rw [ha, ha] at e3
    have f1 : o' / 8 / 16 = o / 8 / 16 := by omega
    generalize hA' : o' / 8 = a' at e3 f1
    generalize hA : o / 8 = a at e3 f1
    have : a' % 16 = a % 16 := by
      have hd' : a' = a' / 16 * 16 + a' % 16 := by omega
      have hd : a = a' / 16 * 16 + a % 16 := by omega
      have hl : a' % 16 < 16 := Nat.mod_lt _ (by decide)
      have hl2 : a % 16 < 16 := Nat.mod_lt _ (by decide)
      generalize hq : a' / 16 = q at *
      generalize a' % 16 = c' at *
      generalize a % 16 = c at *
      rw [hd', hd] at e3
      have key : ∀ q' : Fin 64, ∀ c' c : Fin 16, ∀ k : Fin 7, k.val ≠ 0 → c'.val ^^^ ((q'.val * 16 + c'.val) / 2 ^ k.val % 16) = c.val ^^^ ((q'.val * 16 + c.val) / 2 ^ k.val % 16) → c'.val = c.val := by decide +kernel
      have red : ∀ c : Nat, (q * 16 + c) / 2 ^ k % 16 = (q % 64 * 16 + c) / 2 ^ k % 16 := by
        intro c
        have : q * 16 + c = (q / 64) * 2 ^ (6 + 4) + (q % 64 * 16 + c) := by omega
        rw [this]
        have h2 : 2 ^ (6 + 4) = 2 ^ k * 2 ^ (10 - k) := by rw [← pow_add]; congr 1; omega
        rw [h2, ← Nat.mul_assoc, Nat.mul_right_comm, Nat.mul_comm (_ * _) (2 ^ k), Nat.mul_add_div (by positivity)]
        have h3 : 2 ^ (10 - k) = 2 ^ (6 - k) * 16 := by
          rw [show (16 : Nat) = 2 ^ 4 from rfl, ← pow_add]; congr 1; omega
        rw [h3, ← Nat.mul_assoc, Nat.mul_add_mod']
      rw [red, red] at e3
      exact key ⟨q % 64, by omega⟩ ⟨c', hl⟩ ⟨c, hl2⟩ ⟨k, by omega⟩ h0 e3
    omega

/-- What is stored under a span code, read at a place. -/
theorem spWrite_get (k : Nat) (hk : k ≤ 6) : ∀ (bs : List Byte) (o : Nat) (m : Map Byte) (o' : Nat),
    memByte (spWrite k o bs m) (swizzle k o') = if o ≤ o' ∧ o' < o + bs.length then bs.getD (o' - o) 0 else memByte m (swizzle k o')
  | [], o, m, o' => by have : ¬ (o ≤ o' ∧ o' < o) := by omega
                       simp [spWrite, this]
  | b :: bs, o, m, o' => by
    unfold spWrite
    rw [spWrite_get k hk bs (o + 1) _ o', memByte_set]
    by_cases h : o' = o
    · subst h
      rw [if_neg (by omega), if_pos rfl, if_pos (by simp)]
      simp
    · have : ¬ swizzle k o' = swizzle k o := fun e => h (swizzle_inj k o o' hk e)
      rw [if_neg this]
      by_cases h2 : o + 1 ≤ o' ∧ o' < o + 1 + bs.length
      · rw [if_pos h2, if_pos (by simp; omega)]
        have : o' - o = o' - (o + 1) + 1 := by omega
        rw [this]; simp
      · rw [if_neg h2, if_neg (by simp; omega)]

/-- Byte `i` of a scratchpad read. -/
theorem spRead_get (t : Task) (k : Nat) : ∀ (n o i : Nat), i < n → (spRead t k o n)[i]? = some (memByte t.scratch (swizzle k (o + i)))
  | n + 1, o, 0, _ => by simp [spRead]
  | n + 1, o, i + 1, h => by
    simp only [spRead, List.getElem?_cons_succ]
    rw [spRead_get t k n (o + 1) i (by omega)]; congr 3; omega

/-- As many bytes as are asked for. -/
theorem spRead_len (t : Task) (k : Nat) : ∀ (n o : Nat), (spRead t k o n).length = n
  | 0, o => rfl
  | n + 1, o => by simp [spRead, spRead_len t k n]

/-- A 32-bit lane as a bit vector. -/
theorem lane_word (v : Vec) (j : Nat) : BitVec.ofNat 32 (lane 32 v j) = v.extractLsb' (32 * j) 32 := by
  apply BitVec.eq_of_toNat_eq
  simp [lane, BitVec.extractLsb'_toNat, Nat.shiftRight_eq_div_pow]

/-- Lane `j` of packed lanes. -/
theorem pack_get (w : Nat) : ∀ (l : List Nat) (j : Nat), j < l.length → packLanes w l / 2 ^ (w * j) % 2 ^ w = l.getD j 0 % 2 ^ w
  | a :: l, 0, _ => by simp [packLanes, Nat.add_mul_mod_self_left]
  | a :: l, j+1, h => by
    have ih := pack_get w l j (by simpa using h)
    have : packLanes w (a :: l) / 2 ^ (w * (j+1)) = packLanes w l / 2 ^ (w * j) := by
      rw [show w * (j+1) = w + w * j by ring, pow_add, ← Nat.div_div_eq_div_mul]
      congr 1
      rw [packLanes, Nat.add_mul_div_left _ _ (by positivity), Nat.div_eq_of_lt (Nat.mod_lt _ (by positivity))]; simp
    rw [this, ih]; simp

/-- Lane `j` of a vector made of lanes. -/
theorem vecOf_get (w : Nat) (l : List Nat) (j : Nat) (hj : j < l.length) (hw : w * (j + 1) ≤ 512) :
    (vecOf w l).extractLsb' (w * j) w = BitVec.ofNat w (l.getD j 0) := by
  apply BitVec.eq_of_toNat_eq
  rw [BitVec.extractLsb'_toNat, vecOf, BitVec.toNat_ofNat, BitVec.toNat_ofNat, Nat.shiftRight_eq_div_pow]
  rw [← pack_get w l j hj]
  have h1 : (2:Nat) ^ 512 = 2 ^ (w * j) * 2 ^ (512 - w * j) := by rw [← pow_add]; congr 1; have : w * (j+1) = w*j + w := by ring
                                                                  omega
  rw [h1, Nat.mod_mul_right_div_self, Nat.mod_mod_of_dvd]
  exact pow_dvd_pow 2 (by have : w * (j+1) = w*j + w := by ring
                          omega)

end Sys2Proof.Claims
end

