-- ==== Sys2Proof/Laws/State.lean ====
section
/-!
SUPPORT. The small lemmas of the state's updates: what each leaves in each field. All hold by definition.
-/
namespace Sys2Proof.Machine

variable (s : State) (t u : Task) (f g : Task → Task)

/-! ## The current task -/

@[simp] theorem State.modTask_eq : s.modTask f = s.withTask (f s.task) := rfl
@[simp] theorem State.withTask_task : (s.withTask t).task = t := rfl
@[simp] theorem State.withTask_withTask : (s.withTask t).withTask u = s.withTask u := rfl
@[simp] theorem State.withTask_self : s.withTask s.task = s := rfl
@[simp] theorem State.withTask_core : (s.withTask t).core = { s.core with task := t } := rfl
theorem State.core_task : s.core.task = s.task := rfl
@[simp] theorem State.withTask_others : (s.withTask t).others = s.others := rfl
@[simp] theorem State.withTask_agenda : (s.withTask t).agenda = s.agenda := rfl
@[simp] theorem State.withTask_moves : (s.withTask t).moves = s.moves := rfl
@[simp] theorem State.withTask_now : (s.withTask t).now = s.now := rfl
@[simp] theorem State.withTask_time : (s.withTask t).time = s.time := rfl
@[simp] theorem State.withTask_k : (s.withTask t).k = s.k := rfl
@[simp] theorem State.withTask_stepped : (s.withTask t).stepped = s.stepped := rfl
@[simp] theorem State.withTask_mem : (s.withTask t).mem = s.mem := rfl
@[simp] theorem State.withTask_lines : (s.withTask t).lines = s.lines := rfl
@[simp] theorem State.withTask_l2 : (s.withTask t).l2 = s.l2 := rfl
@[simp] theorem State.withTask_net : (s.withTask t).net = s.net := rfl
@[simp] theorem State.withTask_attempts : (s.withTask t).attempts = s.attempts := rfl
@[simp] theorem State.withTask_arbiters : (s.withTask t).arbiters = s.arbiters := rfl
@[simp] theorem State.withTask_tlbs : (s.withTask t).tlbs = s.tlbs := rfl
@[simp] theorem State.withTask_benches : (s.withTask t).benches = s.benches := rfl
@[simp] theorem State.withTask_regions : (s.withTask t).regions = s.regions := rfl
@[simp] theorem State.withTask_launches : (s.withTask t).launches = s.launches := rfl
@[simp] theorem State.withTask_graphs : (s.withTask t).graphs = s.graphs := rfl
@[simp] theorem State.withTask_phases : (s.withTask t).phases = s.phases := rfl
@[simp] theorem State.withTask_jobs : (s.withTask t).jobs = s.jobs := rfl
@[simp] theorem State.withTask_ports : (s.withTask t).ports = s.ports := rfl
@[simp] theorem State.withTask_streams : (s.withTask t).streams = s.streams := rfl
@[simp] theorem State.withTask_pkgs : (s.withTask t).pkgs = s.pkgs := rfl
@[simp] theorem State.withTask_tenants : (s.withTask t).tenants = s.tenants := rfl
@[simp] theorem State.withTask_clients : (s.withTask t).clients = s.clients := rfl
@[simp] theorem State.withTask_traps : (s.withTask t).traps = s.traps := rfl
@[simp] theorem State.withTask_moving : (s.withTask t).moving = s.moving := rfl
@[simp] theorem State.withTask_locals : (s.withTask t).locals = s.locals := rfl
@[simp] theorem State.withTask_failed : (s.withTask t).failed = s.failed := rfl
@[simp] theorem State.withTask_downLinks : (s.withTask t).downLinks = s.downLinks := rfl
@[simp] theorem State.withTask_homed : (s.withTask t).homed = s.homed := rfl
@[simp] theorem State.withTask_serial : (s.withTask t).serial = s.serial := rfl

/-! ## Lines, packages and launches -/

variable (l : Line) (v : LineState)

@[simp] theorem State.setLine_core : (s.setLine l v).core = s.core := rfl
@[simp] theorem State.setLine_others : (s.setLine l v).others = s.others := rfl
@[simp] theorem State.setLine_agenda : (s.setLine l v).agenda = s.agenda := rfl
@[simp] theorem State.setLine_moves : (s.setLine l v).moves = s.moves := rfl
@[simp] theorem State.setLine_now : (s.setLine l v).now = s.now := rfl
@[simp] theorem State.setLine_time : (s.setLine l v).time = s.time := rfl
@[simp] theorem State.setLine_k : (s.setLine l v).k = s.k := rfl
@[simp] theorem State.setLine_stepped : (s.setLine l v).stepped = s.stepped := rfl
@[simp] theorem State.setLine_mem : (s.setLine l v).mem = s.mem := rfl
@[simp] theorem State.setLine_l2 : (s.setLine l v).l2 = s.l2 := rfl
@[simp] theorem State.setLine_net : (s.setLine l v).net = s.net := rfl
@[simp] theorem State.setLine_attempts : (s.setLine l v).attempts = s.attempts := rfl
@[simp] theorem State.setLine_arbiters : (s.setLine l v).arbiters = s.arbiters := rfl
@[simp] theorem State.setLine_tlbs : (s.setLine l v).tlbs = s.tlbs := rfl
@[simp] theorem State.setLine_benches : (s.setLine l v).benches = s.benches := rfl
@[simp] theorem State.setLine_regions : (s.setLine l v).regions = s.regions := rfl
@[simp] theorem State.setLine_launches : (s.setLine l v).launches = s.launches := rfl
@[simp] theorem State.setLine_graphs : (s.setLine l v).graphs = s.graphs := rfl
@[simp] theorem State.setLine_phases : (s.setLine l v).phases = s.phases := rfl
@[simp] theorem State.setLine_jobs : (s.setLine l v).jobs = s.jobs := rfl
@[simp] theorem State.setLine_ports : (s.setLine l v).ports = s.ports := rfl
@[simp] theorem State.setLine_streams : (s.setLine l v).streams = s.streams := rfl
@[simp] theorem State.setLine_pkgs : (s.setLine l v).pkgs = s.pkgs := rfl
@[simp] theorem State.setLine_tenants : (s.setLine l v).tenants = s.tenants := rfl
@[simp] theorem State.setLine_clients : (s.setLine l v).clients = s.clients := rfl
@[simp] theorem State.setLine_traps : (s.setLine l v).traps = s.traps := rfl
@[simp] theorem State.setLine_moving : (s.setLine l v).moving = s.moving := rfl
@[simp] theorem State.setLine_locals : (s.setLine l v).locals = s.locals := rfl
@[simp] theorem State.setLine_failed : (s.setLine l v).failed = s.failed := rfl
@[simp] theorem State.setLine_downLinks : (s.setLine l v).downLinks = s.downLinks := rfl
@[simp] theorem State.setLine_homed : (s.setLine l v).homed = s.homed := rfl
@[simp] theorem State.setLine_serial : (s.setLine l v).serial = s.serial := rfl
@[simp] theorem State.setLine_task : (s.setLine l v).task = s.task := rfl
@[simp] theorem State.wx_eq (r : Reg) (w : Word) : s.wx r w = s.withTask (s.task.wx r w) := rfl
@[simp] theorem State.wv_eq (r : Reg) (w : Vec) : s.wv r w = s.withTask (s.task.wv r w) := rfl
@[simp] theorem State.withTask_rx (r : Reg) : (s.withTask t).rx r = t.rx r := rfl
@[simp] theorem State.withTask_rv (r : Reg) : (s.withTask t).rv r = t.v[r] := rfl
@[simp] theorem State.withTask_line (l : Line) : (s.withTask t).line l = s.line l := rfl
@[simp] theorem State.withTask_launch (n : Nat) : (s.withTask t).launch? n = s.launch? n := rfl
@[simp] theorem State.withTask_pkg (p : Nat) : (s.withTask t).pkg p = s.pkg p := rfl
@[simp] theorem State.withTask_tenant (n : Nat) : (s.withTask t).tenant n = s.tenant n := rfl
@[simp] theorem State.withTask_wl : (s.withTask t).wl = s.wl := rfl
@[simp] theorem State.withTask_bench : (s.withTask t).bench = s.bench := rfl
@[simp] theorem State.modPkg_core (p : Nat) (k : Package → Package) : (s.modPkg p k).core = s.core := rfl
@[simp] theorem State.modPkg_others (p : Nat) (k : Package → Package) : (s.modPkg p k).others = s.others := rfl
@[simp] theorem State.modPkg_agenda (p : Nat) (k : Package → Package) : (s.modPkg p k).agenda = s.agenda := rfl
@[simp] theorem State.modPkg_moves (p : Nat) (k : Package → Package) : (s.modPkg p k).moves = s.moves := rfl
@[simp] theorem State.modPkg_now (p : Nat) (k : Package → Package) : (s.modPkg p k).now = s.now := rfl
@[simp] theorem State.modPkg_time (p : Nat) (k : Package → Package) : (s.modPkg p k).time = s.time := rfl
@[simp] theorem State.modPkg_k (p : Nat) (k : Package → Package) : (s.modPkg p k).k = s.k := rfl
@[simp] theorem State.modPkg_stepped (p : Nat) (k : Package → Package) : (s.modPkg p k).stepped = s.stepped := rfl
@[simp] theorem State.modPkg_mem (p : Nat) (k : Package → Package) : (s.modPkg p k).mem = s.mem := rfl
@[simp] theorem State.modPkg_lines (p : Nat) (k : Package → Package) : (s.modPkg p k).lines = s.lines := rfl
@[simp] theorem State.modPkg_l2 (p : Nat) (k : Package → Package) : (s.modPkg p k).l2 = s.l2 := rfl
@[simp] theorem State.modPkg_net (p : Nat) (k : Package → Package) : (s.modPkg p k).net = s.net := rfl
@[simp] theorem State.modPkg_attempts (p : Nat) (k : Package → Package) : (s.modPkg p k).attempts = s.attempts := rfl
@[simp] theorem State.modPkg_arbiters (p : Nat) (k : Package → Package) : (s.modPkg p k).arbiters = s.arbiters := rfl
@[simp] theorem State.modPkg_tlbs (p : Nat) (k : Package → Package) : (s.modPkg p k).tlbs = s.tlbs := rfl
@[simp] theorem State.modPkg_benches (p : Nat) (k : Package → Package) : (s.modPkg p k).benches = s.benches := rfl
@[simp] theorem State.modPkg_regions (p : Nat) (k : Package → Package) : (s.modPkg p k).regions = s.regions := rfl
@[simp] theorem State.modPkg_launches (p : Nat) (k : Package → Package) : (s.modPkg p k).launches = s.launches := rfl
@[simp] theorem State.modPkg_graphs (p : Nat) (k : Package → Package) : (s.modPkg p k).graphs = s.graphs := rfl
@[simp] theorem State.modPkg_phases (p : Nat) (k : Package → Package) : (s.modPkg p k).phases = s.phases := rfl
@[simp] theorem State.modPkg_jobs (p : Nat) (k : Package → Package) : (s.modPkg p k).jobs = s.jobs := rfl
@[simp] theorem State.modPkg_ports (p : Nat) (k : Package → Package) : (s.modPkg p k).ports = s.ports := rfl
@[simp] theorem State.modPkg_streams (p : Nat) (k : Package → Package) : (s.modPkg p k).streams = s.streams := rfl
@[simp] theorem State.modPkg_tenants (p : Nat) (k : Package → Package) : (s.modPkg p k).tenants = s.tenants := rfl
@[simp] theorem State.modPkg_clients (p : Nat) (k : Package → Package) : (s.modPkg p k).clients = s.clients := rfl
@[simp] theorem State.modPkg_traps (p : Nat) (k : Package → Package) : (s.modPkg p k).traps = s.traps := rfl
@[simp] theorem State.modPkg_moving (p : Nat) (k : Package → Package) : (s.modPkg p k).moving = s.moving := rfl
@[simp] theorem State.modPkg_locals (p : Nat) (k : Package → Package) : (s.modPkg p k).locals = s.locals := rfl
@[simp] theorem State.modPkg_failed (p : Nat) (k : Package → Package) : (s.modPkg p k).failed = s.failed := rfl
@[simp] theorem State.modPkg_downLinks (p : Nat) (k : Package → Package) : (s.modPkg p k).downLinks = s.downLinks := rfl
@[simp] theorem State.modPkg_homed (p : Nat) (k : Package → Package) : (s.modPkg p k).homed = s.homed := rfl
@[simp] theorem State.modPkg_serial (p : Nat) (k : Package → Package) : (s.modPkg p k).serial = s.serial := rfl
@[simp] theorem State.modPkg_task (p : Nat) (k : Package → Package) : (s.modPkg p k).task = s.task := rfl

/-! ## Register writes -/

variable (r : Reg) (w : Word) (y : Vec) (k : KReg) (e : Flags)

@[simp] theorem Task.wx_st : (t.wx r w).st = t.st := by unfold Task.wx; split <;> first | rfl | (split <;> rfl)
@[simp] theorem Task.wx_launch : (t.wx r w).launch = t.launch := by unfold Task.wx; split <;> first | rfl | (split <;> rfl)
@[simp] theorem Task.wx_handle : (t.wx r w).handle = t.handle := by unfold Task.wx; split <;> first | rfl | (split <;> rfl)
@[simp] theorem Task.wx_index : (t.wx r w).index = t.index := by unfold Task.wx; split <;> first | rfl | (split <;> rfl)
@[simp] theorem Task.wx_determinate : (t.wx r w).determinate = t.determinate := by unfold Task.wx; split <;> first | rfl | (split <;> rfl)
@[simp] theorem Task.wx_termdetect : (t.wx r w).termdetect = t.termdetect := by unfold Task.wx; split <;> first | rfl | (split <;> rfl)
@[simp] theorem Task.wx_pc : (t.wx r w).pc = t.pc := by unfold Task.wx; split <;> first | rfl | (split <;> rfl)
@[simp] theorem Task.wx_handling : (t.wx r w).handling = t.handling := by unfold Task.wx; split <;> first | rfl | (split <;> rfl)
@[simp] theorem Task.wx_v : (t.wx r w).v = t.v := by unfold Task.wx; split <;> first | rfl | (split <;> rfl)
@[simp] theorem Task.wx_k : (t.wx r w).k = t.k := by unfold Task.wx; split <;> first | rfl | (split <;> rfl)
@[simp] theorem Task.wx_q : (t.wx r w).q = t.q := by unfold Task.wx; split <;> first | rfl | (split <;> rfl)
@[simp] theorem Task.wx_c : (t.wx r w).c = t.c := by unfold Task.wx; split <;> first | rfl | (split <;> rfl)
@[simp] theorem Task.wx_sh : (t.wx r w).sh = t.sh := by unfold Task.wx; split <;> first | rfl | (split <;> rfl)
@[simp] theorem Task.wx_mg : (t.wx r w).mg = t.mg := by unfold Task.wx; split <;> first | rfl | (split <;> rfl)
@[simp] theorem Task.wx_fstat : (t.wx r w).fstat = t.fstat := by unfold Task.wx; split <;> first | rfl | (split <;> rfl)
@[simp] theorem Task.wx_gang : (t.wx r w).gang = t.gang := by unfold Task.wx; split <;> first | rfl | (split <;> rfl)
@[simp] theorem Task.wx_gangDone : (t.wx r w).gangDone = t.gangDone := by unfold Task.wx; split <;> first | rfl | (split <;> rfl)
@[simp] theorem Task.wx_fusing : (t.wx r w).fusing = t.fusing := by unfold Task.wx; split <;> first | rfl | (split <;> rfl)
@[simp] theorem Task.wx_termdone : (t.wx r w).termdone = t.termdone := by unfold Task.wx; split <;> first | rfl | (split <;> rfl)
@[simp] theorem Task.wx_rngwrap : (t.wx r w).rngwrap = t.rngwrap := by unfold Task.wx; split <;> first | rfl | (split <;> rfl)
@[simp] theorem Task.wx_cycle : (t.wx r w).cycle = t.cycle := by unfold Task.wx; split <;> first | rfl | (split <;> rfl)
@[simp] theorem Task.wx_tile : (t.wx r w).tile = t.tile := by unfold Task.wx; split <;> first | rfl | (split <;> rfl)
@[simp] theorem Task.wx_upmask : (t.wx r w).upmask = t.upmask := by unfold Task.wx; split <;> first | rfl | (split <;> rfl)
@[simp] theorem Task.wx_upvec : (t.wx r w).upvec = t.upvec := by unfold Task.wx; split <;> first | rfl | (split <;> rfl)
@[simp] theorem Task.wx_uivec : (t.wx r w).uivec = t.uivec := by unfold Task.wx; split <;> first | rfl | (split <;> rfl)
@[simp] theorem Task.wx_upepc : (t.wx r w).upepc = t.upepc := by unfold Task.wx; split <;> first | rfl | (split <;> rfl)
@[simp] theorem Task.wx_upcause : (t.wx r w).upcause = t.upcause := by unfold Task.wx; split <;> first | rfl | (split <;> rfl)
@[simp] theorem Task.wx_upaddr : (t.wx r w).upaddr = t.upaddr := by unfold Task.wx; split <;> first | rfl | (split <;> rfl)
@[simp] theorem Task.wx_upinfo : (t.wx r w).upinfo = t.upinfo := by unfold Task.wx; split <;> first | rfl | (split <;> rfl)
@[simp] theorem Task.wx_uiepc : (t.wx r w).uiepc = t.uiepc := by unfold Task.wx; split <;> first | rfl | (split <;> rfl)
@[simp] theorem Task.wx_uictr : (t.wx r w).uictr = t.uictr := by unfold Task.wx; split <;> first | rfl | (split <;> rfl)
@[simp] theorem Task.wx_rep : (t.wx r w).rep = t.rep := by unfold Task.wx; split <;> first | rfl | (split <;> rfl)
@[simp] theorem Task.wx_inBody : (t.wx r w).inBody = t.inBody := by unfold Task.wx; split <;> first | rfl | (split <;> rfl)
@[simp] theorem Task.wx_rngc : (t.wx r w).rngc = t.rngc := by unfold Task.wx; split <;> first | rfl | (split <;> rfl)
@[simp] theorem Task.wx_win : (t.wx r w).win = t.win := by unfold Task.wx; split <;> first | rfl | (split <;> rfl)
@[simp] theorem Task.wx_notices : (t.wx r w).notices = t.notices := by unfold Task.wx; split <;> first | rfl | (split <;> rfl)
@[simp] theorem Task.wx_arrived : (t.wx r w).arrived = t.arrived := by unfold Task.wx; split <;> first | rfl | (split <;> rfl)
@[simp] theorem Task.wx_requests : (t.wx r w).requests = t.requests := by unfold Task.wx; split <;> first | rfl | (split <;> rfl)
@[simp] theorem Task.wx_dta : (t.wx r w).dta = t.dta := by unfold Task.wx; split <;> first | rfl | (split <;> rfl)
@[simp] theorem Task.wx_dtb : (t.wx r w).dtb = t.dtb := by unfold Task.wx; split <;> first | rfl | (split <;> rfl)
@[simp] theorem Task.wx_scratch : (t.wx r w).scratch = t.scratch := by unfold Task.wx; split <;> first | rfl | (split <;> rfl)
@[simp] theorem Task.wx_slots : (t.wx r w).slots = t.slots := by unfold Task.wx; split <;> first | rfl | (split <;> rfl)
@[simp] theorem Task.wx_acc : (t.wx r w).acc = t.acc := by unfold Task.wx; split <;> first | rfl | (split <;> rfl)
@[simp] theorem Task.wx_accStamp : (t.wx r w).accStamp = t.accStamp := by unfold Task.wx; split <;> first | rfl | (split <;> rfl)
@[simp] theorem Task.wx_caps : (t.wx r w).caps = t.caps := by unfold Task.wx; split <;> first | rfl | (split <;> rfl)
@[simp] theorem Task.wx_mseq : (t.wx r w).mseq = t.mseq := by unfold Task.wx; split <;> first | rfl | (split <;> rfl)
@[simp] theorem Task.wx_steps : (t.wx r w).steps = t.steps := by unfold Task.wx; split <;> first | rfl | (split <;> rfl)
@[simp] theorem Task.wx_guests : (t.wx r w).guests = t.guests := by unfold Task.wx; split <;> first | rfl | (split <;> rfl)
@[simp] theorem Task.wx_batches : (t.wx r w).batches = t.batches := by unfold Task.wx; split <;> first | rfl | (split <;> rfl)
@[simp] theorem Task.wx_commits : (t.wx r w).commits = t.commits := by unfold Task.wx; split <;> first | rfl | (split <;> rfl)
@[simp] theorem Task.wx_cseq : (t.wx r w).cseq = t.cseq := by unfold Task.wx; split <;> first | rfl | (split <;> rfl)
@[simp] theorem Task.wx_copies : (t.wx r w).copies = t.copies := by unfold Task.wx; split <;> first | rfl | (split <;> rfl)
@[simp] theorem Task.wx_replay : (t.wx r w).replay = t.replay := by unfold Task.wx; split <;> first | rfl | (split <;> rfl)
@[simp] theorem Task.wx_held : (t.wx r w).held = t.held := by unfold Task.wx; split <;> first | rfl | (split <;> rfl)
@[simp] theorem Task.wx_asyncs : (t.wx r w).asyncs = t.asyncs := by unfold Task.wx; split <;> first | rfl | (split <;> rfl)
@[simp] theorem Task.wx_wait : (t.wx r w).wait = t.wait := by unfold Task.wx; split <;> first | rfl | (split <;> rfl)
@[simp] theorem Task.wx_lease : (t.wx r w).lease = t.lease := by unfold Task.wx; split <;> first | rfl | (split <;> rfl)
@[simp] theorem Task.wx_xphase : (t.wx r w).xphase = t.xphase := by unfold Task.wx; split <;> first | rfl | (split <;> rfl)
@[simp] theorem Task.wx_scratchBad : (t.wx r w).scratchBad = t.scratchBad := by unfold Task.wx; split <;> first | rfl | (split <;> rfl)
@[simp] theorem Task.wx_mlocal : (t.wx r w).mlocal = t.mlocal := by unfold Task.wx; split <;> first | rfl | (split <;> rfl)
@[simp] theorem Task.wx_mremote : (t.wx r w).mremote = t.mremote := by unfold Task.wx; split <;> first | rfl | (split <;> rfl)
@[simp] theorem Task.wx_mnext : (t.wx r w).mnext = t.mnext := by unfold Task.wx; split <;> first | rfl | (split <;> rfl)
@[simp] theorem Task.wx_malt : (t.wx r w).malt = t.malt := by unfold Task.wx; split <;> first | rfl | (split <;> rfl)
@[simp] theorem Task.wx_accBad : (t.wx r w).accBad = t.accBad := by unfold Task.wx; split <;> first | rfl | (split <;> rfl)
@[simp] theorem Task.wx_wlast : (t.wx r w).wlast = t.wlast := by unfold Task.wx; split <;> first | rfl | (split <;> rfl)
@[simp] theorem Task.wx_mlast : (t.wx r w).mlast = t.mlast := by unfold Task.wx; split <;> first | rfl | (split <;> rfl)
@[simp] theorem Task.wx_xlast : (t.wx r w).xlast = t.xlast := by unfold Task.wx; split <;> first | rfl | (split <;> rfl)
@[simp] theorem Task.wx_area : (t.wx r w).area = t.area := by unfold Task.wx; split <;> first | rfl | (split <;> rfl)
@[simp] theorem Task.wx_dphase : (t.wx r w).dphase = t.dphase := by unfold Task.wx; split <;> first | rfl | (split <;> rfl)
@[simp] theorem Task.wx_sent : (t.wx r w).sent = t.sent := by unfold Task.wx; split <;> first | rfl | (split <;> rfl)
@[simp] theorem Task.wx_ran : (t.wx r w).ran = t.ran := by unfold Task.wx; split <;> first | rfl | (split <;> rfl)
@[simp] theorem Task.wx_slice : (t.wx r w).slice = t.slice := by unfold Task.wx; split <;> first | rfl | (split <;> rfl)
@[simp] theorem Task.wx_draining : (t.wx r w).draining = t.draining := by unfold Task.wx; split <;> first | rfl | (split <;> rfl)
@[simp] theorem Task.wx_drainFrom : (t.wx r w).drainFrom = t.drainFrom := by unfold Task.wx; split <;> first | rfl | (split <;> rfl)
@[simp] theorem Task.wx_trap : (t.wx r w).trap = t.trap := by unfold Task.wx; split <;> first | rfl | (split <;> rfl)
@[simp] theorem Task.wx_reported : (t.wx r w).reported = t.reported := by unfold Task.wx; split <;> first | rfl | (split <;> rfl)
@[simp] theorem Task.wx_begun : (t.wx r w).begun = t.begun := by unfold Task.wx; split <;> first | rfl | (split <;> rfl)
@[simp] theorem Task.wv_st : (t.wv r y).st = t.st := rfl
@[simp] theorem Task.wv_launch : (t.wv r y).launch = t.launch := rfl
@[simp] theorem Task.wv_handle : (t.wv r y).handle = t.handle := rfl
@[simp] theorem Task.wv_index : (t.wv r y).index = t.index := rfl
@[simp] theorem Task.wv_determinate : (t.wv r y).determinate = t.determinate := rfl
@[simp] theorem Task.wv_termdetect : (t.wv r y).termdetect = t.termdetect := rfl
@[simp] theorem Task.wv_pc : (t.wv r y).pc = t.pc := rfl
@[simp] theorem Task.wv_x : (t.wv r y).x = t.x := rfl
@[simp] theorem Task.wv_xs : (t.wv r y).xs = t.xs := rfl
@[simp] theorem Task.wv_handling : (t.wv r y).handling = t.handling := rfl
@[simp] theorem Task.wv_k : (t.wv r y).k = t.k := rfl
@[simp] theorem Task.wv_q : (t.wv r y).q = t.q := rfl
@[simp] theorem Task.wv_c : (t.wv r y).c = t.c := rfl
@[simp] theorem Task.wv_sh : (t.wv r y).sh = t.sh := rfl
@[simp] theorem Task.wv_mg : (t.wv r y).mg = t.mg := rfl
@[simp] theorem Task.wv_fstat : (t.wv r y).fstat = t.fstat := rfl
@[simp] theorem Task.wv_gang : (t.wv r y).gang = t.gang := rfl
@[simp] theorem Task.wv_gangDone : (t.wv r y).gangDone = t.gangDone := rfl
@[simp] theorem Task.wv_fusing : (t.wv r y).fusing = t.fusing := rfl
@[simp] theorem Task.wv_termdone : (t.wv r y).termdone = t.termdone := rfl
@[simp] theorem Task.wv_rngwrap : (t.wv r y).rngwrap = t.rngwrap := rfl
@[simp] theorem Task.wv_cycle : (t.wv r y).cycle = t.cycle := rfl
@[simp] theorem Task.wv_tile : (t.wv r y).tile = t.tile := rfl
@[simp] theorem Task.wv_upmask : (t.wv r y).upmask = t.upmask := rfl
@[simp] theorem Task.wv_upvec : (t.wv r y).upvec = t.upvec := rfl
@[simp] theorem Task.wv_uivec : (t.wv r y).uivec = t.uivec := rfl
@[simp] theorem Task.wv_upepc : (t.wv r y).upepc = t.upepc := rfl
@[simp] theorem Task.wv_upcause : (t.wv r y).upcause = t.upcause := rfl
@[simp] theorem Task.wv_upaddr : (t.wv r y).upaddr = t.upaddr := rfl
@[simp] theorem Task.wv_upinfo : (t.wv r y).upinfo = t.upinfo := rfl
@[simp] theorem Task.wv_uiepc : (t.wv r y).uiepc = t.uiepc := rfl
@[simp] theorem Task.wv_uictr : (t.wv r y).uictr = t.uictr := rfl
@[simp] theorem Task.wv_rep : (t.wv r y).rep = t.rep := rfl
@[simp] theorem Task.wv_inBody : (t.wv r y).inBody = t.inBody := rfl
@[simp] theorem Task.wv_rngc : (t.wv r y).rngc = t.rngc := rfl
@[simp] theorem Task.wv_win : (t.wv r y).win = t.win := rfl
@[simp] theorem Task.wv_notices : (t.wv r y).notices = t.notices := rfl
@[simp] theorem Task.wv_arrived : (t.wv r y).arrived = t.arrived := rfl
@[simp] theorem Task.wv_requests : (t.wv r y).requests = t.requests := rfl
@[simp] theorem Task.wv_dta : (t.wv r y).dta = t.dta := rfl
@[simp] theorem Task.wv_dtb : (t.wv r y).dtb = t.dtb := rfl
@[simp] theorem Task.wv_scratch : (t.wv r y).scratch = t.scratch := rfl
@[simp] theorem Task.wv_slots : (t.wv r y).slots = t.slots := rfl
@[simp] theorem Task.wv_acc : (t.wv r y).acc = t.acc := rfl
@[simp] theorem Task.wv_accStamp : (t.wv r y).accStamp = t.accStamp := rfl
@[simp] theorem Task.wv_caps : (t.wv r y).caps = t.caps := rfl
@[simp] theorem Task.wv_mseq : (t.wv r y).mseq = t.mseq := rfl
@[simp] theorem Task.wv_steps : (t.wv r y).steps = t.steps := rfl
@[simp] theorem Task.wv_guests : (t.wv r y).guests = t.guests := rfl
@[simp] theorem Task.wv_batches : (t.wv r y).batches = t.batches := rfl
@[simp] theorem Task.wv_commits : (t.wv r y).commits = t.commits := rfl
@[simp] theorem Task.wv_cseq : (t.wv r y).cseq = t.cseq := rfl
@[simp] theorem Task.wv_copies : (t.wv r y).copies = t.copies := rfl
@[simp] theorem Task.wv_replay : (t.wv r y).replay = t.replay := rfl
@[simp] theorem Task.wv_held : (t.wv r y).held = t.held := rfl
@[simp] theorem Task.wv_asyncs : (t.wv r y).asyncs = t.asyncs := rfl
@[simp] theorem Task.wv_wait : (t.wv r y).wait = t.wait := rfl
@[simp] theorem Task.wv_lease : (t.wv r y).lease = t.lease := rfl
@[simp] theorem Task.wv_xphase : (t.wv r y).xphase = t.xphase := rfl
@[simp] theorem Task.wv_scratchBad : (t.wv r y).scratchBad = t.scratchBad := rfl
@[simp] theorem Task.wv_mlocal : (t.wv r y).mlocal = t.mlocal := rfl
@[simp] theorem Task.wv_mremote : (t.wv r y).mremote = t.mremote := rfl
@[simp] theorem Task.wv_mnext : (t.wv r y).mnext = t.mnext := rfl
@[simp] theorem Task.wv_malt : (t.wv r y).malt = t.malt := rfl
@[simp] theorem Task.wv_accBad : (t.wv r y).accBad = t.accBad := rfl
@[simp] theorem Task.wv_wlast : (t.wv r y).wlast = t.wlast := rfl
@[simp] theorem Task.wv_mlast : (t.wv r y).mlast = t.mlast := rfl
@[simp] theorem Task.wv_xlast : (t.wv r y).xlast = t.xlast := rfl
@[simp] theorem Task.wv_area : (t.wv r y).area = t.area := rfl
@[simp] theorem Task.wv_dphase : (t.wv r y).dphase = t.dphase := rfl
@[simp] theorem Task.wv_sent : (t.wv r y).sent = t.sent := rfl
@[simp] theorem Task.wv_ran : (t.wv r y).ran = t.ran := rfl
@[simp] theorem Task.wv_slice : (t.wv r y).slice = t.slice := rfl
@[simp] theorem Task.wv_draining : (t.wv r y).draining = t.draining := rfl
@[simp] theorem Task.wv_drainFrom : (t.wv r y).drainFrom = t.drainFrom := rfl
@[simp] theorem Task.wv_trap : (t.wv r y).trap = t.trap := rfl
@[simp] theorem Task.wv_reported : (t.wv r y).reported = t.reported := rfl
@[simp] theorem Task.wv_begun : (t.wv r y).begun = t.begun := rfl
@[simp] theorem Task.wv_v : (t.wv r y).v = t.v.set r.val y := rfl
@[simp] theorem Task.wk_st : (t.wk k w).st = t.st := by unfold Task.wk; split <;> rfl
@[simp] theorem Task.wk_launch : (t.wk k w).launch = t.launch := by unfold Task.wk; split <;> rfl
@[simp] theorem Task.wk_handle : (t.wk k w).handle = t.handle := by unfold Task.wk; split <;> rfl
@[simp] theorem Task.wk_index : (t.wk k w).index = t.index := by unfold Task.wk; split <;> rfl
@[simp] theorem Task.wk_determinate : (t.wk k w).determinate = t.determinate := by unfold Task.wk; split <;> rfl
@[simp] theorem Task.wk_termdetect : (t.wk k w).termdetect = t.termdetect := by unfold Task.wk; split <;> rfl
@[simp] theorem Task.wk_pc : (t.wk k w).pc = t.pc := by unfold Task.wk; split <;> rfl
@[simp] theorem Task.wk_x : (t.wk k w).x = t.x := by unfold Task.wk; split <;> rfl
@[simp] theorem Task.wk_xs : (t.wk k w).xs = t.xs := by unfold Task.wk; split <;> rfl
@[simp] theorem Task.wk_handling : (t.wk k w).handling = t.handling := by unfold Task.wk; split <;> rfl
@[simp] theorem Task.wk_v : (t.wk k w).v = t.v := by unfold Task.wk; split <;> rfl
@[simp] theorem Task.wk_q : (t.wk k w).q = t.q := by unfold Task.wk; split <;> rfl
@[simp] theorem Task.wk_c : (t.wk k w).c = t.c := by unfold Task.wk; split <;> rfl
@[simp] theorem Task.wk_sh : (t.wk k w).sh = t.sh := by unfold Task.wk; split <;> rfl
@[simp] theorem Task.wk_mg : (t.wk k w).mg = t.mg := by unfold Task.wk; split <;> rfl
@[simp] theorem Task.wk_fstat : (t.wk k w).fstat = t.fstat := by unfold Task.wk; split <;> rfl
@[simp] theorem Task.wk_gang : (t.wk k w).gang = t.gang := by unfold Task.wk; split <;> rfl
@[simp] theorem Task.wk_gangDone : (t.wk k w).gangDone = t.gangDone := by unfold Task.wk; split <;> rfl
@[simp] theorem Task.wk_fusing : (t.wk k w).fusing = t.fusing := by unfold Task.wk; split <;> rfl
@[simp] theorem Task.wk_termdone : (t.wk k w).termdone = t.termdone := by unfold Task.wk; split <;> rfl
@[simp] theorem Task.wk_rngwrap : (t.wk k w).rngwrap = t.rngwrap := by unfold Task.wk; split <;> rfl
@[simp] theorem Task.wk_cycle : (t.wk k w).cycle = t.cycle := by unfold Task.wk; split <;> rfl
@[simp] theorem Task.wk_tile : (t.wk k w).tile = t.tile := by unfold Task.wk; split <;> rfl
@[simp] theorem Task.wk_upmask : (t.wk k w).upmask = t.upmask := by unfold Task.wk; split <;> rfl
@[simp] theorem Task.wk_upvec : (t.wk k w).upvec = t.upvec := by unfold Task.wk; split <;> rfl
@[simp] theorem Task.wk_uivec : (t.wk k w).uivec = t.uivec := by unfold Task.wk; split <;> rfl
@[simp] theorem Task.wk_upepc : (t.wk k w).upepc = t.upepc := by unfold Task.wk; split <;> rfl
@[simp] theorem Task.wk_upcause : (t.wk k w).upcause = t.upcause := by unfold Task.wk; split <;> rfl
@[simp] theorem Task.wk_upaddr : (t.wk k w).upaddr = t.upaddr := by unfold Task.wk; split <;> rfl
@[simp] theorem Task.wk_upinfo : (t.wk k w).upinfo = t.upinfo := by unfold Task.wk; split <;> rfl
@[simp] theorem Task.wk_uiepc : (t.wk k w).uiepc = t.uiepc := by unfold Task.wk; split <;> rfl
@[simp] theorem Task.wk_uictr : (t.wk k w).uictr = t.uictr := by unfold Task.wk; split <;> rfl
@[simp] theorem Task.wk_rep : (t.wk k w).rep = t.rep := by unfold Task.wk; split <;> rfl
@[simp] theorem Task.wk_inBody : (t.wk k w).inBody = t.inBody := by unfold Task.wk; split <;> rfl
@[simp] theorem Task.wk_rngc : (t.wk k w).rngc = t.rngc := by unfold Task.wk; split <;> rfl
@[simp] theorem Task.wk_win : (t.wk k w).win = t.win := by unfold Task.wk; split <;> rfl
@[simp] theorem Task.wk_notices : (t.wk k w).notices = t.notices := by unfold Task.wk; split <;> rfl
@[simp] theorem Task.wk_arrived : (t.wk k w).arrived = t.arrived := by unfold Task.wk; split <;> rfl
@[simp] theorem Task.wk_requests : (t.wk k w).requests = t.requests := by unfold Task.wk; split <;> rfl
@[simp] theorem Task.wk_dta : (t.wk k w).dta = t.dta := by unfold Task.wk; split <;> rfl
@[simp] theorem Task.wk_dtb : (t.wk k w).dtb = t.dtb := by unfold Task.wk; split <;> rfl
@[simp] theorem Task.wk_scratch : (t.wk k w).scratch = t.scratch := by unfold Task.wk; split <;> rfl
@[simp] theorem Task.wk_slots : (t.wk k w).slots = t.slots := by unfold Task.wk; split <;> rfl
@[simp] theorem Task.wk_acc : (t.wk k w).acc = t.acc := by unfold Task.wk; split <;> rfl
@[simp] theorem Task.wk_accStamp : (t.wk k w).accStamp = t.accStamp := by unfold Task.wk; split <;> rfl
@[simp] theorem Task.wk_caps : (t.wk k w).caps = t.caps := by unfold Task.wk; split <;> rfl
@[simp] theorem Task.wk_mseq : (t.wk k w).mseq = t.mseq := by unfold Task.wk; split <;> rfl
@[simp] theorem Task.wk_steps : (t.wk k w).steps = t.steps := by unfold Task.wk; split <;> rfl
@[simp] theorem Task.wk_guests : (t.wk k w).guests = t.guests := by unfold Task.wk; split <;> rfl
@[simp] theorem Task.wk_batches : (t.wk k w).batches = t.batches := by unfold Task.wk; split <;> rfl
@[simp] theorem Task.wk_commits : (t.wk k w).commits = t.commits := by unfold Task.wk; split <;> rfl
@[simp] theorem Task.wk_cseq : (t.wk k w).cseq = t.cseq := by unfold Task.wk; split <;> rfl
@[simp] theorem Task.wk_copies : (t.wk k w).copies = t.copies := by unfold Task.wk; split <;> rfl
@[simp] theorem Task.wk_replay : (t.wk k w).replay = t.replay := by unfold Task.wk; split <;> rfl
@[simp] theorem Task.wk_held : (t.wk k w).held = t.held := by unfold Task.wk; split <;> rfl
@[simp] theorem Task.wk_asyncs : (t.wk k w).asyncs = t.asyncs := by unfold Task.wk; split <;> rfl
@[simp] theorem Task.wk_wait : (t.wk k w).wait = t.wait := by unfold Task.wk; split <;> rfl
@[simp] theorem Task.wk_lease : (t.wk k w).lease = t.lease := by unfold Task.wk; split <;> rfl
@[simp] theorem Task.wk_xphase : (t.wk k w).xphase = t.xphase := by unfold Task.wk; split <;> rfl
@[simp] theorem Task.wk_scratchBad : (t.wk k w).scratchBad = t.scratchBad := by unfold Task.wk; split <;> rfl
@[simp] theorem Task.wk_mlocal : (t.wk k w).mlocal = t.mlocal := by unfold Task.wk; split <;> rfl
@[simp] theorem Task.wk_mremote : (t.wk k w).mremote = t.mremote := by unfold Task.wk; split <;> rfl
@[simp] theorem Task.wk_mnext : (t.wk k w).mnext = t.mnext := by unfold Task.wk; split <;> rfl
@[simp] theorem Task.wk_malt : (t.wk k w).malt = t.malt := by unfold Task.wk; split <;> rfl
@[simp] theorem Task.wk_accBad : (t.wk k w).accBad = t.accBad := by unfold Task.wk; split <;> rfl
@[simp] theorem Task.wk_wlast : (t.wk k w).wlast = t.wlast := by unfold Task.wk; split <;> rfl
@[simp] theorem Task.wk_mlast : (t.wk k w).mlast = t.mlast := by unfold Task.wk; split <;> rfl
@[simp] theorem Task.wk_xlast : (t.wk k w).xlast = t.xlast := by unfold Task.wk; split <;> rfl
@[simp] theorem Task.wk_area : (t.wk k w).area = t.area := by unfold Task.wk; split <;> rfl
@[simp] theorem Task.wk_dphase : (t.wk k w).dphase = t.dphase := by unfold Task.wk; split <;> rfl
@[simp] theorem Task.wk_sent : (t.wk k w).sent = t.sent := by unfold Task.wk; split <;> rfl
@[simp] theorem Task.wk_ran : (t.wk k w).ran = t.ran := by unfold Task.wk; split <;> rfl
@[simp] theorem Task.wk_slice : (t.wk k w).slice = t.slice := by unfold Task.wk; split <;> rfl
@[simp] theorem Task.wk_draining : (t.wk k w).draining = t.draining := by unfold Task.wk; split <;> rfl
@[simp] theorem Task.wk_drainFrom : (t.wk k w).drainFrom = t.drainFrom := by unfold Task.wk; split <;> rfl
@[simp] theorem Task.wk_trap : (t.wk k w).trap = t.trap := by unfold Task.wk; split <;> rfl
@[simp] theorem Task.wk_reported : (t.wk k w).reported = t.reported := by unfold Task.wk; split <;> rfl
@[simp] theorem Task.wk_begun : (t.wk k w).begun = t.begun := by unfold Task.wk; split <;> rfl
@[simp] theorem Task.orFlags_st : (t.orFlags e).st = t.st := rfl
@[simp] theorem Task.orFlags_launch : (t.orFlags e).launch = t.launch := rfl
@[simp] theorem Task.orFlags_handle : (t.orFlags e).handle = t.handle := rfl
@[simp] theorem Task.orFlags_index : (t.orFlags e).index = t.index := rfl
@[simp] theorem Task.orFlags_determinate : (t.orFlags e).determinate = t.determinate := rfl
@[simp] theorem Task.orFlags_termdetect : (t.orFlags e).termdetect = t.termdetect := rfl
@[simp] theorem Task.orFlags_pc : (t.orFlags e).pc = t.pc := rfl
@[simp] theorem Task.orFlags_x : (t.orFlags e).x = t.x := rfl
@[simp] theorem Task.orFlags_xs : (t.orFlags e).xs = t.xs := rfl
@[simp] theorem Task.orFlags_handling : (t.orFlags e).handling = t.handling := rfl
@[simp] theorem Task.orFlags_v : (t.orFlags e).v = t.v := rfl
@[simp] theorem Task.orFlags_k : (t.orFlags e).k = t.k := rfl
@[simp] theorem Task.orFlags_q : (t.orFlags e).q = t.q := rfl
@[simp] theorem Task.orFlags_c : (t.orFlags e).c = t.c := rfl
@[simp] theorem Task.orFlags_sh : (t.orFlags e).sh = t.sh := rfl
@[simp] theorem Task.orFlags_mg : (t.orFlags e).mg = t.mg := rfl
@[simp] theorem Task.orFlags_gang : (t.orFlags e).gang = t.gang := rfl
@[simp] theorem Task.orFlags_gangDone : (t.orFlags e).gangDone = t.gangDone := rfl
@[simp] theorem Task.orFlags_fusing : (t.orFlags e).fusing = t.fusing := rfl
@[simp] theorem Task.orFlags_termdone : (t.orFlags e).termdone = t.termdone := rfl
@[simp] theorem Task.orFlags_rngwrap : (t.orFlags e).rngwrap = t.rngwrap := rfl
@[simp] theorem Task.orFlags_cycle : (t.orFlags e).cycle = t.cycle := rfl
@[simp] theorem Task.orFlags_tile : (t.orFlags e).tile = t.tile := rfl
@[simp] theorem Task.orFlags_upmask : (t.orFlags e).upmask = t.upmask := rfl
@[simp] theorem Task.orFlags_upvec : (t.orFlags e).upvec = t.upvec := rfl
@[simp] theorem Task.orFlags_uivec : (t.orFlags e).uivec = t.uivec := rfl
@[simp] theorem Task.orFlags_upepc : (t.orFlags e).upepc = t.upepc := rfl
@[simp] theorem Task.orFlags_upcause : (t.orFlags e).upcause = t.upcause := rfl
@[simp] theorem Task.orFlags_upaddr : (t.orFlags e).upaddr = t.upaddr := rfl
@[simp] theorem Task.orFlags_upinfo : (t.orFlags e).upinfo = t.upinfo := rfl
@[simp] theorem Task.orFlags_uiepc : (t.orFlags e).uiepc = t.uiepc := rfl
@[simp] theorem Task.orFlags_uictr : (t.orFlags e).uictr = t.uictr := rfl
@[simp] theorem Task.orFlags_rep : (t.orFlags e).rep = t.rep := rfl
@[simp] theorem Task.orFlags_inBody : (t.orFlags e).inBody = t.inBody := rfl
@[simp] theorem Task.orFlags_rngc : (t.orFlags e).rngc = t.rngc := rfl
@[simp] theorem Task.orFlags_win : (t.orFlags e).win = t.win := rfl
@[simp] theorem Task.orFlags_notices : (t.orFlags e).notices = t.notices := rfl
@[simp] theorem Task.orFlags_arrived : (t.orFlags e).arrived = t.arrived := rfl
@[simp] theorem Task.orFlags_requests : (t.orFlags e).requests = t.requests := rfl
@[simp] theorem Task.orFlags_dta : (t.orFlags e).dta = t.dta := rfl
@[simp] theorem Task.orFlags_dtb : (t.orFlags e).dtb = t.dtb := rfl
@[simp] theorem Task.orFlags_scratch : (t.orFlags e).scratch = t.scratch := rfl
@[simp] theorem Task.orFlags_slots : (t.orFlags e).slots = t.slots := rfl
@[simp] theorem Task.orFlags_acc : (t.orFlags e).acc = t.acc := rfl
@[simp] theorem Task.orFlags_accStamp : (t.orFlags e).accStamp = t.accStamp := rfl
@[simp] theorem Task.orFlags_caps : (t.orFlags e).caps = t.caps := rfl
@[simp] theorem Task.orFlags_mseq : (t.orFlags e).mseq = t.mseq := rfl
@[simp] theorem Task.orFlags_steps : (t.orFlags e).steps = t.steps := rfl
@[simp] theorem Task.orFlags_guests : (t.orFlags e).guests = t.guests := rfl
@[simp] theorem Task.orFlags_batches : (t.orFlags e).batches = t.batches := rfl
@[simp] theorem Task.orFlags_commits : (t.orFlags e).commits = t.commits := rfl
@[simp] theorem Task.orFlags_cseq : (t.orFlags e).cseq = t.cseq := rfl
@[simp] theorem Task.orFlags_copies : (t.orFlags e).copies = t.copies := rfl
@[simp] theorem Task.orFlags_replay : (t.orFlags e).replay = t.replay := rfl
@[simp] theorem Task.orFlags_held : (t.orFlags e).held = t.held := rfl
@[simp] theorem Task.orFlags_asyncs : (t.orFlags e).asyncs = t.asyncs := rfl
@[simp] theorem Task.orFlags_wait : (t.orFlags e).wait = t.wait := rfl
@[simp] theorem Task.orFlags_lease : (t.orFlags e).lease = t.lease := rfl
@[simp] theorem Task.orFlags_xphase : (t.orFlags e).xphase = t.xphase := rfl
@[simp] theorem Task.orFlags_scratchBad : (t.orFlags e).scratchBad = t.scratchBad := rfl
@[simp] theorem Task.orFlags_mlocal : (t.orFlags e).mlocal = t.mlocal := rfl
@[simp] theorem Task.orFlags_mremote : (t.orFlags e).mremote = t.mremote := rfl
@[simp] theorem Task.orFlags_mnext : (t.orFlags e).mnext = t.mnext := rfl
@[simp] theorem Task.orFlags_malt : (t.orFlags e).malt = t.malt := rfl
@[simp] theorem Task.orFlags_accBad : (t.orFlags e).accBad = t.accBad := rfl
@[simp] theorem Task.orFlags_wlast : (t.orFlags e).wlast = t.wlast := rfl
@[simp] theorem Task.orFlags_mlast : (t.orFlags e).mlast = t.mlast := rfl
@[simp] theorem Task.orFlags_xlast : (t.orFlags e).xlast = t.xlast := rfl
@[simp] theorem Task.orFlags_area : (t.orFlags e).area = t.area := rfl
@[simp] theorem Task.orFlags_dphase : (t.orFlags e).dphase = t.dphase := rfl
@[simp] theorem Task.orFlags_sent : (t.orFlags e).sent = t.sent := rfl
@[simp] theorem Task.orFlags_ran : (t.orFlags e).ran = t.ran := rfl
@[simp] theorem Task.orFlags_slice : (t.orFlags e).slice = t.slice := rfl
@[simp] theorem Task.orFlags_draining : (t.orFlags e).draining = t.draining := rfl
@[simp] theorem Task.orFlags_drainFrom : (t.orFlags e).drainFrom = t.drainFrom := rfl
@[simp] theorem Task.orFlags_trap : (t.orFlags e).trap = t.trap := rfl
@[simp] theorem Task.orFlags_reported : (t.orFlags e).reported = t.reported := rfl
@[simp] theorem Task.orFlags_begun : (t.orFlags e).begun = t.begun := rfl
@[simp] theorem Task.orFlags_fstat : (t.orFlags e).fstat = t.fstat ||| e := rfl
@[simp] theorem Task.advance_st : t.advance.st = t.st := by unfold Task.advance; split <;> rfl
@[simp] theorem Task.advance_launch : t.advance.launch = t.launch := by unfold Task.advance; split <;> rfl
@[simp] theorem Task.advance_handle : t.advance.handle = t.handle := by unfold Task.advance; split <;> rfl
@[simp] theorem Task.advance_index : t.advance.index = t.index := by unfold Task.advance; split <;> rfl
@[simp] theorem Task.advance_determinate : t.advance.determinate = t.determinate := by unfold Task.advance; split <;> rfl
@[simp] theorem Task.advance_termdetect : t.advance.termdetect = t.termdetect := by unfold Task.advance; split <;> rfl
@[simp] theorem Task.advance_x : t.advance.x = t.x := by unfold Task.advance; split <;> rfl
@[simp] theorem Task.advance_xs : t.advance.xs = t.xs := by unfold Task.advance; split <;> rfl
@[simp] theorem Task.advance_handling : t.advance.handling = t.handling := by unfold Task.advance; split <;> rfl
@[simp] theorem Task.advance_v : t.advance.v = t.v := by unfold Task.advance; split <;> rfl
@[simp] theorem Task.advance_k : t.advance.k = t.k := by unfold Task.advance; split <;> rfl
@[simp] theorem Task.advance_q : t.advance.q = t.q := by unfold Task.advance; split <;> rfl
@[simp] theorem Task.advance_c : t.advance.c = t.c := by unfold Task.advance; split <;> rfl
@[simp] theorem Task.advance_sh : t.advance.sh = t.sh := by unfold Task.advance; split <;> rfl
@[simp] theorem Task.advance_mg : t.advance.mg = t.mg := by unfold Task.advance; split <;> rfl
@[simp] theorem Task.advance_fstat : t.advance.fstat = t.fstat := by unfold Task.advance; split <;> rfl
@[simp] theorem Task.advance_gang : t.advance.gang = t.gang := by unfold Task.advance; split <;> rfl
@[simp] theorem Task.advance_gangDone : t.advance.gangDone = t.gangDone := by unfold Task.advance; split <;> rfl
@[simp] theorem Task.advance_fusing : t.advance.fusing = t.fusing := by unfold Task.advance; split <;> rfl
@[simp] theorem Task.advance_termdone : t.advance.termdone = t.termdone := by unfold Task.advance; split <;> rfl
@[simp] theorem Task.advance_rngwrap : t.advance.rngwrap = t.rngwrap := by unfold Task.advance; split <;> rfl
@[simp] theorem Task.advance_cycle : t.advance.cycle = t.cycle := by unfold Task.advance; split <;> rfl
@[simp] theorem Task.advance_tile : t.advance.tile = t.tile := by unfold Task.advance; split <;> rfl
@[simp] theorem Task.advance_upmask : t.advance.upmask = t.upmask := by unfold Task.advance; split <;> rfl
@[simp] theorem Task.advance_upvec : t.advance.upvec = t.upvec := by unfold Task.advance; split <;> rfl
@[simp] theorem Task.advance_uivec : t.advance.uivec = t.uivec := by unfold Task.advance; split <;> rfl
@[simp] theorem Task.advance_upepc : t.advance.upepc = t.upepc := by unfold Task.advance; split <;> rfl
@[simp] theorem Task.advance_upcause : t.advance.upcause = t.upcause := by unfold Task.advance; split <;> rfl
@[simp] theorem Task.advance_upaddr : t.advance.upaddr = t.upaddr := by unfold Task.advance; split <;> rfl
@[simp] theorem Task.advance_upinfo : t.advance.upinfo = t.upinfo := by unfold Task.advance; split <;> rfl
@[simp] theorem Task.advance_uiepc : t.advance.uiepc = t.uiepc := by unfold Task.advance; split <;> rfl
@[simp] theorem Task.advance_uictr : t.advance.uictr = t.uictr := by unfold Task.advance; split <;> rfl
@[simp] theorem Task.advance_inBody : t.advance.inBody = t.inBody := by unfold Task.advance; split <;> rfl
@[simp] theorem Task.advance_rngc : t.advance.rngc = t.rngc := by unfold Task.advance; split <;> rfl
@[simp] theorem Task.advance_win : t.advance.win = t.win := by unfold Task.advance; split <;> rfl
@[simp] theorem Task.advance_notices : t.advance.notices = t.notices := by unfold Task.advance; split <;> rfl
@[simp] theorem Task.advance_arrived : t.advance.arrived = t.arrived := by unfold Task.advance; split <;> rfl
@[simp] theorem Task.advance_requests : t.advance.requests = t.requests := by unfold Task.advance; split <;> rfl
@[simp] theorem Task.advance_dta : t.advance.dta = t.dta := by unfold Task.advance; split <;> rfl
@[simp] theorem Task.advance_dtb : t.advance.dtb = t.dtb := by unfold Task.advance; split <;> rfl
@[simp] theorem Task.advance_scratch : t.advance.scratch = t.scratch := by unfold Task.advance; split <;> rfl
@[simp] theorem Task.advance_slots : t.advance.slots = t.slots := by unfold Task.advance; split <;> rfl
@[simp] theorem Task.advance_acc : t.advance.acc = t.acc := by unfold Task.advance; split <;> rfl
@[simp] theorem Task.advance_accStamp : t.advance.accStamp = t.accStamp := by unfold Task.advance; split <;> rfl
@[simp] theorem Task.advance_caps : t.advance.caps = t.caps := by unfold Task.advance; split <;> rfl
@[simp] theorem Task.advance_mseq : t.advance.mseq = t.mseq := by unfold Task.advance; split <;> rfl
@[simp] theorem Task.advance_steps : t.advance.steps = t.steps := by unfold Task.advance; split <;> rfl
@[simp] theorem Task.advance_guests : t.advance.guests = t.guests := by unfold Task.advance; split <;> rfl
@[simp] theorem Task.advance_batches : t.advance.batches = t.batches := by unfold Task.advance; split <;> rfl
@[simp] theorem Task.advance_commits : t.advance.commits = t.commits := by unfold Task.advance; split <;> rfl
@[simp] theorem Task.advance_cseq : t.advance.cseq = t.cseq := by unfold Task.advance; split <;> rfl
@[simp] theorem Task.advance_copies : t.advance.copies = t.copies := by unfold Task.advance; split <;> rfl
@[simp] theorem Task.advance_replay : t.advance.replay = t.replay := by unfold Task.advance; split <;> rfl
@[simp] theorem Task.advance_held : t.advance.held = t.held := by unfold Task.advance; split <;> rfl
@[simp] theorem Task.advance_asyncs : t.advance.asyncs = t.asyncs := by unfold Task.advance; split <;> rfl
@[simp] theorem Task.advance_lease : t.advance.lease = t.lease := by unfold Task.advance; split <;> rfl
@[simp] theorem Task.advance_xphase : t.advance.xphase = t.xphase := by unfold Task.advance; split <;> rfl
@[simp] theorem Task.advance_scratchBad : t.advance.scratchBad = t.scratchBad := by unfold Task.advance; split <;> rfl
@[simp] theorem Task.advance_mlocal : t.advance.mlocal = t.mlocal := by unfold Task.advance; split <;> rfl
@[simp] theorem Task.advance_mremote : t.advance.mremote = t.mremote := by unfold Task.advance; split <;> rfl
@[simp] theorem Task.advance_mnext : t.advance.mnext = t.mnext := by unfold Task.advance; split <;> rfl
@[simp] theorem Task.advance_malt : t.advance.malt = t.malt := by unfold Task.advance; split <;> rfl
@[simp] theorem Task.advance_accBad : t.advance.accBad = t.accBad := by unfold Task.advance; split <;> rfl
@[simp] theorem Task.advance_wlast : t.advance.wlast = t.wlast := by unfold Task.advance; split <;> rfl
@[simp] theorem Task.advance_mlast : t.advance.mlast = t.mlast := by unfold Task.advance; split <;> rfl
@[simp] theorem Task.advance_xlast : t.advance.xlast = t.xlast := by unfold Task.advance; split <;> rfl
@[simp] theorem Task.advance_area : t.advance.area = t.area := by unfold Task.advance; split <;> rfl
@[simp] theorem Task.advance_dphase : t.advance.dphase = t.dphase := by unfold Task.advance; split <;> rfl
@[simp] theorem Task.advance_sent : t.advance.sent = t.sent := by unfold Task.advance; split <;> rfl
@[simp] theorem Task.advance_ran : t.advance.ran = t.ran := by unfold Task.advance; split <;> rfl
@[simp] theorem Task.advance_slice : t.advance.slice = t.slice := by unfold Task.advance; split <;> rfl
@[simp] theorem Task.advance_draining : t.advance.draining = t.draining := by unfold Task.advance; split <;> rfl
@[simp] theorem Task.advance_drainFrom : t.advance.drainFrom = t.drainFrom := by unfold Task.advance; split <;> rfl
@[simp] theorem Task.advance_trap : t.advance.trap = t.trap := by unfold Task.advance; split <;> rfl
@[simp] theorem Task.advance_reported : t.advance.reported = t.reported := by unfold Task.advance; split <;> rfl
@[simp] theorem Task.advance_begun : t.advance.begun = t.begun := by unfold Task.advance; split <;> rfl
@[simp] theorem Task.advance_wait : t.advance.wait = .none := by unfold Task.advance; split <;> rfl

end Sys2Proof.Machine
end

