-- ==== Sys2Proof/Laws/Completion.lean ====
section
/-!
SUPPORT. What completing an instruction does (R113, R162), and what the delivery of a cause does (R372, R376, R381), for a
task that is in no gang.
-/
namespace Sys2Proof.Machine

variable {s : State}

/-! ## Registers -/

@[simp] theorem Task.rx_zero (t : Task) : t.rx 0 = 0 := rfl

@[simp] theorem Task.wx_zero (t : Task) (v : Word) : t.wx 0 v = t := rfl

/-- In a handler x24 to x31 are the shadow bank (R376). -/
theorem Task.wx_shadow {t : Task} {d : Reg} (v : Word) (hd : d ≠ 0) (h : t.shadowed = true ∧ 24 ≤ d.val) :
    t.wx d v = { t with xs := t.xs.set (d.val - 24) v } := by
  unfold Task.wx; rw [if_neg hd, dif_pos h]

theorem Task.wx_main {t : Task} {d : Reg} (v : Word) (hd : d ≠ 0) (h : ¬ (t.shadowed = true ∧ 24 ≤ d.val)) :
    t.wx d v = { t with x := t.x.set d.val v } := by
  unfold Task.wx; rw [if_neg hd, dif_neg h]

theorem Task.rx_shadow {t : Task} {r : Reg} (hr : r ≠ 0) (hb : t.inBody = false) (h : t.handling ≠ .none ∧ 24 ≤ r.val) :
    t.rx r = t.xs[r.val - 24] := by
  unfold Task.rx; rw [if_neg hr, if_neg (by simp [hb]), dif_pos h]

theorem Task.rx_main {t : Task} {r : Reg} (hr : r ≠ 0) (hb : t.inBody = false) (h : ¬ (t.handling ≠ .none ∧ 24 ≤ r.val)) :
    t.rx r = t.x[r] := by
  unfold Task.rx; rw [if_neg hr, if_neg (by simp [hb]), dif_neg h]

/-- Outside a repetition body, a handler's instructions name the shadow bank. -/
theorem Task.shadowed_scalar {t : Task} (hb : t.inBody = false) : t.shadowed = true ↔ t.handling ≠ .none := by simp [Task.shadowed, hb]

/-- A register read after a write: the value at its register, and every other register as it was. -/
theorem Task.rx_wx (t : Task) (d r : Reg) (v : Word) (hb : t.inBody = false) :
    (t.wx d v).rx r = if r = d ∧ d ≠ 0 then v else t.rx r := by
  by_cases hd : d = 0
  · simp [hd]
  by_cases hr : r = 0
  · subst hr; simp [Ne.symm hd]
  have hlt := r.isLt
  have dlt := d.isLt
  have hb' : (t.wx d v).inBody = false := by simpa using hb
  by_cases h1 : t.handling ≠ .none ∧ 24 ≤ r.val
  · rw [Task.rx_shadow hr hb' (by simpa using h1), Task.rx_shadow hr hb h1]
    by_cases h2 : t.handling ≠ .none ∧ 24 ≤ d.val
    · have hv : (r = d ↔ d.val - 24 = r.val - 24) := by rw [Fin.ext_iff]; omega
      simp only [Task.wx_shadow v hd (by rw [Task.shadowed_scalar hb]; exact h2), Vector.getElem_set, hv, ne_eq, hd, not_false_eq_true, and_true]
    · have hne : r ≠ d := fun h => h2 (h ▸ h1)
      simp [Task.wx_main v hd (by rw [Task.shadowed_scalar hb]; exact h2), hne]
  · rw [Task.rx_main hr hb' (by simpa using h1), Task.rx_main hr hb h1]
    by_cases h2 : t.handling ≠ .none ∧ 24 ≤ d.val
    · have hne : r ≠ d := fun h => h1 (h ▸ h2)
      simp [Task.wx_shadow v hd (by rw [Task.shadowed_scalar hb]; exact h2), hne]
    · have hv : (r = d ↔ d.val = r.val) := by rw [Fin.ext_iff]; omega
      simp only [Task.wx_main v hd (by rw [Task.shadowed_scalar hb]; exact h2), Fin.getElem_fin, Vector.getElem_set, hv, ne_eq, hd, not_false_eq_true, and_true]

/-! ## Completion -/

theorem gangMark_alone (h : s.task.gang = 0) : gangMark s = s := by simp [gangMark, h]

theorem splitGang_alone (h : s.task.gang = 0) : splitGang s = s := by simp [splitGang, h]

theorem adv_alone (h : s.task.gang = 0) : adv s = s.withTask s.task.advance := by
  unfold adv
  rw [State.modTask_eq]
  exact gangMark_alone (by simpa using h)

theorem advTo_alone (pc : Word) (h : s.task.gang = 0) :
    advTo pc s = s.withTask { s.task with pc := pc, wait := .none } :=
  gangMark_alone (s := s.withTask { s.task with pc := pc, wait := .none }) h

theorem setX_alone (d : Reg) (v : Word) (h : s.task.gang = 0) :
    setX d v s = s.withTask (s.task.wx d v).advance := by
  unfold setX
  rw [State.wx_eq, adv_alone (by simpa using h)]
  rfl

theorem setV_alone (d : Reg) (v : Vec) (f : Flags) (h : s.task.gang = 0) :
    setV d v f s = s.withTask ((s.task.wv d v).orFlags f).advance := by
  unfold setV
  rw [adv_alone (by exact h)]
  rfl

/-! ## Causes -/

/-- A cause other than a page fault, delivered by upcall: the entry of R376 and nothing else. -/
theorem deliver_upcall (c : Cause) (resume : Word) (hg : s.task.gang = 0) (hc : c.code ≠ .pageFault)
    (hb : (s.task.inBody && !s.task.rep.wait.reissues) = false) (ht : s.task.freeze.traps c = false) :
    deliver c resume s = s.withTask (s.task.freeze.enterUpcall c resume) := by
  simp [deliver, splitGang_alone hg, hc, ht, hb]

/-- A body word's cause while the scalar instruction beside it waits for an answer: it is delivered at the next boundary (R164). -/
theorem deliver_later (c : Cause) (resume : Word) (hg : s.task.gang = 0) (hc : c.code ≠ .pageFault)
    (hb : (s.task.inBody && !s.task.rep.wait.reissues) = true) :
    deliver c resume s = s.withTask { s.task.freeze with asyncs := s.task.asyncs ++ [{ c with body := true }] } := by
  simp [deliver, splitGang_alone hg, hc, hb]

@[simp] theorem Task.freeze_traps (t : Task) (c : Cause) : t.freeze.traps c = t.traps c := by
  unfold Task.freeze Task.traps; split <;> rfl

/-- A cause delivered by trap (R381). -/
theorem deliver_trap (c : Cause) (resume : Word) (hg : s.task.gang = 0) (hb : (s.task.inBody && !s.task.rep.wait.reissues) = false)
    (ht : s.task.traps c = true) :
    deliver c resume s = trap c resume (s.task.inBody || c.body) (s.withTask s.task.freeze) := by
  simp [deliver, splitGang_alone hg, ht, hb]

end Sys2Proof.Machine
end

