-- ==== Sys2Proof/Laws/Caches.lean ====
section
/-!
SUPPORT. Loads, fetches and translations change nothing but caches, TLBs and tokens.
-/
namespace Sys2Proof.Machine

/-! ## The relation -/

namespace CachesOnly

theorem refl (s : State) : CachesOnly s s := ⟨rfl, rfl, rfl⟩

theorem trans {s t u : State} (h1 : CachesOnly s t) (h2 : CachesOnly t u) : CachesOnly s u := by
  refine ⟨h2.core.trans h1.core, h2.others.trans h1.others, ?_⟩
  have a := h2.rest
  rw [h1.rest] at a
  exact a

variable {s t : State}

theorem task (h : CachesOnly s t) : t.task = s.task :=
  (congrArg Core.task h.core : t.core.bare.task = s.core.bare.task)
theorem id (h : CachesOnly s t) : t.core.id = s.core.id :=
  (congrArg Core.id h.core : t.core.bare.id = s.core.bare.id)
theorem kind (h : CachesOnly s t) : t.core.kind = s.core.kind :=
  (congrArg Core.kind h.core : t.core.bare.kind = s.core.bare.kind)
theorem place (h : CachesOnly s t) : t.core.place = s.core.place :=
  (congrArg Core.place h.core : t.core.bare.place = s.core.bare.place)
theorem mem (h : CachesOnly s t) : t.mem = s.mem := by rw [h.rest]
theorem now (h : CachesOnly s t) : t.now = s.now := by rw [h.rest]
theorem moves (h : CachesOnly s t) : t.moves = s.moves := by rw [h.rest]
theorem tenants (h : CachesOnly s t) : t.tenants = s.tenants := by rw [h.rest]
theorem pkgs (h : CachesOnly s t) : t.pkgs = s.pkgs := by rw [h.rest]
theorem launches (h : CachesOnly s t) : t.launches = s.launches := by rw [h.rest]
theorem asid (h : CachesOnly s t) : t.asid = s.asid := by
  have hc : t.core.asid = s.core.asid :=
  (congrArg Core.asid h.core : t.core.bare.asid = s.core.bare.asid)
  simp only [State.asid, State.tenant, h.kind, h.id, h.tenants, hc]

/-- A core's caches changed. -/
theorem ofCore (k : Core) (h : k.bare = s.core.bare) : CachesOnly s { s with core := k } := ⟨h, rfl, rfl⟩

end CachesOnly

/-! ## Lines, L1, L2 and TLBs -/

theorem setLine_cachesOnly (l : Line) (v : LineState) (s : State) : CachesOnly s (s.setLine l v) := ⟨rfl, rfl, rfl⟩

theorem noteTlb_cachesOnly (va : Nat) (l : Leaf) (s : State) : CachesOnly s (noteTlb va l s) := by
  unfold noteTlb
  split
  · exact CachesOnly.refl s
  · exact ⟨rfl, rfl, rfl⟩

theorem dropCopy_cachesOnly (l : Line) (h : Holder) (s : State) : CachesOnly s (dropCopy l h s) := by
  unfold dropCopy
  split
  · split
    · exact CachesOnly.refl s
    · dsimp only
      split
      · exact ⟨rfl, rfl, rfl⟩
      · exact CachesOnly.refl s
  · exact CachesOnly.refl s

theorem dropCopies_cachesOnly (l : Line) (s : State) : CachesOnly s (dropCopies l s) := by
  unfold dropCopies
  split
  · exact CachesOnly.refl s
  · have h : ∀ (is : List Nat) (s : State), CachesOnly s (is.foldl (fun s i => dropCopy l (.die (i / 4) (i % 4)) s) s) := by
      intro is
      induction is with
      | nil => exact fun s => CachesOnly.refl s
      | cons i is ih => exact fun s => (dropCopy_cachesOnly _ _ _).trans (ih _)
    exact h _ s

theorem sendAll_cachesOnly (l : Line) (src dst : Holder) (s : State) : CachesOnly s (sendAll l src dst s) := by
  unfold sendAll
  dsimp only
  split
  · exact CachesOnly.refl s
  · exact ((setLine_cachesOnly _ _ s).trans (dropCopy_cachesOnly _ _ _)).trans ⟨rfl, rfl, rfl⟩

theorem touchL2_cachesOnly {pkg die : Nat} {l : Line} {h : Hint} {s t : State} (he : touchL2 pkg die l h s = some t) : CachesOnly s t := by
  unfold touchL2 touchFor at he
  dsimp only at he
  split at he
  · cases he
  · rename_i set' v hr
    cases v with
    | none => cases he; exact ⟨rfl, rfl, rfl⟩
    | some w =>
      cases he
      have h1 : CachesOnly s { s with l2 := mapSet [] s.l2 (l2Key pkg die l) set' } := ⟨rfl, rfl, rfl⟩
      exact h1.trans (sendAll_cachesOnly w.line (.die pkg die) .home _)

theorem homeTouch_cachesOnly {h : Holder} {l : Line} {hint : Hint} {s t : State} (he : homeTouch h l hint s = some t) : CachesOnly s t := by
  unfold homeTouch at he
  split at he
  · exact touchL2_cachesOnly he
  · cases he; exact dropCopies_cachesOnly _ s

theorem l1Remove_bare (p : L1Line → Bool) (k : Core) : (l1Remove p k).bare = k.bare := rfl

theorem acquire_cachesOnly (s : State) : CachesOnly s (acquire s) := ⟨rfl, rfl, rfl⟩

theorem afterLoad_cachesOnly (st : Strength) (s : State) : CachesOnly s (afterLoad st s) := by
  unfold afterLoad
  split
  · exact acquire_cachesOnly s
  · exact CachesOnly.refl s

theorem reverseMap_cachesOnly (l : Line) (asid tag : Nat) (s : State) : CachesOnly s (reverseMap l asid tag s) := by
  refine ⟨rfl, ?_, rfl⟩
  unfold reverseMap
  simp only [List.map_map]
  apply List.map_congr_left
  intro e _
  simp only [Function.comp]
  split <;> rfl

theorem l1Fill_cachesOnly (h : Hint) (e : L1Line) (va : Nat) (s : State) : CachesOnly s (l1Fill h e va s) := by
  unfold l1Fill
  dsimp only
  split
  · exact reverseMap_cachesOnly _ _ _ s
  · exact (reverseMap_cachesOnly _ _ _ s).trans ⟨rfl, rfl, rfl⟩

theorem l1Hit_cachesOnly (h : Hint) (e : L1Line) (va : Nat) (s : State) : CachesOnly s (l1Hit h e va s) := by
  unfold l1Hit
  split
  · exact CachesOnly.refl s
  · exact ⟨rfl, rfl, rfl⟩

theorem l1Store_bare (asid va n : Nat) (f : List Byte → List Byte) (k : Core) : (l1Store asid va n f k).bare = k.bare := by
  unfold l1Store; split <;> rfl

/-- What a store does to L1 copies. -/
theorem storeL1_cachesOnly (leaf : Leaf) (va : Nat) (d : StoreData) (hint : Hint) (s : State) : CachesOnly s (storeL1 leaf va d hint s) := by
  unfold storeL1
  dsimp only
  refine ((reverseMap_cachesOnly (lineOf leaf.pkg (leaf.pa va)) s.asid (va / 64) s).trans ?_).trans (CachesOnly.ofCore _ (l1Store_bare _ _ _ _ _))
  unfold l1StoreHit
  split
  · exact l1Hit_cachesOnly _ _ _ _
  · exact CachesOnly.refl _

/-! ## Accesses -/

/-- An answer of `bind` comes from an answer of each part. -/
theorem Try.bind_ok {α β : Type} {r : Try α} {f : α → Try β} {b : β} (h : r.bind f = .ok b) : ∃ a, r = .ok a ∧ f a = .ok b := by
  cases r with
  | ok a => exact ⟨a, rfl, h⟩
  | cause c => cases h
  | wait w => cases h

/-- A read at a line's home gives the bytes of memory. -/
theorem homeRead_ok {s t : State} {leaf : Leaf} {va n : Nat} {hint : Hint} {p : Word} {bs : List Byte}
    (h : homeRead s leaf va n hint p = .ok (t, bs)) : CachesOnly s t ∧ bs = s.readPhys leaf.pkg (leaf.pa va) n := by
  unfold homeRead at h
  dsimp only at h
  split at h
  · cases h
  split at h
  · cases h
  obtain ⟨st, -, h⟩ := Try.bind_ok h
  split at h
  · cases h
  split at h
  · cases h
  rename_i u hu
  cases h
  have hc := homeTouch_cachesOnly hu
  refine ⟨(setLine_cachesOnly _ _ _).trans hc, ?_⟩
  rfl

theorem loadPhys_cachesOnly {s t : State} {leaf : Leaf} {va n : Nat} {st : Strength} {hint : Hint} {p : Word} {bs : List Byte}
    (h : loadPhys s leaf va n st hint p = .ok (t, bs)) : CachesOnly s t := by
  unfold loadPhys at h
  dsimp only at h
  split at h
  · split at h
    · split at h
      · cases h
      cases h
      exact (noteTlb_cachesOnly _ _ s).trans (l1Hit_cachesOnly _ _ _ _)
    · obtain ⟨⟨u, b⟩, hu, h⟩ := Try.bind_ok h
      cases h
      exact ((noteTlb_cachesOnly _ _ s).trans (homeRead_ok hu).1).trans (l1Fill_cachesOnly _ _ _ _)
  · exact (noteTlb_cachesOnly _ _ s).trans (homeRead_ok h).1

theorem switchTo_mem (c : CoreId) (s : State) : (switchTo c s).mem = s.mem := by
  unfold switchTo; split
  · rfl
  · split <;> rfl

/-- A task changed on some core leaves memory. -/
theorem modTaskOf_mem (c : CoreId) (f : Task → Task) (s : State) : (modTaskOf c f s).mem = s.mem := by
  unfold modTaskOf onCore; split
  · rfl
  · split
    · rfl
    · exact (switchTo_mem _ _).trans (switchTo_mem c s)

/-- A load through a pointer writes no byte of memory; a remote one notes its admission at the owner (R313). -/
theorem loadAt_mem {s t : State} {p : Word} {n align : Nat} {elem : Bool} {st : Strength} {hint : Hint} {bs : List Byte}
    (h : loadAt s p n align elem st hint = .ok (t, bs)) : t.mem = s.mem := by
  unfold loadAt at h
  obtain ⟨loc, -, h⟩ := Try.bind_ok h
  cases loc with
  | scratch o k =>
    dsimp only at h
    split at h
    · cases h
    split at h
    · cases h
    split at h
    · cases h
    cases h; rfl
  | remote w o k =>
    dsimp only at h
    split at h
    · cases h
    obtain ⟨u, -, h⟩ := Try.bind_ok h
    split at h
    · cases h
    split at h
    · cases h
    cases h; exact modTaskOf_mem _ _ _
  | phys leaf va =>
    obtain ⟨u, -, h⟩ := Try.bind_ok h
    exact (loadPhys_cachesOnly h).mem

theorem loadBytes_mem {st : Strength} {hint : Hint} : ∀ {ps : List Word} {s t : State} {bs : List Byte},
    loadBytes s st hint ps = .ok (t, bs) → t.mem = s.mem
  | [], s, t, bs, h => by cases h; rfl
  | p :: ps, s, t, bs, h => by
    obtain ⟨⟨u, b⟩, hu, h⟩ := Try.bind_ok h
    obtain ⟨⟨v, c⟩, hv, h⟩ := Try.bind_ok h
    cases h
    exact (loadBytes_mem hv).trans (loadAt_mem hu)

theorem loadElem_mem {s t : State} {p : Word} {j : Int} {st : Strength} {hint : Hint} {v : FVal} {f : Flags} {raw : Option Nat}
    (h : loadElem s p j st hint = .ok (t, v, f, raw)) : t.mem = s.mem := by
  unfold loadElem at h
  dsimp only at h
  obtain ⟨e, -, h⟩ := Try.bind_ok h
  split at h
  · obtain ⟨_, -, h⟩ := Try.bind_ok h
    obtain ⟨⟨u, bs⟩, hu, h⟩ := Try.bind_ok h
    cases h
    exact loadBytes_mem hu
  split at h
  · obtain ⟨⟨u, b⟩, hu, h⟩ := Try.bind_ok h
    obtain ⟨⟨w, sc⟩, hw, h⟩ := Try.bind_ok h
    cases h
    exact (loadAt_mem hw).trans (loadAt_mem hu)
  · obtain ⟨⟨u, b⟩, hu, h⟩ := Try.bind_ok h
    cases h
    exact loadAt_mem hu

theorem fetchAt_cachesOnly {s t : State} {pc : Word} {w : Nat} (h : fetchAt s pc = .ok (t, w)) : CachesOnly s t := by
  unfold fetchAt at h
  split at h
  · cases h
  obtain ⟨leaf, -, h⟩ := Try.bind_ok h
  split at h
  · cases h
  dsimp only at h
  split at h
  · split at h
    · cases h
    · cases h; exact noteTlb_cachesOnly _ _ s
  · obtain ⟨⟨u, b⟩, hu, h⟩ := Try.bind_ok h
    cases h
    exact ((noteTlb_cachesOnly _ _ s).trans (homeRead_ok hu).1).trans ⟨rfl, rfl, rfl⟩

theorem fetchBody_cachesOnly : ∀ {n : Nat} {s t : State} {pc : Word} {ws : List Nat}, fetchBody s pc n = .ok (t, ws) → CachesOnly s t
  | 0, s, t, pc, ws, h => by cases h; exact CachesOnly.refl s
  | n + 1, s, t, pc, ws, h => by
    obtain ⟨⟨u, b⟩, hu, h⟩ := Try.bind_ok h
    obtain ⟨⟨v, c⟩, hv, h⟩ := Try.bind_ok h
    cases h
    exact (fetchAt_cachesOnly hu).trans (fetchBody_cachesOnly hv)

theorem atLane_ok {α : Type} {i : Nat} {r : Try α} {a : α} (h : atLane i r = .ok a) : r = .ok a := by
  cases r with
  | ok b => exact h
  | cause c => cases h
  | wait w => cases h

theorem loadLanes_mem {w : Nat} {st : Strength} : ∀ {ls : List (Try Word ⊕ List Byte)} {i : Nat} {s t : State} {bs : List Byte},
    loadLanes w st i ls s = .ok (t, bs) → t.mem = s.mem
  | [], i, s, t, bs, h => by cases h; rfl
  | .inr b :: ls, i, s, t, bs, h => by
    obtain ⟨⟨u, more⟩, hu, h⟩ := Try.bind_ok h
    cases h
    exact loadLanes_mem hu
  | .inl q :: ls, i, s, t, bs, h => by
    obtain ⟨⟨u, b⟩, hu, h⟩ := Try.bind_ok h
    obtain ⟨⟨v, more⟩, hv, h⟩ := Try.bind_ok h
    obtain ⟨p, -, hp⟩ := Try.bind_ok (atLane_ok hu)
    cases h
    exact (loadLanes_mem hv).trans (loadAt_mem hp)

theorem tableBytes_mem : ∀ {n : Nat} {p : Word} {s t : State} {bs : List Byte}, tableBytes p n s = .ok (t, bs) → t.mem = s.mem
  | 0, p, s, t, bs, h => by cases h; rfl
  | n + 1, p, s, t, bs, h => by
    obtain ⟨q, -, h⟩ := Try.bind_ok h
    obtain ⟨⟨u, b⟩, hu, h⟩ := Try.bind_ok h
    obtain ⟨⟨v, c⟩, hv, h⟩ := Try.bind_ok h
    cases h
    exact (tableBytes_mem hv).trans (loadAt_mem hu)

theorem readTable_mem {p : Word} {s t : State} {bs : List Byte} (h : readTable p s = .ok (t, bs)) : t.mem = s.mem := by
  unfold readTable at h
  split at h
  · cases h
  split at h
  · cases h
  obtain ⟨⟨u, b⟩, hu, h⟩ := Try.bind_ok h
  dsimp only at h
  split at h
  · cases h
  cases h
  exact tableBytes_mem hu

end Sys2Proof.Machine
end

