-- ==== Sys2Proof/Laws/Cores.lean ====
section
/-!
SUPPORT. What acting on another core does: `onCore` with an action that changes the current core alone changes the record of
that one core.
-/
namespace Sys2Proof.Machine

/-- Two cores have one key only if they are one core. -/
theorem coreKey_inj {a b : CoreId} : coreKey a = coreKey b ↔ a = b := by
  refine ⟨fun h => ?_, fun h => congrArg coreKey h⟩
  obtain ⟨h1, h2⟩ := Nat.pair_eq_pair.1 (show Nat.pair a.tenant a.lid = Nat.pair b.tenant b.lid from h)
  cases a; cases b; simp_all

/-- What the map finds is one of its entries. -/
theorem mem_of_mapFind {n : Nat} {a : α} : ∀ {m : Map α}, mapFind n m = some a → (n, a) ∈ m := by
  intro m h
  induction m with
  | nil => simp [mapFind] at h
  | cons e m ih =>
    unfold mapFind at h
    split at h
    · rename_i hk
      simp only [Option.some.injEq] at h
      subst h hk
      exact List.mem_cons_self
    · exact List.mem_cons_of_mem _ (ih h)

/-- A map in which every core stands under its own key, and not the current one, is keyed. -/
theorem keyed_of_entries {s : State} (h : mapFind (coreKey s.core.id) s.others = none) (hk : ∀ e ∈ s.others, e.1 = coreKey e.2.id) : s.Keyed :=
  ⟨h, fun _ _ hf => (coreKey_inj.1 (hk _ (mem_of_mapFind hf))).symm⟩

/-- An action that changes the current core alone, and not its name. -/
def CoreOnly (f : State → State) (g : Core → Core) : Prop := ∀ s : State, f s = { s with core := g s.core } ∧ (g s.core).id = s.core.id

theorem coreOnly_modTask (g : Task → Task) : CoreOnly (fun s => s.modTask g) fun k => { k with task := g k.task } := fun _ => ⟨rfl, rfl⟩

/-- `onCore` in one equation per core of the domain. -/
theorem onCore_spec {f : State → State} {g : Core → Core} (hf : CoreOnly f g) (c : CoreId) {s : State} (hs : s.Keyed) :
    ∃ (k : Core) (os : Map Core), onCore c f s = { s with core := k, others := os } ∧ (onCore c f s).Keyed ∧ k.id = s.core.id ∧
      ∀ c' : CoreId, (onCore c f s).findCore c' = if c' = c then (s.findCore c').map g else s.findCore c' := by
  unfold onCore
  by_cases h : s.core.id = c
  · obtain ⟨e, hi⟩ := hf s
    rw [if_pos h, e]
    refine ⟨g s.core, s.others, rfl, ⟨?_, hs.2⟩, hi, fun c' => ?_⟩
    · show mapFind (coreKey (g s.core).id) s.others = none
      rw [hi]; exact hs.1
    · unfold State.findCore
      show (if (g s.core).id = c' then some (g s.core) else mapFind (coreKey c') s.others) = _
      rw [hi]
      by_cases h1 : s.core.id = c'
      · subst h1; simp [h]
      · have : ¬ c' = c := fun hc => h1 (h.trans hc.symm)
        simp [h1, this]
  · rw [if_neg h]
    cases hk : mapFind (coreKey c) s.others with
    | none =>
      refine ⟨s.core, s.others, rfl, hs, rfl, fun c' => ?_⟩
      by_cases hc : c' = c
      · subst hc
        simp [State.findCore, h, hk]
      · simp [hc]
    | some k =>
      have hkid := hs.2 c k hk
      have hne : ¬ k.id = s.core.id := fun e => h (e.symm.trans hkid)
      have hkey : ¬ coreKey s.core.id = coreKey k.id := fun e => by
        have := hs.1; rw [e, hkid, hk] at this; cases this
      have e1 : switchTo c s = { s with core := k, others := mapPut (coreKey s.core.id) s.core (mapErase (coreKey c) s.others) } := by
        unfold switchTo; rw [if_neg h, hk]
      obtain ⟨e2, hi⟩ := hf (switchTo c s)
      rw [e1] at e2 hi
      dsimp only at e2 hi
      have e3 : switchTo s.core.id (f (switchTo c s)) =
          { s with core := s.core, others := mapPut (coreKey k.id) (g k) (mapErase (coreKey s.core.id) (mapPut (coreKey s.core.id) s.core (mapErase (coreKey c) s.others))) } := by
        rw [e1, e2]
        unfold switchTo
        dsimp only
        rw [if_neg (by rw [hi]; exact hne), mapFind_put, if_pos rfl, hi]
      dsimp only
      have hfind : ∀ j : Nat, mapFind j (mapPut (coreKey k.id) (g k) (mapErase (coreKey s.core.id) (mapPut (coreKey s.core.id) s.core (mapErase (coreKey c) s.others)))) =
          if j = coreKey k.id then some (g k) else mapFind j s.others := by
        intro j
        rw [mapFind_put]
        by_cases h1 : j = coreKey k.id
        · simp [h1]
        · rw [if_neg h1, if_neg h1, mapFind_erase]
          by_cases h2 : j = coreKey s.core.id
          · rw [if_pos h2, h2, hs.1]
          · rw [if_neg h2, mapFind_put, if_neg h2, mapFind_erase, if_neg (by rw [← hkid]; exact h1)]
      rw [e3]
      refine ⟨s.core, _, rfl, ⟨?_, ?_⟩, rfl, fun c' => ?_⟩
      · show mapFind (coreKey s.core.id) _ = none
        rw [hfind, if_neg hkey]; exact hs.1
      · intro c' k' hk'
        dsimp only at hk'
        rw [hfind] at hk'
        split at hk'
        · rename_i he
          cases hk'
          have : k.id = c' := hs.2 c' k (by rw [he, hkid]; exact hk)
          rw [← this]; exact hi
        · exact hs.2 c' k' hk'
      · unfold State.findCore
        dsimp only
        by_cases h1 : s.core.id = c'
        · subst h1
          simp [h]
        · rw [if_neg h1, if_neg h1, hfind]
          by_cases h2 : c' = c
          · subst h2; simp [hkid, hk]
          · rw [if_neg h2]
            by_cases h3 : coreKey c' = coreKey k.id
            · exact absurd (hs.2 c' k (by rw [h3, hkid]; exact hk)) (by rw [hkid]; exact fun e => h2 e.symm)
            · rw [if_neg h3]

/-- `onCores` over cores listed once each. -/
theorem onCores_spec {f : State → State} {g : Core → Core} (hf : CoreOnly f g) (cs : List CoreId) {s : State} (hn : cs.Nodup) (hs : s.Keyed) :
    ∃ (k : Core) (os : Map Core), onCores f cs s = { s with core := k, others := os } ∧ (onCores f cs s).Keyed ∧ k.id = s.core.id ∧
      ∀ c' : CoreId, (onCores f cs s).findCore c' = if c' ∈ cs then (s.findCore c').map g else s.findCore c' := by
  induction cs generalizing s with
  | nil => exact ⟨s.core, s.others, rfl, hs, rfl, fun c' => by simp [onCores]⟩
  | cons c cs ih =>
    obtain ⟨k, os, e, h1, h2, h3⟩ := onCore_spec hf c hs
    have hc := (List.nodup_cons.1 hn).1
    obtain ⟨k', os', e', h1', h2', h3'⟩ := ih (List.nodup_cons.1 hn).2 h1
    refine ⟨k', os', ?_, h1', ?_, fun c' => ?_⟩
    · show onCores f cs (onCore c f s) = _
      rw [e', e]
    · rw [h2', e]; exact h2
    · show (onCores f cs (onCore c f s)).findCore c' = _
      rw [h3', h3]
      by_cases h4 : c' = c
      · subst h4; simp [hc]
      · simp [h4]

end Sys2Proof.Machine
end

