-- ==== Sys2Proof/Laws/Domain.lean ====
section
/-!
SUPPORT. Records of the domain read after they are set: lines, packages, arbiters, attempts, event lines, and cores added.
-/
namespace Sys2Proof.Claims

open Sys2Proof.Machine

/-- What is set for a line is what it reads as. -/
theorem line_setLine_self (s : State) (l : Line) (x : LineState) : (s.setLine l x).line l = x := by
  simp [State.line, State.setLine, mapGet_set]

/-- A line set leaves lines of other keys alone. -/
theorem line_setLine (s : State) (l m : Line) (v : LineState) : (s.setLine l v).line m = if lineKey m = lineKey l then v else s.line m := by
  unfold State.setLine State.line
  exact mapGet_set {} s.lines (lineKey l) (lineKey m) v

/-- Message `j` taken out of the net. -/
theorem take_of {s : State} {j : Nat} {m : Msg} (h : s.net[j]? = some m) : s.take j = some (m, { s with net := s.net.eraseIdx j }) := by
  simp [State.take, h]

/-- Changing the elements that a test finds, by a change that the test does not see. -/
theorem find_map_where {α : Type} (p : α → Bool) (f : α → α) (hp : ∀ a, p a = true → p (f a) = true) : ∀ (xs : List α), 
    (xs.map fun a => if p a = true then f a else a).find? p = (xs.find? p).map f
  | [] => rfl
  | x :: xs => by
    by_cases h : p x = true
    · simp [h, hp x h]
    · simp only [List.map_cons, h, if_false, Bool.false_eq_true, List.find?_cons, find_map_where p f hp xs]

/-- A die's attempt for a line after it is changed. -/
theorem attempt_modAttempt (s : State) (pkg die : Nat) (l : Line) (f : Attempt → Attempt) (hf : ∀ a, (f a).pkg = a.pkg ∧ (f a).die = a.die ∧ (f a).line = a.line) :
    (modAttempt pkg die l f s).attempt pkg die l = (s.attempt pkg die l).map f := by
  unfold State.attempt modAttempt
  exact find_map_where (fun a => a.pkg == pkg && a.die == die && a.line == l) f (by intro a; simp [hf a]) _

/-- An arbiter queue set is what it reads as. -/
theorem arbiter_set (s : State) (k : Nat) (q : List PersReq) : (s.setArbiter k q).arbiter k = q := by
  simp [State.arbiter, State.setArbiter, mapGet_set]

/-- Where no request may become active, none does. -/
theorem activate_none (k n : Nat) (s : State) (h : nextActive s (s.arbiter k) = none) : activate k n s = s := by
  cases n with
  | zero => rfl
  | succ n => simp [activate, h]

/-- A package after it is changed. -/
theorem pkg_modPkg (s : State) (p : Nat) (f : Package → Package) : (s.modPkg p f).pkg p = f (s.pkg p) := by
  simp [State.pkg, State.modPkg, mapGet_set]

/-- Adding cores changes the map of cores alone. -/
theorem addCores_pkgs (ks : List Core) (s : State) : (addCores ks s).pkgs = s.pkgs ∧ (addCores ks s).mem = s.mem ∧ (addCores ks s).core = s.core ∧ (addCores ks s).clients = s.clients ∧ (addCores ks s).tenants = s.tenants := by
  unfold addCores
  induction ks generalizing s with
  | nil => exact ⟨rfl, rfl, rfl, rfl, rfl⟩
  | cons k ks ih =>
    simp only [List.foldl_cons]
    split
    · exact ih s
    · exact ih _

/-- Adding cores keeps the cores that are there. -/
theorem addCores_keep (ks : List Core) (s : State) (c : CoreId) (h : (s.findCore c).isSome = true) : ((addCores ks s).findCore c).isSome = true := by
  unfold addCores
  induction ks generalizing s with
  | nil => exact h
  | cons k ks ih =>
    simp only [List.foldl_cons]
    apply ih
    split
    · exact h
    · unfold State.findCore at h ⊢
      dsimp only
      split
      · rfl
      · rename_i h1
        rw [if_neg h1] at h
        rw [mapFind_put]; split
        · rfl
        · exact h

/-- Every core added is there. -/
theorem addCores_new (ks : List Core) (s : State) (c : CoreId) (h : ∃ k ∈ ks, k.id = c) : ((addCores ks s).findCore c).isSome = true := by
  unfold addCores
  induction ks generalizing s with
  | nil => obtain ⟨k, h, _⟩ := h; simp at h
  | cons k ks ih =>
    simp only [List.foldl_cons]
    obtain ⟨k', hk, e⟩ := h
    rcases List.mem_cons.1 hk with rfl | hk
    · apply addCores_keep
      subst e
      split
      · assumption
      · unfold State.findCore; dsimp only
        split
        · rfl
        · rw [mapFind_put, if_pos rfl]; rfl
    · exact ih _ ⟨k', hk, e⟩

/-- An event line after it is changed. -/
theorem evLine_modLine (s : State) (b : BenchId) (n : Fin 32) (f : EvLine → EvLine) : (s.modLine b n f).evLine b n = f (s.evLine b n) := by
  unfold State.evLine State.modLine State.modBench State.benchAt
  dsimp only
  rw [mapGet_set, if_pos rfl]
  simp

set_option maxHeartbeats 8000000 in

/-- An event line changed and the instruction completed, for a task in no gang. -/
theorem adv_modLine {s : State} (hg : Alone s) (b : BenchId) (n : Fin 32) (f : EvLine → EvLine) : adv (s.modLine b n f) = (done s id).modLine b n f := by
  rw [adv_alone (by exact hg)]; rfl

/-- Two actions that agree on the state that a core sees do the same there. -/
theorem onCore_congr {f g : State → State} {c : CoreId} {s : State} (h : ∀ u, (s.core.id = c → u = s) → (s.core.id ≠ c → u = switchTo c s) → f u = g u) : onCore c f s = onCore c g s := by
  unfold onCore
  by_cases hc : s.core.id = c
  · rw [if_pos hc, if_pos hc]; exact h s (fun _ => rfl) (fun hn => absurd hc hn)
  · rw [if_neg hc, if_neg hc]
    split
    · rfl
    · rw [h _ (fun hn => absurd hn hc) (fun _ => rfl)]

/-- Doing nothing is an action on one core. -/
theorem coreOnly_id : CoreOnly (fun s => s) (fun k => k) := fun _ => ⟨rfl, rfl⟩

end Sys2Proof.Claims
end

