-- ==== Sys2Proof/Laws/Access.lean ====
section
/-!
SUPPORT. Loads, stores and atomics at a home that is ready for them, and what goes on at once where nothing is left to release.
-/
namespace Sys2Proof.Claims

open Sys2Proof.Machine

/-- A task past its instruction. -/
theorem advance_past (t : Task) : Task.advance t = past t := rfl

/-- An effect on the task and the completion of the instruction, for a task in no gang. -/
theorem adv_done {s : State} (f : Task → Task) (h : (f s.task).gang = 0) : adv (s.modTask f) = Claims.done s f := by
  rw [adv_alone (by exact h)]; rfl

/-- Completion without another effect. -/
theorem adv_done_id {s : State} (h : Alone s) : adv s = Claims.done s fun t => t := by
  rw [adv_alone (by exact h)]; rfl

/-- Completing an instruction keeps a relation by caches alone. -/
theorem cachesOnly_adv {s t : State} (h : CachesOnly s t) (hg : s.task.gang = 0) : CachesOnly (done s id) (adv t) := by
  rw [adv_alone (by rw [h.task]; exact hg)]
  refine ⟨?_, h.others, ?_⟩
  · show ({ t.core with task := past t.task } : Core).bare = ({ s.core with task := past s.task } : Core).bare
    rw [h.task]
    have := h.core
    unfold Core.bare at this ⊢
    simp only [Core.mk.injEq] at this ⊢
    simp_all
  · have := h.rest
    show { t with core := { t.core with task := past t.task } } = _
    conv_lhs => rw [this]
    rfl

/-- Completing an instruction keeps a relation by memory and caches alone. -/
theorem memOnly_adv {s t : State} (h : MemOnly s t) (hg : s.task.gang = 0) : MemOnly (done s id) (adv t) := by
  have := cachesOnly_adv h hg
  have hm : (adv t).mem = t.mem := by rw [adv_alone]; rfl; rw [h.task]; exact hg
  unfold MemOnly
  rw [hm]; exact this

/-- Where every element passes, one can be dropped. -/
theorem dropLast_some {α : Type} (p : α → Bool) (l : List α) (h : l ≠ []) (hp : ∀ a ∈ l, p a = true) : ∃ r, dropLast p l = some r := by
  unfold dropLast
  cases hr : l.reverse with
  | nil => simp at hr; exact absurd hr h
  | cons a t =>
    have : a ∈ l := by rw [← List.mem_reverse, hr]; simp
    rw [List.findIdx?_cons]; simp only [hp a this, if_true]
    have hl : l.length - 1 - 0 < l.length := by
      have := List.length_pos_iff.2 h; omega
    rw [List.getElem?_eq_getElem hl]
    exact ⟨_, rfl⟩

/-- Where nothing is pinned, a set takes a new line (R317, R318). -/
theorem recency_some {α : Type} (ways : Nat) (hw : 0 < ways) (h : Hint) (pinned sticky : α → Bool) (mark : Bool → α → α) (hit : α → Bool) (new : α) (set : List α)
    (hp : ∀ a ∈ set, pinned a = false) : ∃ r, recency ways h pinned sticky mark hit new set = some r := by
  unfold recency
  split
  · split
    · exact ⟨_, rfl⟩
    · split <;> exact ⟨_, rfl⟩
  · split
    · exact ⟨_, rfl⟩
    · dsimp only
      rw [← Option.isSome_iff_exists, Option.isSome_map, Option.isSome_iff_exists]
      by_cases hlen : set.length < ways
      · rw [if_pos hlen]; exact ⟨_, rfl⟩
      · rw [if_neg hlen]
        have hne : set ≠ [] := by intro e; subst e; simp at hlen; omega
        obtain ⟨r, hr⟩ := dropLast_some (fun a => !pinned a) set hne (fun a ha => by simp [hp a ha])
        split
        · exact ⟨_, rfl⟩
        · rw [hr]; exact ⟨_, rfl⟩

/-- Where no line is pinned, an access at home touches its L2 set (R317, R318). -/
theorem homeTouch_some (h : Holder) (l : Line) (hint : Hint) (s : State) (hp : ∀ m, (s.line m).pins = []) : ∃ t, homeTouch h l hint s = some t := by
  unfold homeTouch
  cases h with
  | die p d =>
    dsimp only
    unfold touchL2 touchFor
    dsimp only
    obtain ⟨r, hr⟩ := recency_some 16 (by decide) hint (fun w : L2Way => (s.line w.line).pins.any fun q => q.2 == .die p d && some q.1 != none) (·.sticky) (fun b w => { w with sticky := b }) (fun w => w.line = l)
      { line := l, sticky := false } (mapGet [] s.l2 (l2Key p d l)) (fun a _ => by simp [hp])
    rw [hr]; exact ⟨_, rfl⟩
  | home => exact ⟨_, rfl⟩

theorem pins_recall (ls : LineState) : ls.recall.pins = ls.pins := rfl

theorem pins_put (ls : LineState) (t : Tokens) : (ls.put t).pins = ls.pins := by unfold LineState.put; split <;> rfl

theorem pins_served (ls : LineState) (c : CoreId) : (ls.served c).pins = ls.pins := rfl

theorem pins_stamp (ls : LineState) (h : Holder) (st) : (ls.setStamp h st).pins = ls.pins := pins_put _ _

theorem pins_gatherRead {ls ls' : LineState} {h : Holder} (e : ls.gatherRead h = some ls') : ls'.pins = ls.pins := by
  unfold LineState.gatherRead at e
  cases h with
  | die p d => dsimp only at e; split at e <;> simp at e; rw [e]
  | home => dsimp only at e; split at e <;> simp at e; rw [e]

theorem pins_gatherWrite {ls ls' : LineState} {h : Holder} (e : ls.gatherWrite h = some ls') : ls'.pins = ls.pins := by
  unfold LineState.gatherWrite at e
  cases h with
  | die p d => dsimp only at e; split at e <;> simp at e; rw [e]
  | home => dsimp only at e; split at e <;> simp at e; rw [e]

/-- No line is pinned after one is set to an unpinned record. -/
theorem setLine_pins (s : State) (l : Line) (v : LineState) (hp : ∀ m, (s.line m).pins = []) (hv : v.pins = []) : ∀ m, ((s.setLine l v).line m).pins = [] := by
  intro m
  rw [line_setLine _ _ _ _]
  split
  · exact hv
  · exact hp m

/-- A task of a launch that is not DETERMINATE keeps no stamps (R398). -/
theorem stampUses_nd {t : Task} {lid : Nat} {p : Word} {us : List StampUse} {st} (h : t.determinate = false) : stampUses t lid p us st = .ok st := by
  cases us with
  | nil => rfl
  | cons u us => unfold stampUses; simp [h]

theorem noteTlb_lines (va : Nat) (l : Leaf) (s : State) : (noteTlb va l s).lines = s.lines := by
  unfold noteTlb; split <;> rfl

theorem noteTlb_core (va : Nat) (l : Leaf) (s : State) : (noteTlb va l s).core = s.core := by
  unfold noteTlb; split <;> rfl

theorem noteTlb_others (va : Nat) (l : Leaf) (s : State) : (noteTlb va l s).others = s.others := by
  unfold noteTlb; split <;> rfl

theorem noteTlb_mem (va : Nat) (l : Leaf) (s : State) : (noteTlb va l s).mem = s.mem := by
  unfold noteTlb; split <;> rfl

theorem noteTlb_now (va : Nat) (l : Leaf) (s : State) : (noteTlb va l s).now = s.now := by
  unfold noteTlb; split <;> rfl

theorem noteTlb_failed (va : Nat) (l : Leaf) (s : State) : (noteTlb va l s).failed = s.failed := by
  unfold noteTlb; split <;> rfl

theorem noteTlb_lineFree (va : Nat) (l : Leaf) (s : State) (m h) : (noteTlb va l s).lineFree m h = s.lineFree m h := by
  unfold State.lineFree State.waiting State.stale State.leaseOf State.inLease State.task State.line State.findCore
  rw [noteTlb_lines, noteTlb_core, noteTlb_others, noteTlb_now]

theorem noteTlb_line (va : Nat) (l : Leaf) (s : State) (m) : (noteTlb va l s).line m = s.line m := by
  unfold State.line; rw [noteTlb_lines]

/-- A TLB entry noted changes nothing of an access that is ready. -/
theorem ready_noteTlb {s : State} {leaf : Leaf} {va va' : Nat} {w : Bool} (h : Ready s leaf va w) (l' : Leaf) : Ready (noteTlb va' l' s) leaf va w := by
  unfold Ready homeHolder State.holder State.holderAt State.task at *
  simp only [noteTlb_lineFree, noteTlb_line, noteTlb_core, noteTlb_failed] at *
  exact h

/-- A read that is ready is performed (R187, R348). -/
theorem homeRead_ready {s : State} {leaf : Leaf} {va n : Nat} {hint : Hint} {p : Word} (h : Ready s leaf va false) :
    ∃ t, homeRead s leaf va n hint p = .ok (t, s.readPhys leaf.pkg (leaf.pa va) n) := by
  obtain ⟨h1, h2, h3, h4, h5⟩ := h
  unfold homeRead
  dsimp only at *
  rw [h1]
  simp only [Bool.not_true, Bool.false_eq_true, if_false] at h2 ⊢
  obtain ⟨ls', e⟩ := Option.isSome_iff_exists.1 h2
  rw [e]
  simp only [stampUses_nd h4, Try.bind, h3]
  obtain ⟨t, ht⟩ := homeTouch_some (homeHolder s leaf.kind) (lineOf leaf.pkg (leaf.pa va)) hint (s.setLine (lineOf leaf.pkg (leaf.pa va)) (ls'.setStamp (homeHolder s leaf.kind) (ls'.at_ (homeHolder s leaf.kind)).stamp))
    (setLine_pins _ _ _ h5 (by rw [pins_stamp, pins_gatherRead e, pins_served]; exact h5 _))
  rw [ht]
  exact ⟨t, rfl⟩

/-- No strong store is parked, or waits at its home: a strong load goes on at once (R191, R192). -/
theorem loadGate_ok {s : State} {st : Strength} (h : isStrong st = true → (∀ e ∈ s.task.replay, e.strong = false) ∧ s.strongWaits = false) :
    loadGate s st = .ok () := by
  unfold loadGate
  rw [if_neg]
  intro hc
  rw [Bool.and_eq_true, Bool.or_eq_true, List.any_eq_true] at hc
  obtain ⟨h1, h2⟩ := h hc.1
  rw [h2] at hc
  obtain ⟨e, he, hs⟩ := hc.2.resolve_right (by simp)
  rw [h1 e he] at hs; cases hs

/-- A store that is ready is performed, and memory holds its bytes (R187, R348). -/
theorem homeStore_ready {s : State} {leaf : Leaf} {va : Nat} {bs : List Byte} {hint : Hint} {strong : Bool} {p : Word} (h : Ready s leaf va true) :
    ∃ t, homeStore s leaf va { bytes := bs } hint strong p = .ok t ∧ MemOnly s t ∧ Stored s leaf.pkg (leaf.pa va) bs t := by
  obtain ⟨h1, h2, h3, h4, h5⟩ := h
  unfold homeStore
  dsimp only at *
  rw [h1]
  simp only [Bool.not_true, Bool.false_eq_true, if_false, if_true] at h2 ⊢
  obtain ⟨ls', e⟩ := Option.isSome_iff_exists.1 h2
  rw [e]
  simp only [stampUses_nd h4, Try.bind, h3]
  obtain ⟨t, ht⟩ := homeTouch_some (homeHolder s leaf.kind) (lineOf leaf.pkg (leaf.pa va)) hint (s.setLine (lineOf leaf.pkg (leaf.pa va)) (ls'.setStamp (homeHolder s leaf.kind) (ls'.at_ (homeHolder s leaf.kind)).stamp))
    (setLine_pins _ _ _ h5 (by rw [pins_stamp, pins_gatherWrite e, pins_served]; exact h5 _))
  rw [ht]
  have hc : CachesOnly s t := (setLine_cachesOnly _ _ _).trans (homeTouch_cachesOnly ht)
  have hmem : t.mem = s.mem := hc.mem
  have key : ∀ u : State, u.mem = memStore s.mem (memKey leaf.pkg (leaf.pa va)) bs → Stored s leaf.pkg (leaf.pa va) bs u := by
    intro u hu a
    rw [hu, memByte_store]
  simp only [Bool.false_and, Bool.false_eq_true, if_false]
  refine ⟨_, rfl, ?_, ?_⟩
  · have hmm : (storeL1 leaf va { bytes := bs } hint (applyStore leaf.pkg (leaf.pa va) { bytes := bs } t)).mem = memStore s.mem (memKey leaf.pkg (leaf.pa va)) bs := by
      rw [(storeL1_cachesOnly _ _ _ _ _).mem]
      show memStore t.mem _ _ = _
      rw [hmem]; rfl
    unfold MemOnly
    rw [hmm]
    have c1 : CachesOnly { s with mem := memStore s.mem (memKey leaf.pkg (leaf.pa va)) bs } { t with mem := memStore s.mem (memKey leaf.pkg (leaf.pa va)) bs } := by
      refine ⟨hc.core, hc.others, ?_⟩
      have := hc.rest
      rw [this]
    refine c1.trans ?_
    have c2 : CachesOnly { t with mem := memStore s.mem (memKey leaf.pkg (leaf.pa va)) bs } (applyStore leaf.pkg (leaf.pa va) { bytes := bs } t) := by
      refine ⟨rfl, rfl, ?_⟩
      unfold applyStore State.writePhys State.setLine
      rw [hmem]; rfl
    exact c2.trans (storeL1_cachesOnly _ _ _ _ _)
  · apply key
    rw [(storeL1_cachesOnly _ _ _ _ _).mem]
    show memStore t.mem _ _ = _
    rw [hmem]; rfl

/-- Nothing is left to release: a strong store goes on at once (R192). -/
theorem storeEnd_drained {s : State} {st : Strength} {k : State → State} (h : isStrong st = true → Drained s) : storeEnd st k s = k s := by
  unfold storeEnd
  split
  · rename_i hs
    obtain ⟨h1, h2, h3⟩ := h hs
    unfold releaseThen drainThen
    rw [h1, h2]
    dsimp only
    simp only [h3]; rfl
  · rfl

/-- The same for the whole of a store. -/
theorem storeTo_drained {s : State} {st : Strength} {q : Try Word} {bs : List Byte} {h : Hint} (hd : isStrong st = true → Drained s) :
    storeTo q bs st h s = match q with
    | .cause c => settle (.cause c) s
    | .wait w => settle (.wait w) s
    | .ok p =>
      match storePark s p { bytes := bs } bs.length false (isStrong st) h with
      | .wait .remote => sendRemote p bs.length (some bs) (.zx 0) false s
      | r => endStore r s := by
  unfold storeTo; rw [storeEnd_drained hd] <;> rfl

/-- Only another space than 0 leads to the scratchpad. -/
theorem locate_scratch_space {s : State} {p : Word} {n : Nat} {elem : Bool} {cls : AccCls} {o k : Nat} (h : locate s cls p n elem = .ok (.scratch o k)) : pSpace p ≠ 0 := by
  intro h0
  unfold locate at h
  obtain ⟨-, -, h⟩ := Try.bind_ok h
  rw [h0] at h
  obtain ⟨l, -, h⟩ := Try.bind_ok h
  obtain ⟨-, -, h⟩ := Try.bind_ok h
  cases h

/-- Only another space than 0 leads to a remote scratchpad. -/
theorem locate_remote_space {s : State} {p : Word} {n : Nat} {elem : Bool} {cls : AccCls} {w o k : Nat} (h : locate s cls p n elem = .ok (.remote w o k)) : pSpace p ≠ 0 := by
  intro h0
  unfold locate at h
  obtain ⟨-, -, h⟩ := Try.bind_ok h
  rw [h0] at h
  obtain ⟨l, -, h⟩ := Try.bind_ok h
  obtain ⟨-, -, h⟩ := Try.bind_ok h
  cases h

/-- A space-0 access is of its pointer's address. -/
theorem locate_phys_va {s : State} {p : Word} {n : Nat} {elem : Bool} {cls : AccCls} {leaf : Leaf} {va : Nat} (h : locate s cls p n elem = .ok (.phys leaf va)) : va = pAddr p ∧ pSpace p = 0 := by
  unfold locate at h
  obtain ⟨-, -, h⟩ := Try.bind_ok h
  split at h
  · rename_i hs
    obtain ⟨l, -, h⟩ := Try.bind_ok h
    obtain ⟨-, -, h⟩ := Try.bind_ok h
    cases h
    exact ⟨rfl, hs⟩
  · cases h
  · cases h

/-- Nothing is left to release: a release goes on at once (R192). -/
theorem releaseThen_drained {s : State} {k : State → State} (h : Drained s) : releaseThen k s = k s := by
  obtain ⟨h1, h2, h3⟩ := h
  unfold releaseThen drainThen
  rw [h1, h2]
  dsimp only
  simp only [h3]; rfl

/-- A load that has read its bytes completes. -/
theorem afterLoad_adv (st : Strength) (s : State) (f : Task → Task) (hg : (f s.task).gang = 0) : CachesOnly (done s f) (adv (afterLoad st (s.modTask f))) := by
  unfold afterLoad
  have e : adv (s.modTask f) = done s f := by rw [adv_alone (by exact hg)]; rfl
  split
  · unfold acquire
    rw [adv_alone (by exact hg)]
    exact acquire_cachesOnly (done s f)
  · rw [e]; exact CachesOnly.refl _

/-- An atomic at a home that is ready is performed (R204, R348). -/
theorem amoHome_ready {s : State} {op : AmoOp} {z b cmp : Nat} {ret : Bool} {leaf : Leaf} {va : Nat} {p : Word} (hm : s.movingLeaf leaf = false) (hr : Ready s leaf va true) :
    ∃ r : AmoDone, amoHome s op z b cmp ret leaf va p = .ok r ∧ r.old = leOf (s.readPhys leaf.pkg (leaf.pa va) z) ∧ r.flags = (op.eval z r.old b cmp).2 ∧ MemOnly s r.s ∧
      match (op.eval z r.old b cmp).1 with
      | some v => Stored s leaf.pkg (leaf.pa va) (bytesOf v z) r.s
      | none => r.s.mem = s.mem := by
  have hr' := ready_noteTlb (va' := va) hr leaf
  have hhh : homeHolder (noteTlb va leaf s) leaf.kind = homeHolder s leaf.kind := by unfold homeHolder State.holder State.holderAt; rw [noteTlb_core, noteTlb_failed]
  unfold Ready at hr'
  rw [hhh] at hr'
  obtain ⟨h1, h2, h3, h4, h5⟩ := hr'
  unfold amoHome
  have hmv : (noteTlb va leaf s).movingLeaf leaf = false := by
    have : (noteTlb va leaf s).moving = s.moving := by unfold noteTlb; split <;> rfl
    unfold State.movingLeaf; rw [this]; exact hm
  dsimp only at *
  rw [hmv, h1]
  simp only [Bool.not_true, Bool.false_eq_true, if_false, if_true] at h2 ⊢
  obtain ⟨ls', e⟩ := Option.isSome_iff_exists.1 h2
  rw [e]
  simp only [stampUses_nd h4, Try.bind, h3]
  obtain ⟨t, ht⟩ := homeTouch_some (homeHolder s leaf.kind) (lineOf leaf.pkg (leaf.pa va)) .dflt ((noteTlb va leaf s).setLine (lineOf leaf.pkg (leaf.pa va)) (ls'.setStamp (homeHolder s leaf.kind) (ls'.at_ (homeHolder s leaf.kind)).stamp))
    (setLine_pins _ _ _ h5 (by rw [pins_stamp, pins_gatherWrite e, pins_served]; exact h5 _))
  rw [ht]
  have hc : CachesOnly s t := (noteTlb_cachesOnly va leaf s).trans ((setLine_cachesOnly _ _ _).trans (homeTouch_cachesOnly ht))
  have hold : leOf ((noteTlb va leaf s).readPhys leaf.pkg (leaf.pa va) z) = leOf (s.readPhys leaf.pkg (leaf.pa va) z) := by
    unfold State.readPhys; rw [noteTlb_mem]
  rw [hold]
  set old := leOf (s.readPhys leaf.pkg (leaf.pa va) z)
  have hc2 : CachesOnly s (reverseMap (lineOf leaf.pkg (leaf.pa va)) t.asid (va / 64) { t with core := l1Remove (fun e => e.tag == va / 64 && e.asid == t.asid) t.core }) :=
    hc.trans ((CachesOnly.ofCore (l1Remove (fun e => e.tag == va / 64 && e.asid == t.asid) t.core) rfl).trans (reverseMap_cachesOnly _ _ _ _))
  set t2 := reverseMap (lineOf leaf.pkg (leaf.pa va)) t.asid (va / 64) { t with core := l1Remove (fun e => e.tag == va / 64 && e.asid == t.asid) t.core } with ht2
  have hmem : t2.mem = s.mem := hc2.mem
  have hreturn : ∀ v, MemOnly s (applyStore leaf.pkg (leaf.pa va) { bytes := bytesOf v z } t2) ∧ Stored s leaf.pkg (leaf.pa va) (bytesOf v z) (applyStore leaf.pkg (leaf.pa va) { bytes := bytesOf v z } t2) := by
    intro v
    have hmm : (applyStore leaf.pkg (leaf.pa va) { bytes := bytesOf v z } t2).mem = memStore s.mem (memKey leaf.pkg (leaf.pa va)) (bytesOf v z) := by
      show memStore t2.mem _ _ = _
      rw [hmem]; rfl
    refine ⟨?_, ?_⟩
    · unfold MemOnly
      rw [hmm]
      have c1 : CachesOnly { s with mem := memStore s.mem (memKey leaf.pkg (leaf.pa va)) (bytesOf v z) } { t2 with mem := memStore s.mem (memKey leaf.pkg (leaf.pa va)) (bytesOf v z) } := by
        refine ⟨hc2.core, hc2.others, ?_⟩
        rw [hc2.rest]
      refine c1.trans ⟨rfl, rfl, ?_⟩
      unfold applyStore State.writePhys State.setLine
      rw [hmem]; rfl
    · intro a
      rw [hmm, memByte_store]
  cases hev : (op.eval z old b cmp).1 with
  | none =>
    refine ⟨_, rfl, rfl, ?_, ?_, ?_⟩
    · dsimp only [old] at hev ⊢
    · have : t2 = { t2 with mem := t2.mem } := rfl
      unfold MemOnly
      show CachesOnly { s with mem := t2.mem } t2
      rw [hmem]; exact hc2
    · dsimp only; rw [hev]; exact hmem
  | some v =>
    refine ⟨_, rfl, rfl, ?_, (hreturn v).1, ?_⟩
    · rfl
    · dsimp only; rw [hev]; exact (hreturn v).2

/-- A copy dropped changes no line's tokens. -/
theorem dropCopy_lines (l : Line) (h : Holder) (s : State) : (dropCopy l h s).lines = s.lines := by
  unfold dropCopy
  split
  · split
    · rfl
    · dsimp only; split <;> rfl
  · rfl

theorem dropCopies_lines (l : Line) (s : State) : (dropCopies l s).lines = s.lines := by
  unfold dropCopies
  split
  · rfl
  · have h : ∀ (is : List Nat) (s : State), (is.foldl (fun s i => dropCopy l (.die (i / 4) (i % 4)) s) s).lines = s.lines := by
      intro is
      induction is with
      | nil => exact fun s => rfl
      | cons i is ih => exact fun s => (ih _).trans (dropCopy_lines _ _ _)
    exact h _ s

/-- Sending tokens ends no lease. -/
theorem sendAll_lease (l m : Line) (a b : Holder) (s : State) : ((sendAll l a b s).line m).lease = (s.line m).lease := by
  unfold sendAll
  dsimp only
  split
  · rfl
  · show (State.line { (dropCopy l a (s.setLine l _)) with net := _ } m).lease = _
    have e : ∀ (u : State) (n : List Msg), State.line { (dropCopy l a u) with net := n } m = u.line m := by
      intro u n; unfold State.line; exact congrArg (fun x => mapGet {} x (lineKey m)) (dropCopy_lines l a u)
    rw [e, line_setLine _ _ _ _]
    split
    · rename_i hk
      have : s.line m = s.line l := by unfold State.line; rw [hk]
      rw [this]
      unfold LineState.put; split <;> rfl
    · rfl

/-- An access at home ends no lease. -/
theorem homeTouch_lease {h : Holder} {l m : Line} {hint : Hint} {s t : State} (he : homeTouch h l hint s = some t) : (t.line m).lease = (s.line m).lease := by
  unfold homeTouch at he
  split at he
  · unfold touchL2 touchFor at he
    dsimp only at he
    split at he
    · cases he
    · rename_i set' v _
      cases v with
      | none => injection he with he; subst he; rfl
      | some w => injection he with he; subst he; exact sendAll_lease _ _ _ _ _
  · injection he with he; subst he; unfold State.line; rw [dropCopies_lines]

/-- What the end of a lease changes. -/
theorem endLease_eq {s : State} {l : Line} {n : Nat} (h : s.task.lease = some (l, n)) :
    (endLease s).task = { s.task with lease := none } ∧ CachesOnly ({ s with core := { s.core with task := { s.task with lease := none } } } : State) (endLease s) ∧ ((endLease s).line l).lease ≠ some s.core.id ∧ (endLease s).mem = s.mem := by
  unfold endLease
  rw [h]
  dsimp only
  split
  · refine ⟨rfl, ⟨rfl, rfl, rfl⟩, ?_, rfl⟩
    show ((s.setLine l _).line l).lease ≠ _
    rw [line_setLine _ _ _ _, if_pos rfl]; simp
  · rename_i hn
    exact ⟨rfl, ⟨rfl, rfl, rfl⟩, hn, rfl⟩

end Sys2Proof.Claims
end

