-- ==== Sys2Proof/Laws/Matrix.lean ====
section
/-!
SUPPORT. Accumulator rows, slot claims and stamps of the matrix engine.
-/
namespace Sys2Proof.Claims

open Sys2Proof.Machine

/-- Stamping rows for a task that keeps no stamps changes none (R398). -/
theorem stamp_self (s : State) (hd : s.task.determinate = false) (u : StampUse) : ∀ (rows : List Nat) (m : Map PhaseStamp),
    ∃ m', stampAcc s.task s.core.id.lid u rows m = .ok m' ∧ ∀ r, mapFind r m' = mapFind r m
  | [], m => ⟨m, rfl, fun _ => rfl⟩
  | r :: rs, m => by
    unfold stampAcc
    have h0 : stampUses s.task s.core.id.lid 0 [u] (mapFind r m) = .ok (mapFind r m) := by simp [stampUses, hd]
    rw [h0]
    cases hm : mapFind r m with
    | none =>
      obtain ⟨m', h1, h2⟩ := stamp_self s hd u rs m
      exact ⟨m', h1, h2⟩
    | some x =>
      obtain ⟨m', h1, h2⟩ := stamp_self s hd u rs (mapPut r x m)
      refine ⟨m', h1, fun r' => ?_⟩
      rw [h2, mapFind_put]; split
      · rename_i h; rw [h, hm]
      · rfl

/-- The same for the rows of the current core. -/
theorem stampRows_self (s : State) (hd : s.task.determinate = false) (u : StampUse) (rows : List Nat) :
    ∃ m', stampRows s.task s.core.id.lid u rows [s.core.id] s = .ok (s.modTask fun t => { t with accStamp := m' }) ∧ ∀ r, mapFind r m' = mapFind r s.task.accStamp := by
  obtain ⟨m', h1, h2⟩ := stamp_self s hd u rows s.task.accStamp
  refine ⟨m', ?_, h2⟩
  unfold stampRows
  have : s.findCore s.core.id = some s.core := by simp [State.findCore]
  rw [this]
  show (stampAcc s.task s.core.id.lid u rows s.task.accStamp).bind _ = _
  rw [h1]
  show stampRows s.task s.core.id.lid u rows [] (modTaskOf s.core.id (fun t => { t with accStamp := m' }) s) = _
  unfold modTaskOf onCore
  rw [if_pos rfl]; rfl

/-- An accumulator element after a row of a vector is written (R276). -/
theorem setAcc_get (v : Vec) (row col r c : Nat) (hc : col + 16 ≤ 128) (hc' : c < 128) : ∀ (n : Nat) (m : Map (BitVec 32)), n ≤ 16 →
    mapGet 0 ((List.range n).foldl (fun m (i : Nat) => mapSet 0 m (accKey row (col + i)) (BitVec.ofNat 32 (lane 32 v i))) m) (r * 128 + c) =
      if r = row ∧ col ≤ c ∧ c < col + n then v.extractLsb' (32 * (c - col)) 32 else mapGet 0 m (r * 128 + c)
  | 0, m, _ => by rw [if_neg (by omega)]; rfl
  | n+1, m, hn => by
    rw [List.range_succ, List.foldl_append]
    simp only [List.foldl_cons, List.foldl_nil]
    rw [mapGet_set, setAcc_get v row col r c hc hc' n m (by omega)]
    unfold accKey
    by_cases h : r * 128 + c = row * 128 + (col + n)
    · rw [if_pos h, if_pos (by omega), lane_word]; congr 2; omega
    · rw [if_neg h]
      by_cases h2 : r = row ∧ col ≤ c ∧ c < col + n
      · rw [if_pos h2, if_pos (by omega)]
      · rw [if_neg h2, if_neg (by omega)]

/-- An element of a map filtered by its key. -/
theorem filter_get (m : Map (BitVec 32)) (p : Nat → Bool) (k : Nat) : mapGet 0 (m.filter fun e => !p e.1) k = if p k then 0 else mapGet 0 m k := by
  induction m with
  | nil => simp [mapGet, mapFind]
  | cons e m ih =>
    obtain ⟨a, w⟩ := e
    unfold mapGet at *
    by_cases hp : p a
    · by_cases hk : a = k
      · subst hk; simp [hp] at ih ⊢; rw [ih]
      · simp [hp, mapFind, hk] at ih ⊢; rw [ih]
    · by_cases hk : a = k
      · subst hk; simp [hp, mapFind]
      · simp [hp, mapFind, hk] at ih ⊢; rw [ih]

/-- A slot after some are claimed or freed. -/
theorem setClaims_get (x : Bool) (i : Fin 8) : ∀ (l : List Nat) (t : Task), l.Nodup → (∀ n ∈ l, n < 8) → 
    (Task.setClaims x l t).slots[i] = if i.val ∈ l then { t.slots[i] with claimed := x } else t.slots[i]
  | [], t, _, _ => by simp [Task.setClaims]
  | n :: l, t, h, hl => by
    have ih := setClaims_get x i l (t.modSlot n fun sl => { sl with claimed := x }) (List.nodup_cons.1 h).2 (fun m hm => hl m (by simp [hm]))
    have e : Task.setClaims x (n :: l) t = Task.setClaims x l (t.modSlot n fun sl => { sl with claimed := x }) := rfl
    rw [e, ih]
    have hn := hl n (by simp)
    have hv : (Fin.ofNat 8 n : Fin 8).val = n := by simp [Fin.ofNat]; omega
    have hs : (t.modSlot n fun sl => { sl with claimed := x }).slots[i] = if i.val = n then { t.slots[i] with claimed := x } else t.slots[i] := by
      unfold Task.modSlot
      simp only [Fin.getElem_fin, Vector.getElem_set, hv]
      by_cases h1 : n = i.val
      · subst h1; simp
      · simp [h1, Ne.symm h1]
    rw [hs]
    have hnl := (List.nodup_cons.1 h).1
    by_cases h1 : i.val = n
    · have : i.val ∉ l := h1 ▸ hnl
      simp [h1]

    · simp [h1]

/-- Claiming slots changes the slots alone. -/
theorem setClaims_rest (x : Bool) : ∀ (l : List Nat) (t : Task), Task.setClaims x l t = { t with slots := (Task.setClaims x l t).slots }
  | [], t => rfl
  | n :: l, t => by
    have e : Task.setClaims x (n :: l) t = Task.setClaims x l (t.modSlot n fun sl => { sl with claimed := x }) := rfl
    rw [e, setClaims_rest x l]; rfl

/-- The slots after those of a mask are claimed or freed (R105). -/
theorem setClaims_eq (x : Bool) (xa : Nat) (t : Task) : Task.setClaims x (slotMask xa) t = { t with slots := Vector.ofFn fun i : Fin 8 => if xa.testBit i.val = true then { t.slots[i] with claimed := x } else t.slots[i] } := by
  rw [setClaims_rest]
  congr 1
  ext1 i hi
  have := setClaims_get x ⟨i, hi⟩ (slotMask xa) t (List.nodup_range.filter _) (by intro n hn; simp [slotMask] at hn; exact hn.1)
  simp only [Fin.getElem_fin] at this
  rw [this]
  simp [slotMask, hi]

end Sys2Proof.Claims
end

