-- ==== Sys2Proof/Laws/Memory.lean ====
section
/-!
SUPPORT. Every operation that changes memory keeps its canonical form, and what it leaves in each byte.
-/
namespace Sys2Proof.Machine

/-- Memory at reset has the form. -/
theorem safe_reset : Safe State.reset := rfl

/-- Two states with the same memory have the form together. -/
theorem safe_of_mem {s t : State} (e : t.mem = s.mem) (h : Safe s) : Safe t := by unfold Safe at *; rw [e]; exact h

/-- A state that differs by caches alone. -/
theorem safe_of_cachesOnly {s t : State} (e : CachesOnly s t) (h : Safe s) : Safe t := safe_of_mem e.mem h

variable {s : State}

theorem safe_writePhys (pkg pa : Nat) (bs : List Byte) (h : Safe s) : Safe (s.writePhys pkg pa bs) := memWf_store _ _ _ h

theorem safe_zeroPhys (pkg pa n : Nat) (h : Safe s) : Safe (s.zeroPhys pkg pa n) := mapWf_filter 0 _ _ h

theorem safe_applyStore (pkg pa : Nat) (d : StoreData) (h : Safe s) : Safe (applyStore pkg pa d s) :=
  safe_of_mem rfl (safe_writePhys pkg pa (d.apply (s.readPhys pkg pa d.bytes.length)) h)

theorem safe_serviceWrite (pkg pa : Nat) (bs : List Byte) (h : Safe s) : Safe (serviceWrite pkg pa bs s) := safe_applyStore _ _ _ h

theorem safe_putD (pkg pa v : Nat) (h : Safe s) : Safe (s.putD pkg pa v) := safe_serviceWrite _ _ _ h

/-- A key's slot written in memory (R69, R70). -/
theorem safe_putKey (id : KeyId) (n : Option Nat) (f : Key → Key) (h : Safe s) : Safe (s.putKey id n f) := by
  unfold State.putKey
  split
  · exact h
  · rename_i r _
    show Memory.wf (s.slotMem r id.k _ n) = true
    unfold State.slotMem
    split
    · exact h
    · dsimp only
      split
      · exact memWf_store _ _ _ h
      · exact memWf_store _ _ _ (memWf_store _ _ _ (memWf_store _ _ _ h))

/-- A trap record written in its context area, or queued for it (R381). -/
theorem safe_writeRecord (r : TrapRecord) (h : Safe s) : Safe (writeRecord r s) := by
  unfold writeRecord
  split
  · exact h
  · dsimp only
    split
    · exact safe_writePhys _ _ _ h
    · exact safe_of_mem rfl h

/-- A byte of physical memory after bytes are written. -/
theorem memByte_writePhys (pkg pa : Nat) (bs : List Byte) (a : Nat) : memByte (s.writePhys pkg pa bs).mem a =
    if memKey pkg pa ≤ a ∧ a < memKey pkg pa + bs.length then bs.getD (a - memKey pkg pa) 0 else memByte s.mem a :=
  memByte_store _ _ _ _

theorem mapFind_cons (k a : Nat) (v : α) (m : Map α) : mapFind k ((a, v) :: m) = if a = k then some v else mapFind k m := rfl

/-- A byte of physical memory after bytes are cleared. -/
theorem memByte_zeroPhys (pkg pa n a : Nat) : memByte (s.zeroPhys pkg pa n).mem a =
    if memKey pkg pa ≤ a ∧ a < memKey pkg pa + n then 0 else memByte s.mem a := by
  unfold State.zeroPhys memByte mapGet
  dsimp only
  induction s.mem with
  | nil => simp [mapFind]
  | cons e m ih =>
    obtain ⟨k, v⟩ := e
    rw [List.filter_cons, mapFind_cons]
    by_cases hk : memKey pkg pa ≤ k ∧ k < memKey pkg pa + n
    · have h1 : (decide (k < memKey pkg pa) || decide (memKey pkg pa + n ≤ k)) = false := by simp; omega
      rw [h1]
      simp only [Bool.false_eq_true, if_false]
      rw [ih]
      by_cases hka : k = a
      · subst hka; simp [hk]
      · rw [if_neg hka]
    · have h1 : (decide (k < memKey pkg pa) || decide (memKey pkg pa + n ≤ k)) = true := by simp; omega
      rw [h1]
      simp only [if_true]
      rw [mapFind_cons]
      by_cases hka : k = a
      · subst hka; simp [hk]
      · rw [if_neg hka, if_neg hka]; exact ih

theorem safe_ensureTable (pkg at_ size free : Nat) (h : Safe s) : Safe (ensureTable pkg at_ size free s).2.2.2 := by
  unfold ensureTable
  dsimp only
  split
  · exact h
  · exact safe_putD _ _ _ (safe_zeroPhys _ _ _ h)

theorem safe_putEntry (pkg asid level va e free : Nat) (h : Safe s) : Safe (putEntry pkg asid level va e free s).2 := by
  unfold putEntry
  dsimp only
  have h1 := safe_ensureTable pkg (s.rootAt pkg asid) (2 ^ 21) free h
  split
  · exact safe_putD _ _ _ h1
  · split
    · exact safe_putD _ _ _ (safe_ensureTable _ _ _ _ h1)
    · exact safe_putD _ _ _ (safe_ensureTable _ _ _ _ (safe_ensureTable _ _ _ _ h1))

/-- A fold of actions that keep the form keeps it. -/
theorem safe_foldl {α : Type} (f : State → α → State) (hf : ∀ s a, Safe s → Safe (f s a)) (xs : List α) {s : State} (h : Safe s) : Safe (xs.foldl f s) := by
  induction xs generalizing s with
  | nil => exact h
  | cons x xs ih => exact ih (hf s x h)

/-- A task's image written to its context area (R383). -/
theorem safe_saveImage (h : Safe s) : Safe (saveImage s) := by
  unfold saveImage
  split
  · exact h
  · exact safe_foldl _ (fun _ _ hs => safe_writePhys _ _ _ hs) _ (safe_zeroPhys _ _ _ h)

theorem safe_mapIn (p asid va n free : Nat) (l : Leaf) (h : Safe s) : Safe (mapIn p asid va n free l s) := by
  unfold mapIn
  suffices ∀ (is : List Nat) (r : Nat × State), Safe r.2 → Safe (is.foldl (fun r (i : Nat) =>
      let l' : Leaf := { l.onPkg p with addr := l.addr + i * l.size }
      putEntry p asid (levelOfSize l.size) (va + i * l.size) l'.entry r.1 r.2) r).2 from this _ (free, s) h
  intro is
  induction is with
  | nil => intro r hr; exact hr
  | cons i is ih => intro r hr; exact ih _ (safe_putEntry _ _ _ _ _ _ hr)

theorem safe_mapPages (asid va n free : Nat) (l : Leaf) (h : Safe s) : Safe (mapPages asid va n free l s) :=
  safe_foldl _ (fun _ p hs => safe_mapIn p asid va n free l hs) _ h

theorem safe_writePieces (tenant : Nat) (ps : List (Nat × Nat)) (bs : List Byte) (h : Safe s) : Safe (writePieces tenant ps bs s) := by
  induction ps generalizing bs s with
  | nil => exact h
  | cons p ps ih =>
    unfold writePieces
    apply ih
    split
    · exact safe_serviceWrite _ _ _ h
    · exact h

theorem safe_writeVa (tenant va : Nat) (bs : List Byte) (h : Safe s) : Safe (writeVa tenant va bs s) := safe_writePieces _ _ _ h

theorem safe_storeL1 (leaf : Leaf) (va : Nat) (d : StoreData) (hint : Hint) (h : Safe s) : Safe (storeL1 leaf va d hint s) :=
  safe_of_cachesOnly (storeL1_cachesOnly _ _ _ _ _) h

theorem startAttempt_mem (pkg die : Nat) (l : Line) (w : Bool) (s : State) : (startAttempt pkg die l w s).mem = s.mem := by
  unfold startAttempt; split <;> rfl

theorem askFor_mem (l : Line) (h : Holder) (w : Bool) (s : State) : (askFor l h w s).mem = s.mem := by
  cases h <;> exact startAttempt_mem _ _ _ _ _

/-- A store that waits at its home writes nothing yet. -/
theorem queueStore_mem (l : Line) (h : Holder) (leaf : Leaf) (va : Nat) (d : StoreData) (hint : Hint) (strong : Bool) (lane : Nat) (p : Word) (s : State) :
    (queueStore l h leaf va d hint strong lane p s).mem = s.mem := by
  have e : (joinQueue l h (leaf.pa va % 64) p leaf.size (.store d) hint strong lane (storeL1 leaf va d hint s)).mem = s.mem :=
    (storeL1_cachesOnly leaf va d hint s).mem
  unfold queueStore
  dsimp only
  split
  · exact (askFor_mem _ _ _ _).trans e
  · exact e

theorem safe_copyFrame (p a q b size : Nat) (h : Safe s) : Safe (copyFrame p a q b size s) := by
  unfold copyFrame
  dsimp only
  suffices ∀ (es : List (Nat × Byte)) (m : Map Byte), Memory.wf m = true → Memory.wf (es.foldl (fun m (k, v) => mapSet 0 m k v) m) = true from
    this _ _ (safe_zeroPhys q b size h)
  intro es
  induction es with
  | nil => intro m hm; exact hm
  | cons e es ih => intro m hm; exact ih _ (mapWf_set 0 _ _ _ hm)

theorem safe_rewriteLeaves (asid va : Nat) (f : Nat → Leaf → Nat) (h : Safe s) : Safe (rewriteLeaves asid va f s) :=
  safe_foldl _ (fun s p hs => by
    split
    · exact safe_putD _ _ _ hs
    · exact hs) _ h

theorem safe_fillTable (pkg table : Nat) (l : Leaf) (i0 : Nat) (h : Safe s) : Safe (fillTable pkg table l i0 s) :=
  safe_foldl _ (fun _ _ hs => safe_putD _ _ _ hs) _ h

theorem safe_splitLeaf (p asid va free : Nat) (h : Safe s) : Safe (splitLeaf p asid va free s) := by
  unfold splitLeaf
  split
  · exact h
  · split
    · exact safe_putD _ _ _ (safe_fillTable _ _ _ _ h)
    · split
      · exact safe_putD _ _ _ (safe_foldl _ (fun _ _ hs => safe_putD _ _ _ (safe_fillTable _ _ _ _ hs)) _ h)
      · exact h

/-- An access of a store at home keeps the form. -/
theorem safe_homeStore {t : State} {leaf : Leaf} {va : Nat} {d : StoreData} {hint : Hint} {strong : Bool} {p : Word} {sync : Bool} {lane : Nat}
    (e : homeStore s leaf va d hint strong p sync lane = .ok t) (h : Safe s) : Safe t := by
  have later : ∀ (b : Bool) (w : Wait) (v : State), (if b then Try.wait w else Try.ok v) = Try.ok t → v = t := by
    intro b w v hv; cases b <;> simp at hv; exact hv
  unfold homeStore at e
  dsimp only at e
  split at e
  · rw [← later _ _ _ e]; exact safe_of_mem (queueStore_mem _ _ _ _ _ _ _ _ _ _) h
  · split at e
    · rw [← later _ _ _ e]; exact safe_of_mem (queueStore_mem _ _ _ _ _ _ _ _ _ _) h
    · obtain ⟨st, -, e⟩ := Try.bind_ok e
      split at e
      · cases e; exact safe_of_mem rfl h
      · split at e
        · rw [← later _ _ _ e]; exact safe_of_mem (queueStore_mem _ _ _ _ _ _ _ _ _ _) h
        · rename_i u hu
          cases e
          exact safe_storeL1 _ _ _ _ (safe_applyStore _ _ _ (safe_of_cachesOnly ((setLine_cachesOnly _ _ _).trans (homeTouch_cachesOnly hu)) h))

end Sys2Proof.Machine
end

