-- ==== Sys2Proof/Laws/PerInstr.lean ====
section
/-!
SUPPORT. The family `F`: a well-formed Welmal word decodes to the instruction that it encodes. One lemma for each
constructor of `Instr`.
-/
namespace Sys2Proof.Laws.F

set_option linter.unusedSimpArgs false
set_option Elab.async false

/-- What the family says of an instruction: its word has 32 bits and decodes to it (R116 to R127). A happening has no word. -/
def Statement (i : Instr) : Prop :=
  i.isEvent = false → i.wf = true → encode i < 4294967296 ∧ decodeWord (encode i) = .ok i

theorem rg_eq {w lo : Nat} {r : Reg} (h : w / 2 ^ lo % 32 = r.val) : rg w lo = r := Fin.ext h
theorem r8_eq {w lo : Nat} {r : Fin 8} (h : w / 2 ^ lo % 8 = r.val) : r8 w lo = r := Fin.ext h
theorem r16_eq {w lo : Nat} {r : R16} (h : w / 2 ^ lo % 16 = r.val) : r16 w lo = r := Fin.ext h
theorem boolCode_lt (b : Bool) : boolCode b < 2 := by cases b <;> decide
theorem Scope.code_lt (x : Scope) : x.code < 5 := by cases x <;> decide
theorem Hint.code_lt (x : Hint) : x.code < 4 := by cases x <;> decide
theorem VT.code_lt (x : VT) : x.code < 14 := by cases x <;> decide
theorem FatField.code_lt (x : FatField) : x.code < 5 := by cases x <;> decide
theorem GangSize.code_lt (x : GangSize) : x.code < 4 := by cases x <;> decide
theorem SysReg.code_lt (x : SysReg) : x.code < 30 := by cases x <;> simp only [SysReg.code] <;> omega
theorem SupReg.code_lt (x : SupReg) : x.code < 5 := by cases x <;> decide
theorem C8Table.code_lt (x : C8Table) : x.code < 2 := by cases x <;> decide
theorem IdxSize.code_lt (x : IdxSize) : x.code < 8 := by cases x <;> decide
theorem AmoSize.code_lt (x : AmoSize) : x.code < 4 := by cases x <;> decide
theorem RMode.code_lt (x : RMode) : x.code < 4 := by cases x <;> decide
theorem Strength.sbit_lt (x : Strength) : x.sbit < 2 := by cases x <;> simp [Strength.sbit]
theorem Strength.scode_lt (x : Strength) : x.scode < 5 := by
  cases x with
  | weak => decide
  | strong sc => exact Scope.code_lt sc

theorem scopeOf_code (x : Scope) : scopeOf x.code = some x := by cases x <;> rfl
theorem hintOf_code (x : Hint) : hintOf x.code = x := by cases x <;> rfl
theorem vtOf_code (x : VT) : vtOf x.code = some x := by cases x <;> rfl
theorem fatFieldOf_code (x : FatField) : fatFieldOf x.code = some x := by cases x <;> rfl
theorem gangOf_code (x : GangSize) : gangOf x.code = some x := by cases x <;> rfl
theorem sysRegOf_code (x : SysReg) : sysRegOf x.code = some x := by
  cases x with
  | rngc i => exact (by decide : ∀ i : Fin 8, sysRegOf (SysReg.rngc i).code = some (.rngc i)) i
  | win i => exact (by decide : ∀ i : Fin 4, sysRegOf (SysReg.win i).code = some (.win i)) i
  | _ => rfl
theorem supRegOf_code (x : SupReg) : supRegOf x.code = some x := by cases x <;> rfl
theorem c8Of_code (x : C8Table) : c8Of x.code = x := by cases x <;> rfl
theorem idxSizeOf_code (x : IdxSize) : idxSizeOf x.code = x := by cases x <;> rfl
theorem amoSizeOf_code (x : AmoSize) : amoSizeOf x.code = some x := by cases x <;> rfl
theorem rmodeOf_code (x : RMode) : rmodeOf x.code = some x := by cases x <;> rfl
theorem strengthOf_code (x : Strength) : strengthOf x.sbit x.scode = some x := by
  cases x with
  | weak => rfl
  | strong sc => cases sc <;> rfl
theorem boolCode_beq (b : Bool) : (boolCode b == 1) = b := by cases b <;> rfl

/-! ## The fields of a word -/

theorem dab {w m d a b l : Nat} (hm : m < 64) (hd : d < 32) (ha : a < 32) (hb : b < 32) (hl : l < 2048)
    (hw : w = m * 67108864 + d * 2097152 + a * 65536 + b * 2048 + l) :
    fld w 26 6 = m ∧ fld w 21 5 = d ∧ fld w 16 5 = a ∧ fld w 11 5 = b ∧ w % 2048 = l ∧ w < 4294967296 := by
  unfold fld; omega

theorem dai {w m d a i : Nat} (hm : m < 64) (hd : d < 32) (ha : a < 32) (hi : i < 65536)
    (hw : w = m * 67108864 + d * 2097152 + a * 65536 + i) :
    fld w 26 6 = m ∧ fld w 21 5 = d ∧ fld w 16 5 = a ∧ w % 65536 = i ∧ w < 4294967296 := by
  unfold fld; omega

theorem dj {w m d i : Nat} (hm : m < 64) (hd : d < 32) (hi : i < 2097152)
    (hw : w = m * 67108864 + d * 2097152 + i) :
    fld w 26 6 = m ∧ fld w 21 5 = d ∧ w % 2097152 = i ∧ w < 4294967296 := by
  unfold fld; omega

theorem fld_mod {w i lo k n : Nat} (h : w % 2 ^ n = i) (hn : lo + k ≤ n) : fld w lo k = fld i lo k := by
  subst h
  obtain ⟨e, rfl⟩ : ∃ e, n = lo + (k + e) := ⟨n - lo - k, by omega⟩
  unfold fld
  rw [pow_add, Nat.mod_mul_right_div_self, pow_add, Nat.mod_mul_right_mod]

theorem fld_low11 {w i lo k : Nat} (h : w % 2048 = i) (hn : lo + k ≤ 11) : fld w lo k = fld i lo k := fld_mod (n := 11) h hn
theorem fld_low16 {w i lo k : Nat} (h : w % 65536 = i) (hn : lo + k ≤ 16) : fld w lo k = fld i lo k := fld_mod (n := 16) h hn
theorem fld_low21 {w i lo k : Nat} (h : w % 2097152 = i) (hn : lo + k ≤ 21) : fld w lo k = fld i lo k := fld_mod (n := 21) h hn

theorem word_add (d : Reg) (a : Reg) (b : Reg) {w : Nat} (hw : w = 1 * 67108864 + d.val * 2097152 + a.val * 65536 + b.val * 2048 + (0)) :
    w < 4294967296 ∧ decodeWord w = .ok (.add d a b) := by
  have b11 : b.val < 32 := b.isLt
  have b16 : a.val < 32 := a.isLt
  have b21 : d.val < 32 := d.isLt
  obtain ⟨h26, h21, h16, h11, h0, hlt⟩ := dab (by decide) (Fin.isLt _) (Fin.isLt _) (Fin.isLt _) (by decide) hw
  have f0_11 : fld w 0 11 = 0 := (fld_low11 h0 (by decide)).trans (by decide)
  have e11 : rg w 11 = b := rg_eq h11
  have e16 : rg w 16 = a := rg_eq h16
  have e21 : rg w 21 = d := rg_eq h21
  refine ⟨hlt, ?_⟩
  simp [decodeWord, decAlu, h26, f0_11, e11, e16, e21]

theorem add (d : Reg) (a : Reg) (b : Reg) : Statement (.add d a b) := fun _ _ =>
  word_add d a b (by show put 11 b.val (put 16 a.val (put 21 d.val 67108864)) = _; unfold put; omega)

theorem word_sub (d : Reg) (a : Reg) (b : Reg) {w : Nat} (hw : w = 1 * 67108864 + d.val * 2097152 + a.val * 65536 + b.val * 2048 + (1)) :
    w < 4294967296 ∧ decodeWord w = .ok (.sub d a b) := by
  have b11 : b.val < 32 := b.isLt
  have b16 : a.val < 32 := a.isLt
  have b21 : d.val < 32 := d.isLt
  obtain ⟨h26, h21, h16, h11, h0, hlt⟩ := dab (by decide) (Fin.isLt _) (Fin.isLt _) (Fin.isLt _) (by decide) hw
  have f0_11 : fld w 0 11 = 1 := (fld_low11 h0 (by decide)).trans (by decide)
  have e11 : rg w 11 = b := rg_eq h11
  have e16 : rg w 16 = a := rg_eq h16
  have e21 : rg w 21 = d := rg_eq h21
  refine ⟨hlt, ?_⟩
  simp [decodeWord, decAlu, h26, f0_11, e11, e16, e21]

theorem sub (d : Reg) (a : Reg) (b : Reg) : Statement (.sub d a b) := fun _ _ =>
  word_sub d a b (by show put 11 b.val (put 16 a.val (put 21 d.val 67108865)) = _; unfold put; omega)

theorem word_and (d : Reg) (a : Reg) (b : Reg) {w : Nat} (hw : w = 1 * 67108864 + d.val * 2097152 + a.val * 65536 + b.val * 2048 + (2)) :
    w < 4294967296 ∧ decodeWord w = .ok (.and d a b) := by
  have b11 : b.val < 32 := b.isLt
  have b16 : a.val < 32 := a.isLt
  have b21 : d.val < 32 := d.isLt
  obtain ⟨h26, h21, h16, h11, h0, hlt⟩ := dab (by decide) (Fin.isLt _) (Fin.isLt _) (Fin.isLt _) (by decide) hw
  have f0_11 : fld w 0 11 = 2 := (fld_low11 h0 (by decide)).trans (by decide)
  have e11 : rg w 11 = b := rg_eq h11
  have e16 : rg w 16 = a := rg_eq h16
  have e21 : rg w 21 = d := rg_eq h21
  refine ⟨hlt, ?_⟩
  simp [decodeWord, decAlu, h26, f0_11, e11, e16, e21]

theorem and (d : Reg) (a : Reg) (b : Reg) : Statement (.and d a b) := fun _ _ =>
  word_and d a b (by show put 11 b.val (put 16 a.val (put 21 d.val 67108866)) = _; unfold put; omega)

theorem word_or (d : Reg) (a : Reg) (b : Reg) {w : Nat} (hw : w = 1 * 67108864 + d.val * 2097152 + a.val * 65536 + b.val * 2048 + (3)) :
    w < 4294967296 ∧ decodeWord w = .ok (.or d a b) := by
  have b11 : b.val < 32 := b.isLt
  have b16 : a.val < 32 := a.isLt
  have b21 : d.val < 32 := d.isLt
  obtain ⟨h26, h21, h16, h11, h0, hlt⟩ := dab (by decide) (Fin.isLt _) (Fin.isLt _) (Fin.isLt _) (by decide) hw
  have f0_11 : fld w 0 11 = 3 := (fld_low11 h0 (by decide)).trans (by decide)
  have e11 : rg w 11 = b := rg_eq h11
  have e16 : rg w 16 = a := rg_eq h16
  have e21 : rg w 21 = d := rg_eq h21
  refine ⟨hlt, ?_⟩
  simp [decodeWord, decAlu, h26, f0_11, e11, e16, e21]

theorem or (d : Reg) (a : Reg) (b : Reg) : Statement (.or d a b) := fun _ _ =>
  word_or d a b (by show put 11 b.val (put 16 a.val (put 21 d.val 67108867)) = _; unfold put; omega)

theorem word_xor (d : Reg) (a : Reg) (b : Reg) {w : Nat} (hw : w = 1 * 67108864 + d.val * 2097152 + a.val * 65536 + b.val * 2048 + (4)) :
    w < 4294967296 ∧ decodeWord w = .ok (.xor d a b) := by
  have b11 : b.val < 32 := b.isLt
  have b16 : a.val < 32 := a.isLt
  have b21 : d.val < 32 := d.isLt
  obtain ⟨h26, h21, h16, h11, h0, hlt⟩ := dab (by decide) (Fin.isLt _) (Fin.isLt _) (Fin.isLt _) (by decide) hw
  have f0_11 : fld w 0 11 = 4 := (fld_low11 h0 (by decide)).trans (by decide)
  have e11 : rg w 11 = b := rg_eq h11
  have e16 : rg w 16 = a := rg_eq h16
  have e21 : rg w 21 = d := rg_eq h21
  refine ⟨hlt, ?_⟩
  simp [decodeWord, decAlu, h26, f0_11, e11, e16, e21]

theorem xor (d : Reg) (a : Reg) (b : Reg) : Statement (.xor d a b) := fun _ _ =>
  word_xor d a b (by show put 11 b.val (put 16 a.val (put 21 d.val 67108868)) = _; unfold put; omega)

theorem word_sll (d : Reg) (a : Reg) (b : Reg) {w : Nat} (hw : w = 1 * 67108864 + d.val * 2097152 + a.val * 65536 + b.val * 2048 + (5)) :
    w < 4294967296 ∧ decodeWord w = .ok (.sll d a b) := by
  have b11 : b.val < 32 := b.isLt
  have b16 : a.val < 32 := a.isLt
  have b21 : d.val < 32 := d.isLt
  obtain ⟨h26, h21, h16, h11, h0, hlt⟩ := dab (by decide) (Fin.isLt _) (Fin.isLt _) (Fin.isLt _) (by decide) hw
  have f0_11 : fld w 0 11 = 5 := (fld_low11 h0 (by decide)).trans (by decide)
  have e11 : rg w 11 = b := rg_eq h11
  have e16 : rg w 16 = a := rg_eq h16
  have e21 : rg w 21 = d := rg_eq h21
  refine ⟨hlt, ?_⟩
  simp [decodeWord, decAlu, h26, f0_11, e11, e16, e21]

theorem sll (d : Reg) (a : Reg) (b : Reg) : Statement (.sll d a b) := fun _ _ =>
  word_sll d a b (by show put 11 b.val (put 16 a.val (put 21 d.val 67108869)) = _; unfold put; omega)

theorem word_srl (d : Reg) (a : Reg) (b : Reg) {w : Nat} (hw : w = 1 * 67108864 + d.val * 2097152 + a.val * 65536 + b.val * 2048 + (6)) :
    w < 4294967296 ∧ decodeWord w = .ok (.srl d a b) := by
  have b11 : b.val < 32 := b.isLt
  have b16 : a.val < 32 := a.isLt
  have b21 : d.val < 32 := d.isLt
  obtain ⟨h26, h21, h16, h11, h0, hlt⟩ := dab (by decide) (Fin.isLt _) (Fin.isLt _) (Fin.isLt _) (by decide) hw
  have f0_11 : fld w 0 11 = 6 := (fld_low11 h0 (by decide)).trans (by decide)
  have e11 : rg w 11 = b := rg_eq h11
  have e16 : rg w 16 = a := rg_eq h16
  have e21 : rg w 21 = d := rg_eq h21
  refine ⟨hlt, ?_⟩
  simp [decodeWord, decAlu, h26, f0_11, e11, e16, e21]

theorem srl (d : Reg) (a : Reg) (b : Reg) : Statement (.srl d a b) := fun _ _ =>
  word_srl d a b (by show put 11 b.val (put 16 a.val (put 21 d.val 67108870)) = _; unfold put; omega)

theorem word_sra (d : Reg) (a : Reg) (b : Reg) {w : Nat} (hw : w = 1 * 67108864 + d.val * 2097152 + a.val * 65536 + b.val * 2048 + (7)) :
    w < 4294967296 ∧ decodeWord w = .ok (.sra d a b) := by
  have b11 : b.val < 32 := b.isLt
  have b16 : a.val < 32 := a.isLt
  have b21 : d.val < 32 := d.isLt
  obtain ⟨h26, h21, h16, h11, h0, hlt⟩ := dab (by decide) (Fin.isLt _) (Fin.isLt _) (Fin.isLt _) (by decide) hw
  have f0_11 : fld w 0 11 = 7 := (fld_low11 h0 (by decide)).trans (by decide)
  have e11 : rg w 11 = b := rg_eq h11
  have e16 : rg w 16 = a := rg_eq h16
  have e21 : rg w 21 = d := rg_eq h21
  refine ⟨hlt, ?_⟩
  simp [decodeWord, decAlu, h26, f0_11, e11, e16, e21]

theorem sra (d : Reg) (a : Reg) (b : Reg) : Statement (.sra d a b) := fun _ _ =>
  word_sra d a b (by show put 11 b.val (put 16 a.val (put 21 d.val 67108871)) = _; unfold put; omega)

theorem word_slt (d : Reg) (a : Reg) (b : Reg) {w : Nat} (hw : w = 1 * 67108864 + d.val * 2097152 + a.val * 65536 + b.val * 2048 + (8)) :
    w < 4294967296 ∧ decodeWord w = .ok (.slt d a b) := by
  have b11 : b.val < 32 := b.isLt
  have b16 : a.val < 32 := a.isLt
  have b21 : d.val < 32 := d.isLt
  obtain ⟨h26, h21, h16, h11, h0, hlt⟩ := dab (by decide) (Fin.isLt _) (Fin.isLt _) (Fin.isLt _) (by decide) hw
  have f0_11 : fld w 0 11 = 8 := (fld_low11 h0 (by decide)).trans (by decide)
  have e11 : rg w 11 = b := rg_eq h11
  have e16 : rg w 16 = a := rg_eq h16
  have e21 : rg w 21 = d := rg_eq h21
  refine ⟨hlt, ?_⟩
  simp [decodeWord, decAlu, h26, f0_11, e11, e16, e21]

theorem slt (d : Reg) (a : Reg) (b : Reg) : Statement (.slt d a b) := fun _ _ =>
  word_slt d a b (by show put 11 b.val (put 16 a.val (put 21 d.val 67108872)) = _; unfold put; omega)

theorem word_sltu (d : Reg) (a : Reg) (b : Reg) {w : Nat} (hw : w = 1 * 67108864 + d.val * 2097152 + a.val * 65536 + b.val * 2048 + (9)) :
    w < 4294967296 ∧ decodeWord w = .ok (.sltu d a b) := by
  have b11 : b.val < 32 := b.isLt
  have b16 : a.val < 32 := a.isLt
  have b21 : d.val < 32 := d.isLt
  obtain ⟨h26, h21, h16, h11, h0, hlt⟩ := dab (by decide) (Fin.isLt _) (Fin.isLt _) (Fin.isLt _) (by decide) hw
  have f0_11 : fld w 0 11 = 9 := (fld_low11 h0 (by decide)).trans (by decide)
  have e11 : rg w 11 = b := rg_eq h11
  have e16 : rg w 16 = a := rg_eq h16
  have e21 : rg w 21 = d := rg_eq h21
  refine ⟨hlt, ?_⟩
  simp [decodeWord, decAlu, h26, f0_11, e11, e16, e21]

theorem sltu (d : Reg) (a : Reg) (b : Reg) : Statement (.sltu d a b) := fun _ _ =>
  word_sltu d a b (by show put 11 b.val (put 16 a.val (put 21 d.val 67108873)) = _; unfold put; omega)

theorem word_mul (d : Reg) (a : Reg) (b : Reg) {w : Nat} (hw : w = 1 * 67108864 + d.val * 2097152 + a.val * 65536 + b.val * 2048 + (10)) :
    w < 4294967296 ∧ decodeWord w = .ok (.mul d a b) := by
  have b11 : b.val < 32 := b.isLt
  have b16 : a.val < 32 := a.isLt
  have b21 : d.val < 32 := d.isLt
  obtain ⟨h26, h21, h16, h11, h0, hlt⟩ := dab (by decide) (Fin.isLt _) (Fin.isLt _) (Fin.isLt _) (by decide) hw
  have f0_11 : fld w 0 11 = 10 := (fld_low11 h0 (by decide)).trans (by decide)
  have e11 : rg w 11 = b := rg_eq h11
  have e16 : rg w 16 = a := rg_eq h16
  have e21 : rg w 21 = d := rg_eq h21
  refine ⟨hlt, ?_⟩
  simp [decodeWord, decAlu, h26, f0_11, e11, e16, e21]

theorem mul (d : Reg) (a : Reg) (b : Reg) : Statement (.mul d a b) := fun _ _ =>
  word_mul d a b (by show put 11 b.val (put 16 a.val (put 21 d.val 67108874)) = _; unfold put; omega)

theorem word_mulh (d : Reg) (a : Reg) (b : Reg) {w : Nat} (hw : w = 1 * 67108864 + d.val * 2097152 + a.val * 65536 + b.val * 2048 + (11)) :
    w < 4294967296 ∧ decodeWord w = .ok (.mulh d a b) := by
  have b11 : b.val < 32 := b.isLt
  have b16 : a.val < 32 := a.isLt
  have b21 : d.val < 32 := d.isLt
  obtain ⟨h26, h21, h16, h11, h0, hlt⟩ := dab (by decide) (Fin.isLt _) (Fin.isLt _) (Fin.isLt _) (by decide) hw
  have f0_11 : fld w 0 11 = 11 := (fld_low11 h0 (by decide)).trans (by decide)
  have e11 : rg w 11 = b := rg_eq h11
  have e16 : rg w 16 = a := rg_eq h16
  have e21 : rg w 21 = d := rg_eq h21
  refine ⟨hlt, ?_⟩
  simp [decodeWord, decAlu, h26, f0_11, e11, e16, e21]

theorem mulh (d : Reg) (a : Reg) (b : Reg) : Statement (.mulh d a b) := fun _ _ =>
  word_mulh d a b (by show put 11 b.val (put 16 a.val (put 21 d.val 67108875)) = _; unfold put; omega)

theorem word_mulhu (d : Reg) (a : Reg) (b : Reg) {w : Nat} (hw : w = 1 * 67108864 + d.val * 2097152 + a.val * 65536 + b.val * 2048 + (12)) :
    w < 4294967296 ∧ decodeWord w = .ok (.mulhu d a b) := by
  have b11 : b.val < 32 := b.isLt
  have b16 : a.val < 32 := a.isLt
  have b21 : d.val < 32 := d.isLt
  obtain ⟨h26, h21, h16, h11, h0, hlt⟩ := dab (by decide) (Fin.isLt _) (Fin.isLt _) (Fin.isLt _) (by decide) hw
  have f0_11 : fld w 0 11 = 12 := (fld_low11 h0 (by decide)).trans (by decide)
  have e11 : rg w 11 = b := rg_eq h11
  have e16 : rg w 16 = a := rg_eq h16
  have e21 : rg w 21 = d := rg_eq h21
  refine ⟨hlt, ?_⟩
  simp [decodeWord, decAlu, h26, f0_11, e11, e16, e21]

theorem mulhu (d : Reg) (a : Reg) (b : Reg) : Statement (.mulhu d a b) := fun _ _ =>
  word_mulhu d a b (by show put 11 b.val (put 16 a.val (put 21 d.val 67108876)) = _; unfold put; omega)

theorem word_div (d : Reg) (a : Reg) (b : Reg) {w : Nat} (hw : w = 1 * 67108864 + d.val * 2097152 + a.val * 65536 + b.val * 2048 + (13)) :
    w < 4294967296 ∧ decodeWord w = .ok (.div d a b) := by
  have b11 : b.val < 32 := b.isLt
  have b16 : a.val < 32 := a.isLt
  have b21 : d.val < 32 := d.isLt
  obtain ⟨h26, h21, h16, h11, h0, hlt⟩ := dab (by decide) (Fin.isLt _) (Fin.isLt _) (Fin.isLt _) (by decide) hw
  have f0_11 : fld w 0 11 = 13 := (fld_low11 h0 (by decide)).trans (by decide)
  have e11 : rg w 11 = b := rg_eq h11
  have e16 : rg w 16 = a := rg_eq h16
  have e21 : rg w 21 = d := rg_eq h21
  refine ⟨hlt, ?_⟩
  simp [decodeWord, decAlu, h26, f0_11, e11, e16, e21]

theorem div (d : Reg) (a : Reg) (b : Reg) : Statement (.div d a b) := fun _ _ =>
  word_div d a b (by show put 11 b.val (put 16 a.val (put 21 d.val 67108877)) = _; unfold put; omega)

theorem word_divu (d : Reg) (a : Reg) (b : Reg) {w : Nat} (hw : w = 1 * 67108864 + d.val * 2097152 + a.val * 65536 + b.val * 2048 + (14)) :
    w < 4294967296 ∧ decodeWord w = .ok (.divu d a b) := by
  have b11 : b.val < 32 := b.isLt
  have b16 : a.val < 32 := a.isLt
  have b21 : d.val < 32 := d.isLt
  obtain ⟨h26, h21, h16, h11, h0, hlt⟩ := dab (by decide) (Fin.isLt _) (Fin.isLt _) (Fin.isLt _) (by decide) hw
  have f0_11 : fld w 0 11 = 14 := (fld_low11 h0 (by decide)).trans (by decide)
  have e11 : rg w 11 = b := rg_eq h11
  have e16 : rg w 16 = a := rg_eq h16
  have e21 : rg w 21 = d := rg_eq h21
  refine ⟨hlt, ?_⟩
  simp [decodeWord, decAlu, h26, f0_11, e11, e16, e21]

theorem divu (d : Reg) (a : Reg) (b : Reg) : Statement (.divu d a b) := fun _ _ =>
  word_divu d a b (by show put 11 b.val (put 16 a.val (put 21 d.val 67108878)) = _; unfold put; omega)

theorem word_rem (d : Reg) (a : Reg) (b : Reg) {w : Nat} (hw : w = 1 * 67108864 + d.val * 2097152 + a.val * 65536 + b.val * 2048 + (15)) :
    w < 4294967296 ∧ decodeWord w = .ok (.rem d a b) := by
  have b11 : b.val < 32 := b.isLt
  have b16 : a.val < 32 := a.isLt
  have b21 : d.val < 32 := d.isLt
  obtain ⟨h26, h21, h16, h11, h0, hlt⟩ := dab (by decide) (Fin.isLt _) (Fin.isLt _) (Fin.isLt _) (by decide) hw
  have f0_11 : fld w 0 11 = 15 := (fld_low11 h0 (by decide)).trans (by decide)
  have e11 : rg w 11 = b := rg_eq h11
  have e16 : rg w 16 = a := rg_eq h16
  have e21 : rg w 21 = d := rg_eq h21
  refine ⟨hlt, ?_⟩
  simp [decodeWord, decAlu, h26, f0_11, e11, e16, e21]

theorem rem (d : Reg) (a : Reg) (b : Reg) : Statement (.rem d a b) := fun _ _ =>
  word_rem d a b (by show put 11 b.val (put 16 a.val (put 21 d.val 67108879)) = _; unfold put; omega)

theorem word_remu (d : Reg) (a : Reg) (b : Reg) {w : Nat} (hw : w = 1 * 67108864 + d.val * 2097152 + a.val * 65536 + b.val * 2048 + (16)) :
    w < 4294967296 ∧ decodeWord w = .ok (.remu d a b) := by
  have b11 : b.val < 32 := b.isLt
  have b16 : a.val < 32 := a.isLt
  have b21 : d.val < 32 := d.isLt
  obtain ⟨h26, h21, h16, h11, h0, hlt⟩ := dab (by decide) (Fin.isLt _) (Fin.isLt _) (Fin.isLt _) (by decide) hw
  have f0_11 : fld w 0 11 = 16 := (fld_low11 h0 (by decide)).trans (by decide)
  have e11 : rg w 11 = b := rg_eq h11
  have e16 : rg w 16 = a := rg_eq h16
  have e21 : rg w 21 = d := rg_eq h21
  refine ⟨hlt, ?_⟩
  simp [decodeWord, decAlu, h26, f0_11, e11, e16, e21]

theorem remu (d : Reg) (a : Reg) (b : Reg) : Statement (.remu d a b) := fun _ _ =>
  word_remu d a b (by show put 11 b.val (put 16 a.val (put 21 d.val 67108880)) = _; unfold put; omega)

theorem word_min (d : Reg) (a : Reg) (b : Reg) {w : Nat} (hw : w = 1 * 67108864 + d.val * 2097152 + a.val * 65536 + b.val * 2048 + (17)) :
    w < 4294967296 ∧ decodeWord w = .ok (.min d a b) := by
  have b11 : b.val < 32 := b.isLt
  have b16 : a.val < 32 := a.isLt
  have b21 : d.val < 32 := d.isLt
  obtain ⟨h26, h21, h16, h11, h0, hlt⟩ := dab (by decide) (Fin.isLt _) (Fin.isLt _) (Fin.isLt _) (by decide) hw
  have f0_11 : fld w 0 11 = 17 := (fld_low11 h0 (by decide)).trans (by decide)
  have e11 : rg w 11 = b := rg_eq h11
  have e16 : rg w 16 = a := rg_eq h16
  have e21 : rg w 21 = d := rg_eq h21
  refine ⟨hlt, ?_⟩
  simp [decodeWord, decAlu, h26, f0_11, e11, e16, e21]

theorem min (d : Reg) (a : Reg) (b : Reg) : Statement (.min d a b) := fun _ _ =>
  word_min d a b (by show put 11 b.val (put 16 a.val (put 21 d.val 67108881)) = _; unfold put; omega)

theorem word_max (d : Reg) (a : Reg) (b : Reg) {w : Nat} (hw : w = 1 * 67108864 + d.val * 2097152 + a.val * 65536 + b.val * 2048 + (18)) :
    w < 4294967296 ∧ decodeWord w = .ok (.max d a b) := by
  have b11 : b.val < 32 := b.isLt
  have b16 : a.val < 32 := a.isLt
  have b21 : d.val < 32 := d.isLt
  obtain ⟨h26, h21, h16, h11, h0, hlt⟩ := dab (by decide) (Fin.isLt _) (Fin.isLt _) (Fin.isLt _) (by decide) hw
  have f0_11 : fld w 0 11 = 18 := (fld_low11 h0 (by decide)).trans (by decide)
  have e11 : rg w 11 = b := rg_eq h11
  have e16 : rg w 16 = a := rg_eq h16
  have e21 : rg w 21 = d := rg_eq h21
  refine ⟨hlt, ?_⟩
  simp [decodeWord, decAlu, h26, f0_11, e11, e16, e21]

theorem max (d : Reg) (a : Reg) (b : Reg) : Statement (.max d a b) := fun _ _ =>
  word_max d a b (by show put 11 b.val (put 16 a.val (put 21 d.val 67108882)) = _; unfold put; omega)

theorem word_minu (d : Reg) (a : Reg) (b : Reg) {w : Nat} (hw : w = 1 * 67108864 + d.val * 2097152 + a.val * 65536 + b.val * 2048 + (19)) :
    w < 4294967296 ∧ decodeWord w = .ok (.minu d a b) := by
  have b11 : b.val < 32 := b.isLt
  have b16 : a.val < 32 := a.isLt
  have b21 : d.val < 32 := d.isLt
  obtain ⟨h26, h21, h16, h11, h0, hlt⟩ := dab (by decide) (Fin.isLt _) (Fin.isLt _) (Fin.isLt _) (by decide) hw
  have f0_11 : fld w 0 11 = 19 := (fld_low11 h0 (by decide)).trans (by decide)
  have e11 : rg w 11 = b := rg_eq h11
  have e16 : rg w 16 = a := rg_eq h16
  have e21 : rg w 21 = d := rg_eq h21
  refine ⟨hlt, ?_⟩
  simp [decodeWord, decAlu, h26, f0_11, e11, e16, e21]

theorem minu (d : Reg) (a : Reg) (b : Reg) : Statement (.minu d a b) := fun _ _ =>
  word_minu d a b (by show put 11 b.val (put 16 a.val (put 21 d.val 67108883)) = _; unfold put; omega)

theorem word_maxu (d : Reg) (a : Reg) (b : Reg) {w : Nat} (hw : w = 1 * 67108864 + d.val * 2097152 + a.val * 65536 + b.val * 2048 + (20)) :
    w < 4294967296 ∧ decodeWord w = .ok (.maxu d a b) := by
  have b11 : b.val < 32 := b.isLt
  have b16 : a.val < 32 := a.isLt
  have b21 : d.val < 32 := d.isLt
  obtain ⟨h26, h21, h16, h11, h0, hlt⟩ := dab (by decide) (Fin.isLt _) (Fin.isLt _) (Fin.isLt _) (by decide) hw
  have f0_11 : fld w 0 11 = 20 := (fld_low11 h0 (by decide)).trans (by decide)
  have e11 : rg w 11 = b := rg_eq h11
  have e16 : rg w 16 = a := rg_eq h16
  have e21 : rg w 21 = d := rg_eq h21
  refine ⟨hlt, ?_⟩
  simp [decodeWord, decAlu, h26, f0_11, e11, e16, e21]

theorem maxu (d : Reg) (a : Reg) (b : Reg) : Statement (.maxu d a b) := fun _ _ =>
  word_maxu d a b (by show put 11 b.val (put 16 a.val (put 21 d.val 67108884)) = _; unfold put; omega)

theorem word_clz (d : Reg) (a : Reg) {w : Nat} (hw : w = 1 * 67108864 + d.val * 2097152 + a.val * 65536 + 0 * 2048 + (21)) :
    w < 4294967296 ∧ decodeWord w = .ok (.clz d a) := by
  have b16 : a.val < 32 := a.isLt
  have b21 : d.val < 32 := d.isLt
  obtain ⟨h26, h21, h16, h11, h0, hlt⟩ := dab (by decide) (Fin.isLt _) (Fin.isLt _) (by decide) (by decide) hw
  have f11_5 : fld w 11 5 = 0 := h11
  have f0_11 : fld w 0 11 = 21 := (fld_low11 h0 (by decide)).trans (by decide)
  have e16 : rg w 16 = a := rg_eq h16
  have e21 : rg w 21 = d := rg_eq h21
  refine ⟨hlt, ?_⟩
  simp [decodeWord, decAlu, need, h26, f11_5, f0_11, e16, e21]

theorem clz (d : Reg) (a : Reg) : Statement (.clz d a) := fun _ _ =>
  word_clz d a (by show put 16 a.val (put 21 d.val 67108885) = _; unfold put; omega)

theorem word_ctz (d : Reg) (a : Reg) {w : Nat} (hw : w = 1 * 67108864 + d.val * 2097152 + a.val * 65536 + 0 * 2048 + (22)) :
    w < 4294967296 ∧ decodeWord w = .ok (.ctz d a) := by
  have b16 : a.val < 32 := a.isLt
  have b21 : d.val < 32 := d.isLt
  obtain ⟨h26, h21, h16, h11, h0, hlt⟩ := dab (by decide) (Fin.isLt _) (Fin.isLt _) (by decide) (by decide) hw
  have f11_5 : fld w 11 5 = 0 := h11
  have f0_11 : fld w 0 11 = 22 := (fld_low11 h0 (by decide)).trans (by decide)
  have e16 : rg w 16 = a := rg_eq h16
  have e21 : rg w 21 = d := rg_eq h21
  refine ⟨hlt, ?_⟩
  simp [decodeWord, decAlu, need, h26, f11_5, f0_11, e16, e21]

theorem ctz (d : Reg) (a : Reg) : Statement (.ctz d a) := fun _ _ =>
  word_ctz d a (by show put 16 a.val (put 21 d.val 67108886) = _; unfold put; omega)

theorem word_popc (d : Reg) (a : Reg) {w : Nat} (hw : w = 1 * 67108864 + d.val * 2097152 + a.val * 65536 + 0 * 2048 + (23)) :
    w < 4294967296 ∧ decodeWord w = .ok (.popc d a) := by
  have b16 : a.val < 32 := a.isLt
  have b21 : d.val < 32 := d.isLt
  obtain ⟨h26, h21, h16, h11, h0, hlt⟩ := dab (by decide) (Fin.isLt _) (Fin.isLt _) (by decide) (by decide) hw
  have f11_5 : fld w 11 5 = 0 := h11
  have f0_11 : fld w 0 11 = 23 := (fld_low11 h0 (by decide)).trans (by decide)
  have e16 : rg w 16 = a := rg_eq h16
  have e21 : rg w 21 = d := rg_eq h21
  refine ⟨hlt, ?_⟩
  simp [decodeWord, decAlu, need, h26, f11_5, f0_11, e16, e21]

theorem popc (d : Reg) (a : Reg) : Statement (.popc d a) := fun _ _ =>
  word_popc d a (by show put 16 a.val (put 21 d.val 67108887) = _; unfold put; omega)

theorem word_addi (d : Reg) (a : Reg) (imm : BitVec 16) {w : Nat} (hw : w = 2 * 67108864 + d.val * 2097152 + a.val * 65536 + (imm.toNat)) :
    w < 4294967296 ∧ decodeWord w = .ok (.addi d a imm) := by
  have b0 : imm.toNat < 65536 := imm.isLt
  have b16 : a.val < 32 := a.isLt
  have b21 : d.val < 32 := d.isLt
  obtain ⟨h26, h21, h16, h0, hlt⟩ := dai (by decide) (Fin.isLt _) (Fin.isLt _) (by omega) hw
  have e0 : BitVec.ofNat 16 w = imm := BitVec.eq_of_toNat_eq (by rw [BitVec.toNat_ofNat]; omega)
  have e16 : rg w 16 = a := rg_eq h16
  have e21 : rg w 21 = d := rg_eq h21
  refine ⟨hlt, ?_⟩
  simp [decodeWord, h26, e0, e16, e21]

theorem addi (d : Reg) (a : Reg) (imm : BitVec 16) : Statement (.addi d a imm) := fun _ _ =>
  word_addi d a imm (by show put 0 imm.toNat (put 16 a.val (put 21 d.val 134217728)) = _; unfold put; omega)

theorem word_andi (d : Reg) (a : Reg) (imm : BitVec 16) {w : Nat} (hw : w = 3 * 67108864 + d.val * 2097152 + a.val * 65536 + (imm.toNat)) :
    w < 4294967296 ∧ decodeWord w = .ok (.andi d a imm) := by
  have b0 : imm.toNat < 65536 := imm.isLt
  have b16 : a.val < 32 := a.isLt
  have b21 : d.val < 32 := d.isLt
  obtain ⟨h26, h21, h16, h0, hlt⟩ := dai (by decide) (Fin.isLt _) (Fin.isLt _) (by omega) hw
  have e0 : BitVec.ofNat 16 w = imm := BitVec.eq_of_toNat_eq (by rw [BitVec.toNat_ofNat]; omega)
  have e16 : rg w 16 = a := rg_eq h16
  have e21 : rg w 21 = d := rg_eq h21
  refine ⟨hlt, ?_⟩
  simp [decodeWord, h26, e0, e16, e21]

theorem andi (d : Reg) (a : Reg) (imm : BitVec 16) : Statement (.andi d a imm) := fun _ _ =>
  word_andi d a imm (by show put 0 imm.toNat (put 16 a.val (put 21 d.val 201326592)) = _; unfold put; omega)

theorem word_ori (d : Reg) (a : Reg) (imm : BitVec 16) {w : Nat} (hw : w = 4 * 67108864 + d.val * 2097152 + a.val * 65536 + (imm.toNat)) :
    w < 4294967296 ∧ decodeWord w = .ok (.ori d a imm) := by
  have b0 : imm.toNat < 65536 := imm.isLt
  have b16 : a.val < 32 := a.isLt
  have b21 : d.val < 32 := d.isLt
  obtain ⟨h26, h21, h16, h0, hlt⟩ := dai (by decide) (Fin.isLt _) (Fin.isLt _) (by omega) hw
  have e0 : BitVec.ofNat 16 w = imm := BitVec.eq_of_toNat_eq (by rw [BitVec.toNat_ofNat]; omega)
  have e16 : rg w 16 = a := rg_eq h16
  have e21 : rg w 21 = d := rg_eq h21
  refine ⟨hlt, ?_⟩
  simp [decodeWord, h26, e0, e16, e21]

theorem ori (d : Reg) (a : Reg) (imm : BitVec 16) : Statement (.ori d a imm) := fun _ _ =>
  word_ori d a imm (by show put 0 imm.toNat (put 16 a.val (put 21 d.val 268435456)) = _; unfold put; omega)

theorem word_xori (d : Reg) (a : Reg) (imm : BitVec 16) {w : Nat} (hw : w = 5 * 67108864 + d.val * 2097152 + a.val * 65536 + (imm.toNat)) :
    w < 4294967296 ∧ decodeWord w = .ok (.xori d a imm) := by
  have b0 : imm.toNat < 65536 := imm.isLt
  have b16 : a.val < 32 := a.isLt
  have b21 : d.val < 32 := d.isLt
  obtain ⟨h26, h21, h16, h0, hlt⟩ := dai (by decide) (Fin.isLt _) (Fin.isLt _) (by omega) hw
  have e0 : BitVec.ofNat 16 w = imm := BitVec.eq_of_toNat_eq (by rw [BitVec.toNat_ofNat]; omega)
  have e16 : rg w 16 = a := rg_eq h16
  have e21 : rg w 21 = d := rg_eq h21
  refine ⟨hlt, ?_⟩
  simp [decodeWord, h26, e0, e16, e21]

theorem xori (d : Reg) (a : Reg) (imm : BitVec 16) : Statement (.xori d a imm) := fun _ _ =>
  word_xori d a imm (by show put 0 imm.toNat (put 16 a.val (put 21 d.val 335544320)) = _; unfold put; omega)

theorem word_slli (d : Reg) (a : Reg) (sh : BitVec 6) {w : Nat} (hw : w = 6 * 67108864 + d.val * 2097152 + a.val * 65536 + 0 * 2048 + (sh.toNat)) :
    w < 4294967296 ∧ decodeWord w = .ok (.slli d a sh) := by
  have b0 : sh.toNat < 64 := sh.isLt
  have b16 : a.val < 32 := a.isLt
  have b21 : d.val < 32 := d.isLt
  obtain ⟨h26, h21, h16, h11, h0, hlt⟩ := dab (by decide) (Fin.isLt _) (Fin.isLt _) (by decide) (by omega) hw
  have f8_8 : fld w 8 8 = 0 := by unfold fld; omega
  have f6_2 : fld w 6 2 = 0 := (fld_low11 h0 (by decide)).trans (by unfold fld; omega)
  have e0 : BitVec.ofNat 6 w = sh := BitVec.eq_of_toNat_eq (by rw [BitVec.toNat_ofNat]; omega)
  have e16 : rg w 16 = a := rg_eq h16
  have e21 : rg w 21 = d := rg_eq h21
  refine ⟨hlt, ?_⟩
  simp [decodeWord, decShift, need, h26, f8_8, f6_2, e0, e16, e21]

theorem slli (d : Reg) (a : Reg) (sh : BitVec 6) : Statement (.slli d a sh) := fun _ _ =>
  word_slli d a sh (by show put 0 sh.toNat (put 16 a.val (put 21 d.val 402653184)) = _; unfold put; omega)

theorem word_srli (d : Reg) (a : Reg) (sh : BitVec 6) {w : Nat} (hw : w = 6 * 67108864 + d.val * 2097152 + a.val * 65536 + 0 * 2048 + (sh.toNat + 64)) :
    w < 4294967296 ∧ decodeWord w = .ok (.srli d a sh) := by
  have b0 : sh.toNat < 64 := sh.isLt
  have b16 : a.val < 32 := a.isLt
  have b21 : d.val < 32 := d.isLt
  obtain ⟨h26, h21, h16, h11, h0, hlt⟩ := dab (by decide) (Fin.isLt _) (Fin.isLt _) (by decide) (by omega) hw
  have f8_8 : fld w 8 8 = 0 := by unfold fld; omega
  have f6_2 : fld w 6 2 = 1 := (fld_low11 h0 (by decide)).trans (by unfold fld; omega)
  have e0 : BitVec.ofNat 6 w = sh := BitVec.eq_of_toNat_eq (by rw [BitVec.toNat_ofNat]; omega)
  have e16 : rg w 16 = a := rg_eq h16
  have e21 : rg w 21 = d := rg_eq h21
  refine ⟨hlt, ?_⟩
  simp [decodeWord, decShift, need, h26, f8_8, f6_2, e0, e16, e21]

theorem srli (d : Reg) (a : Reg) (sh : BitVec 6) : Statement (.srli d a sh) := fun _ _ =>
  word_srli d a sh (by show put 0 sh.toNat (put 16 a.val (put 21 d.val 402653248)) = _; unfold put; omega)

theorem word_srai (d : Reg) (a : Reg) (sh : BitVec 6) {w : Nat} (hw : w = 6 * 67108864 + d.val * 2097152 + a.val * 65536 + 0 * 2048 + (sh.toNat + 128)) :
    w < 4294967296 ∧ decodeWord w = .ok (.srai d a sh) := by
  have b0 : sh.toNat < 64 := sh.isLt
  have b16 : a.val < 32 := a.isLt
  have b21 : d.val < 32 := d.isLt
  obtain ⟨h26, h21, h16, h11, h0, hlt⟩ := dab (by decide) (Fin.isLt _) (Fin.isLt _) (by decide) (by omega) hw
  have f8_8 : fld w 8 8 = 0 := by unfold fld; omega
  have f6_2 : fld w 6 2 = 2 := (fld_low11 h0 (by decide)).trans (by unfold fld; omega)
  have e0 : BitVec.ofNat 6 w = sh := BitVec.eq_of_toNat_eq (by rw [BitVec.toNat_ofNat]; omega)
  have e16 : rg w 16 = a := rg_eq h16
  have e21 : rg w 21 = d := rg_eq h21
  refine ⟨hlt, ?_⟩
  simp [decodeWord, decShift, need, h26, f8_8, f6_2, e0, e16, e21]

theorem srai (d : Reg) (a : Reg) (sh : BitVec 6) : Statement (.srai d a sh) := fun _ _ =>
  word_srai d a sh (by show put 0 sh.toNat (put 16 a.val (put 21 d.val 402653312)) = _; unfold put; omega)

theorem word_slti (d : Reg) (a : Reg) (imm : BitVec 15) {w : Nat} (hw : w = 7 * 67108864 + d.val * 2097152 + a.val * 65536 + (imm.toNat)) :
    w < 4294967296 ∧ decodeWord w = .ok (.slti d a imm) := by
  have b0 : imm.toNat < 32768 := imm.isLt
  have b16 : a.val < 32 := a.isLt
  have b21 : d.val < 32 := d.isLt
  obtain ⟨h26, h21, h16, h0, hlt⟩ := dai (by decide) (Fin.isLt _) (Fin.isLt _) (by omega) hw
  have f15_1 : fld w 15 1 = 0 := (fld_low16 h0 (by decide)).trans (by unfold fld; omega)
  have e0 : BitVec.ofNat 15 w = imm := BitVec.eq_of_toNat_eq (by rw [BitVec.toNat_ofNat]; omega)
  have e16 : rg w 16 = a := rg_eq h16
  have e21 : rg w 21 = d := rg_eq h21
  refine ⟨hlt, ?_⟩
  simp [decodeWord, h26, f15_1, e0, e16, e21]

theorem slti (d : Reg) (a : Reg) (imm : BitVec 15) : Statement (.slti d a imm) := fun _ _ =>
  word_slti d a imm (by show put 0 imm.toNat (put 16 a.val (put 21 d.val 469762048)) = _; unfold put; omega)

theorem word_sltiu (d : Reg) (a : Reg) (imm : BitVec 15) {w : Nat} (hw : w = 7 * 67108864 + d.val * 2097152 + a.val * 65536 + (imm.toNat + 32768)) :
    w < 4294967296 ∧ decodeWord w = .ok (.sltiu d a imm) := by
  have b0 : imm.toNat < 32768 := imm.isLt
  have b16 : a.val < 32 := a.isLt
  have b21 : d.val < 32 := d.isLt
  obtain ⟨h26, h21, h16, h0, hlt⟩ := dai (by decide) (Fin.isLt _) (Fin.isLt _) (by omega) hw
  have f15_1 : fld w 15 1 = 1 := (fld_low16 h0 (by decide)).trans (by unfold fld; omega)
  have e0 : BitVec.ofNat 15 w = imm := BitVec.eq_of_toNat_eq (by rw [BitVec.toNat_ofNat]; omega)
  have e16 : rg w 16 = a := rg_eq h16
  have e21 : rg w 21 = d := rg_eq h21
  refine ⟨hlt, ?_⟩
  simp [decodeWord, h26, f15_1, e0, e16, e21]

theorem sltiu (d : Reg) (a : Reg) (imm : BitVec 15) : Statement (.sltiu d a imm) := fun _ _ =>
  word_sltiu d a imm (by show put 0 imm.toNat (put 16 a.val (put 21 d.val 469794816)) = _; unfold put; omega)

theorem word_lui (d : Reg) (a : Reg) (imm : BitVec 16) {w : Nat} (hw : w = 8 * 67108864 + d.val * 2097152 + a.val * 65536 + (imm.toNat)) :
    w < 4294967296 ∧ decodeWord w = .ok (.lui d a imm) := by
  have b0 : imm.toNat < 65536 := imm.isLt
  have b16 : a.val < 32 := a.isLt
  have b21 : d.val < 32 := d.isLt
  obtain ⟨h26, h21, h16, h0, hlt⟩ := dai (by decide) (Fin.isLt _) (Fin.isLt _) (by omega) hw
  have e0 : BitVec.ofNat 16 w = imm := BitVec.eq_of_toNat_eq (by rw [BitVec.toNat_ofNat]; omega)
  have e16 : rg w 16 = a := rg_eq h16
  have e21 : rg w 21 = d := rg_eq h21
  refine ⟨hlt, ?_⟩
  simp [decodeWord, h26, e0, e16, e21]

theorem lui (d : Reg) (a : Reg) (imm : BitVec 16) : Statement (.lui d a imm) := fun _ _ =>
  word_lui d a imm (by show put 0 imm.toNat (put 16 a.val (put 21 d.val 536870912)) = _; unfold put; omega)

theorem word_pmk (d : Reg) (a : Reg) (b : Reg) {w : Nat} (hw : w = 9 * 67108864 + d.val * 2097152 + a.val * 65536 + b.val * 2048 + (1)) :
    w < 4294967296 ∧ decodeWord w = .ok (.pmk d a b) := by
  have b11 : b.val < 32 := b.isLt
  have b16 : a.val < 32 := a.isLt
  have b21 : d.val < 32 := d.isLt
  obtain ⟨h26, h21, h16, h11, h0, hlt⟩ := dab (by decide) (Fin.isLt _) (Fin.isLt _) (Fin.isLt _) (by decide) hw
  have f4_7 : fld w 4 7 = 0 := (fld_low11 h0 (by decide)).trans (by decide)
  have f0_4 : fld w 0 4 = 1 := (fld_low11 h0 (by decide)).trans (by decide)
  have e11 : rg w 11 = b := rg_eq h11
  have e16 : rg w 16 = a := rg_eq h16
  have e21 : rg w 21 = d := rg_eq h21
  refine ⟨hlt, ?_⟩
  simp [decodeWord, decPtr, need, h26, f4_7, f0_4, e11, e16, e21]

theorem pmk (d : Reg) (a : Reg) (b : Reg) : Statement (.pmk d a b) := fun _ _ =>
  word_pmk d a b (by show put 11 b.val (put 16 a.val (put 21 d.val 603979777)) = _; unfold put; omega)

theorem word_pget (d : Reg) (a : Reg) (f : FatField) {w : Nat} (hw : w = 9 * 67108864 + d.val * 2097152 + a.val * 65536 + 0 * 2048 + (f.code * 16 + 2)) :
    w < 4294967296 ∧ decodeWord w = .ok (.pget d a f) := by
  have v4 := fatFieldOf_code f
  have b4 : f.code < 5 := FatField.code_lt f
  have b16 : a.val < 32 := a.isLt
  have b21 : d.val < 32 := d.isLt
  generalize f.code = c4 at hw b4 v4
  obtain ⟨h26, h21, h16, h11, h0, hlt⟩ := dab (by decide) (Fin.isLt _) (Fin.isLt _) (by decide) (by omega) hw
  have f11_5 : fld w 11 5 = 0 := h11
  have f7_4 : fld w 7 4 = 0 := (fld_low11 h0 (by decide)).trans (by unfold fld; omega)
  have f4_3 : fld w 4 3 = c4 := (fld_low11 h0 (by decide)).trans (by unfold fld; omega)
  have f0_4 : fld w 0 4 = 2 := (fld_low11 h0 (by decide)).trans (by unfold fld; omega)
  have e16 : rg w 16 = a := rg_eq h16
  have e21 : rg w 21 = d := rg_eq h21
  refine ⟨hlt, ?_⟩
  simp [decodeWord, decPtr, need, fieldOr, h26, f11_5, f7_4, f4_3, f0_4, e16, e21, v4]

theorem pget (d : Reg) (a : Reg) (f : FatField) : Statement (.pget d a f) := fun _ _ =>
  word_pget d a f (by show put 4 f.code (put 16 a.val (put 21 d.val 603979778)) = _; unfold put; omega)

theorem word_pset (d : Reg) (a : Reg) (b : Reg) (f : FatField) {w : Nat} (hw : w = 9 * 67108864 + d.val * 2097152 + a.val * 65536 + b.val * 2048 + (f.code * 16 + 3)) :
    w < 4294967296 ∧ decodeWord w = .ok (.pset d a b f) := by
  have v4 := fatFieldOf_code f
  have b4 : f.code < 5 := FatField.code_lt f
  have b11 : b.val < 32 := b.isLt
  have b16 : a.val < 32 := a.isLt
  have b21 : d.val < 32 := d.isLt
  generalize f.code = c4 at hw b4 v4
  obtain ⟨h26, h21, h16, h11, h0, hlt⟩ := dab (by decide) (Fin.isLt _) (Fin.isLt _) (Fin.isLt _) (by omega) hw
  have f7_4 : fld w 7 4 = 0 := (fld_low11 h0 (by decide)).trans (by unfold fld; omega)
  have f4_3 : fld w 4 3 = c4 := (fld_low11 h0 (by decide)).trans (by unfold fld; omega)
  have f0_4 : fld w 0 4 = 3 := (fld_low11 h0 (by decide)).trans (by unfold fld; omega)
  have e11 : rg w 11 = b := rg_eq h11
  have e16 : rg w 16 = a := rg_eq h16
  have e21 : rg w 21 = d := rg_eq h21
  refine ⟨hlt, ?_⟩
  simp [decodeWord, decPtr, need, fieldOr, h26, f7_4, f4_3, f0_4, e11, e16, e21, v4]

theorem pset (d : Reg) (a : Reg) (b : Reg) (f : FatField) : Statement (.pset d a b f) := fun _ _ =>
  word_pset d a b f (by show put 4 f.code (put 11 b.val (put 16 a.val (put 21 d.val 603979779))) = _; unfold put; omega)

theorem word_addp (d : Reg) (a : Reg) (b : Reg) {w : Nat} (hw : w = 9 * 67108864 + d.val * 2097152 + a.val * 65536 + b.val * 2048 + (4)) :
    w < 4294967296 ∧ decodeWord w = .ok (.addp d a b) := by
  have b11 : b.val < 32 := b.isLt
  have b16 : a.val < 32 := a.isLt
  have b21 : d.val < 32 := d.isLt
  obtain ⟨h26, h21, h16, h11, h0, hlt⟩ := dab (by decide) (Fin.isLt _) (Fin.isLt _) (Fin.isLt _) (by decide) hw
  have f4_7 : fld w 4 7 = 0 := (fld_low11 h0 (by decide)).trans (by decide)
  have f0_4 : fld w 0 4 = 4 := (fld_low11 h0 (by decide)).trans (by decide)
  have e11 : rg w 11 = b := rg_eq h11
  have e16 : rg w 16 = a := rg_eq h16
  have e21 : rg w 21 = d := rg_eq h21
  refine ⟨hlt, ?_⟩
  simp [decodeWord, decPtr, need, h26, f4_7, f0_4, e11, e16, e21]

theorem addp (d : Reg) (a : Reg) (b : Reg) : Statement (.addp d a b) := fun _ _ =>
  word_addp d a b (by show put 11 b.val (put 16 a.val (put 21 d.val 603979780)) = _; unfold put; omega)

theorem word_subp (d : Reg) (a : Reg) (b : Reg) {w : Nat} (hw : w = 9 * 67108864 + d.val * 2097152 + a.val * 65536 + b.val * 2048 + (5)) :
    w < 4294967296 ∧ decodeWord w = .ok (.subp d a b) := by
  have b11 : b.val < 32 := b.isLt
  have b16 : a.val < 32 := a.isLt
  have b21 : d.val < 32 := d.isLt
  obtain ⟨h26, h21, h16, h11, h0, hlt⟩ := dab (by decide) (Fin.isLt _) (Fin.isLt _) (Fin.isLt _) (by decide) hw
  have f4_7 : fld w 4 7 = 0 := (fld_low11 h0 (by decide)).trans (by decide)
  have f0_4 : fld w 0 4 = 5 := (fld_low11 h0 (by decide)).trans (by decide)
  have e11 : rg w 11 = b := rg_eq h11
  have e16 : rg w 16 = a := rg_eq h16
  have e21 : rg w 21 = d := rg_eq h21
  refine ⟨hlt, ?_⟩
  simp [decodeWord, decPtr, need, h26, f4_7, f0_4, e11, e16, e21]

theorem subp (d : Reg) (a : Reg) (b : Reg) : Statement (.subp d a b) := fun _ _ =>
  word_subp d a b (by show put 11 b.val (put 16 a.val (put 21 d.val 603979781)) = _; unfold put; omega)

theorem word_beq (a : Reg) (b : Reg) (off : BitVec 13) {w : Nat} (hw : w = 10 * 67108864 + a.val * 2097152 + b.val * 65536 + (off.toNat)) :
    w < 4294967296 ∧ decodeWord w = .ok (.beq a b off) := by
  have b0 : off.toNat < 8192 := off.isLt
  have b16 : b.val < 32 := b.isLt
  have b21 : a.val < 32 := a.isLt
  obtain ⟨h26, h21, h16, h0, hlt⟩ := dai (by decide) (Fin.isLt _) (Fin.isLt _) (by omega) hw
  have f13_3 : fld w 13 3 = 0 := (fld_low16 h0 (by decide)).trans (by unfold fld; omega)
  have e0 : BitVec.ofNat 13 w = off := BitVec.eq_of_toNat_eq (by rw [BitVec.toNat_ofNat]; omega)
  have e16 : rg w 16 = b := rg_eq h16
  have e21 : rg w 21 = a := rg_eq h21
  refine ⟨hlt, ?_⟩
  simp [decodeWord, decBr, h26, f13_3, e0, e16, e21]

theorem beq (a : Reg) (b : Reg) (off : BitVec 13) : Statement (.beq a b off) := fun _ _ =>
  word_beq a b off (by show put 0 off.toNat (put 16 b.val (put 21 a.val 671088640)) = _; unfold put; omega)

theorem word_bne (a : Reg) (b : Reg) (off : BitVec 13) {w : Nat} (hw : w = 10 * 67108864 + a.val * 2097152 + b.val * 65536 + (off.toNat + 8192)) :
    w < 4294967296 ∧ decodeWord w = .ok (.bne a b off) := by
  have b0 : off.toNat < 8192 := off.isLt
  have b16 : b.val < 32 := b.isLt
  have b21 : a.val < 32 := a.isLt
  obtain ⟨h26, h21, h16, h0, hlt⟩ := dai (by decide) (Fin.isLt _) (Fin.isLt _) (by omega) hw
  have f13_3 : fld w 13 3 = 1 := (fld_low16 h0 (by decide)).trans (by unfold fld; omega)
  have e0 : BitVec.ofNat 13 w = off := BitVec.eq_of_toNat_eq (by rw [BitVec.toNat_ofNat]; omega)
  have e16 : rg w 16 = b := rg_eq h16
  have e21 : rg w 21 = a := rg_eq h21
  refine ⟨hlt, ?_⟩
  simp [decodeWord, decBr, h26, f13_3, e0, e16, e21]

theorem bne (a : Reg) (b : Reg) (off : BitVec 13) : Statement (.bne a b off) := fun _ _ =>
  word_bne a b off (by show put 0 off.toNat (put 16 b.val (put 21 a.val 671096832)) = _; unfold put; omega)

theorem word_blt (a : Reg) (b : Reg) (off : BitVec 13) {w : Nat} (hw : w = 10 * 67108864 + a.val * 2097152 + b.val * 65536 + (off.toNat + 16384)) :
    w < 4294967296 ∧ decodeWord w = .ok (.blt a b off) := by
  have b0 : off.toNat < 8192 := off.isLt
  have b16 : b.val < 32 := b.isLt
  have b21 : a.val < 32 := a.isLt
  obtain ⟨h26, h21, h16, h0, hlt⟩ := dai (by decide) (Fin.isLt _) (Fin.isLt _) (by omega) hw
  have f13_3 : fld w 13 3 = 2 := (fld_low16 h0 (by decide)).trans (by unfold fld; omega)
  have e0 : BitVec.ofNat 13 w = off := BitVec.eq_of_toNat_eq (by rw [BitVec.toNat_ofNat]; omega)
  have e16 : rg w 16 = b := rg_eq h16
  have e21 : rg w 21 = a := rg_eq h21
  refine ⟨hlt, ?_⟩
  simp [decodeWord, decBr, h26, f13_3, e0, e16, e21]

theorem blt (a : Reg) (b : Reg) (off : BitVec 13) : Statement (.blt a b off) := fun _ _ =>
  word_blt a b off (by show put 0 off.toNat (put 16 b.val (put 21 a.val 671105024)) = _; unfold put; omega)

theorem word_bge (a : Reg) (b : Reg) (off : BitVec 13) {w : Nat} (hw : w = 10 * 67108864 + a.val * 2097152 + b.val * 65536 + (off.toNat + 24576)) :
    w < 4294967296 ∧ decodeWord w = .ok (.bge a b off) := by
  have b0 : off.toNat < 8192 := off.isLt
  have b16 : b.val < 32 := b.isLt
  have b21 : a.val < 32 := a.isLt
  obtain ⟨h26, h21, h16, h0, hlt⟩ := dai (by decide) (Fin.isLt _) (Fin.isLt _) (by omega) hw
  have f13_3 : fld w 13 3 = 3 := (fld_low16 h0 (by decide)).trans (by unfold fld; omega)
  have e0 : BitVec.ofNat 13 w = off := BitVec.eq_of_toNat_eq (by rw [BitVec.toNat_ofNat]; omega)
  have e16 : rg w 16 = b := rg_eq h16
  have e21 : rg w 21 = a := rg_eq h21
  refine ⟨hlt, ?_⟩
  simp [decodeWord, decBr, h26, f13_3, e0, e16, e21]

theorem bge (a : Reg) (b : Reg) (off : BitVec 13) : Statement (.bge a b off) := fun _ _ =>
  word_bge a b off (by show put 0 off.toNat (put 16 b.val (put 21 a.val 671113216)) = _; unfold put; omega)

theorem word_bltu (a : Reg) (b : Reg) (off : BitVec 13) {w : Nat} (hw : w = 10 * 67108864 + a.val * 2097152 + b.val * 65536 + (off.toNat + 32768)) :
    w < 4294967296 ∧ decodeWord w = .ok (.bltu a b off) := by
  have b0 : off.toNat < 8192 := off.isLt
  have b16 : b.val < 32 := b.isLt
  have b21 : a.val < 32 := a.isLt
  obtain ⟨h26, h21, h16, h0, hlt⟩ := dai (by decide) (Fin.isLt _) (Fin.isLt _) (by omega) hw
  have f13_3 : fld w 13 3 = 4 := (fld_low16 h0 (by decide)).trans (by unfold fld; omega)
  have e0 : BitVec.ofNat 13 w = off := BitVec.eq_of_toNat_eq (by rw [BitVec.toNat_ofNat]; omega)
  have e16 : rg w 16 = b := rg_eq h16
  have e21 : rg w 21 = a := rg_eq h21
  refine ⟨hlt, ?_⟩
  simp [decodeWord, decBr, h26, f13_3, e0, e16, e21]

theorem bltu (a : Reg) (b : Reg) (off : BitVec 13) : Statement (.bltu a b off) := fun _ _ =>
  word_bltu a b off (by show put 0 off.toNat (put 16 b.val (put 21 a.val 671121408)) = _; unfold put; omega)

theorem word_bgeu (a : Reg) (b : Reg) (off : BitVec 13) {w : Nat} (hw : w = 10 * 67108864 + a.val * 2097152 + b.val * 65536 + (off.toNat + 40960)) :
    w < 4294967296 ∧ decodeWord w = .ok (.bgeu a b off) := by
  have b0 : off.toNat < 8192 := off.isLt
  have b16 : b.val < 32 := b.isLt
  have b21 : a.val < 32 := a.isLt
  obtain ⟨h26, h21, h16, h0, hlt⟩ := dai (by decide) (Fin.isLt _) (Fin.isLt _) (by omega) hw
  have f13_3 : fld w 13 3 = 5 := (fld_low16 h0 (by decide)).trans (by unfold fld; omega)
  have e0 : BitVec.ofNat 13 w = off := BitVec.eq_of_toNat_eq (by rw [BitVec.toNat_ofNat]; omega)
  have e16 : rg w 16 = b := rg_eq h16
  have e21 : rg w 21 = a := rg_eq h21
  refine ⟨hlt, ?_⟩
  simp [decodeWord, decBr, h26, f13_3, e0, e16, e21]

theorem bgeu (a : Reg) (b : Reg) (off : BitVec 13) : Statement (.bgeu a b off) := fun _ _ =>
  word_bgeu a b off (by show put 0 off.toNat (put 16 b.val (put 21 a.val 671129600)) = _; unfold put; omega)

theorem word_jal (d : Reg) (off : BitVec 21) {w : Nat} (hw : w = 11 * 67108864 + d.val * 2097152 + (off.toNat)) :
    w < 4294967296 ∧ decodeWord w = .ok (.jal d off) := by
  have b0 : off.toNat < 2097152 := off.isLt
  have b21 : d.val < 32 := d.isLt
  obtain ⟨h26, h21, h0, hlt⟩ := dj (by decide) (Fin.isLt _) (by omega) hw
  have e0 : BitVec.ofNat 21 w = off := BitVec.eq_of_toNat_eq (by rw [BitVec.toNat_ofNat]; omega)
  have e21 : rg w 21 = d := rg_eq h21
  refine ⟨hlt, ?_⟩
  simp [decodeWord, h26, e0, e21]

theorem jal (d : Reg) (off : BitVec 21) : Statement (.jal d off) := fun _ _ =>
  word_jal d off (by show put 0 off.toNat (put 21 d.val 738197504) = _; unfold put; omega)

theorem word_jalr (d : Reg) (a : Reg) (imm : BitVec 16) {w : Nat} (hw : w = 12 * 67108864 + d.val * 2097152 + a.val * 65536 + (imm.toNat)) :
    w < 4294967296 ∧ decodeWord w = .ok (.jalr d a imm) := by
  have b0 : imm.toNat < 65536 := imm.isLt
  have b16 : a.val < 32 := a.isLt
  have b21 : d.val < 32 := d.isLt
  obtain ⟨h26, h21, h16, h0, hlt⟩ := dai (by decide) (Fin.isLt _) (Fin.isLt _) (by omega) hw
  have e0 : BitVec.ofNat 16 w = imm := BitVec.eq_of_toNat_eq (by rw [BitVec.toNat_ofNat]; omega)
  have e16 : rg w 16 = a := rg_eq h16
  have e21 : rg w 21 = d := rg_eq h21
  refine ⟨hlt, ?_⟩
  simp [decodeWord, h26, e0, e16, e21]

theorem jalr (d : Reg) (a : Reg) (imm : BitVec 16) : Statement (.jalr d a imm) := fun _ _ =>
  word_jalr d a imm (by show put 0 imm.toNat (put 16 a.val (put 21 d.val 805306368)) = _; unfold put; omega)

theorem word_rep (n : Fin 16) (c : Reg) (sd : Reg) (sa : Reg) (sb : Reg) {w : Nat} (hw : w = 13 * 67108864 + sd.val * 2097152 + c.val * 65536 + sa.val * 2048 + (sb.val * 32 + n.val * 2 + 1024)) :
    w < 4294967296 ∧ decodeWord w = .ok (.rep n c sd sa sb) := by
  have b1 : n.val < 16 := n.isLt
  have b5 : sb.val < 32 := sb.isLt
  have b11 : sa.val < 32 := sa.isLt
  have b16 : c.val < 32 := c.isLt
  have b21 : sd.val < 32 := sd.isLt
  obtain ⟨h26, h21, h16, h11, h0, hlt⟩ := dab (by decide) (Fin.isLt _) (Fin.isLt _) (Fin.isLt _) (by omega) hw
  have f10_1 : fld w 10 1 = 1 := (fld_low11 h0 (by decide)).trans (by unfold fld; omega)
  have f0_1 : fld w 0 1 = 0 := (fld_low11 h0 (by decide)).trans (by unfold fld; omega)
  have e1 : r16 w 1 = n := r16_eq ((fld_low11 (k := 4) h0 (by decide)).trans (by unfold fld; omega))
  have e5 : rg w 5 = sb := rg_eq ((fld_low11 (k := 5) h0 (by decide)).trans (by unfold fld; omega))
  have e11 : rg w 11 = sa := rg_eq h11
  have e16 : rg w 16 = c := rg_eq h16
  have e21 : rg w 21 = sd := rg_eq h21
  refine ⟨hlt, ?_⟩
  simp [decodeWord, decCtl, need, h26, f10_1, f0_1, e1, e5, e11, e16, e21]

theorem rep (n : Fin 16) (c : Reg) (sd : Reg) (sa : Reg) (sb : Reg) : Statement (.rep n c sd sa sb) := fun _ _ =>
  word_rep n c sd sa sb (by show put 1 n.val (put 5 sb.val (put 11 sa.val (put 16 c.val (put 21 sd.val 872416256)))) = _; unfold put; omega)

theorem word_fuse (g : GangSize) {w : Nat} (hw : w = 13 * 67108864 + 0 * 2097152 + 0 * 65536 + 0 * 2048 + (g.code * 16 + 1)) :
    w < 4294967296 ∧ decodeWord w = .ok (.fuse g) := by
  have v4 := gangOf_code g
  have b4 : g.code < 4 := GangSize.code_lt g
  generalize g.code = c4 at hw b4 v4
  obtain ⟨h26, h21, h16, h11, h0, hlt⟩ := dab (by decide) (by decide) (by decide) (by decide) (by omega) hw
  have f11_15 : fld w 11 15 = 0 := by unfold fld; omega
  have f10_1 : fld w 10 1 = 0 := (fld_low11 h0 (by decide)).trans (by unfold fld; omega)
  have f6_4 : fld w 6 4 = 0 := (fld_low11 h0 (by decide)).trans (by unfold fld; omega)
  have f4_2 : fld w 4 2 = c4 := (fld_low11 h0 (by decide)).trans (by unfold fld; omega)
  have f0_4 : fld w 0 4 = 1 := (fld_low11 h0 (by decide)).trans (by unfold fld; omega)
  refine ⟨hlt, ?_⟩
  simp [decodeWord, decCtl, need, fieldOr, h26, f11_15, f10_1, f6_4, f4_2, f0_4, v4]

theorem fuse (g : GangSize) : Statement (.fuse g) := fun _ _ =>
  word_fuse g (by show put 4 g.code 872415233 = _; unfold put; omega)

theorem word_split {w : Nat} (hw : w = 13 * 67108864 + 0 * 2097152 + 0 * 65536 + 0 * 2048 + (2)) :
    w < 4294967296 ∧ decodeWord w = .ok (.split) := by
  obtain ⟨h26, h21, h16, h11, h0, hlt⟩ := dab (by decide) (by decide) (by decide) (by decide) (by decide) hw
  have f10_1 : fld w 10 1 = 0 := (fld_low11 h0 (by decide)).trans (by decide)
  have f4_22 : fld w 4 22 = 0 := by unfold fld; omega
  have f0_4 : fld w 0 4 = 2 := (fld_low11 h0 (by decide)).trans (by decide)
  refine ⟨hlt, ?_⟩
  simp [decodeWord, decCtl, need, h26, f10_1, f4_22, f0_4]

theorem split : Statement (.split) := fun _ _ =>
  word_split  (by show 872415234 = _; rfl)

theorem word_yield {w : Nat} (hw : w = 13 * 67108864 + 0 * 2097152 + 0 * 65536 + 0 * 2048 + (3)) :
    w < 4294967296 ∧ decodeWord w = .ok (.yield) := by
  obtain ⟨h26, h21, h16, h11, h0, hlt⟩ := dab (by decide) (by decide) (by decide) (by decide) (by decide) hw
  have f10_1 : fld w 10 1 = 0 := (fld_low11 h0 (by decide)).trans (by decide)
  have f4_22 : fld w 4 22 = 0 := by unfold fld; omega
  have f0_4 : fld w 0 4 = 3 := (fld_low11 h0 (by decide)).trans (by decide)
  refine ⟨hlt, ?_⟩
  simp [decodeWord, decCtl, need, h26, f10_1, f4_22, f0_4]

theorem yield : Statement (.yield) := fun _ _ =>
  word_yield  (by show 872415235 = _; rfl)

theorem word_await (n : R16) (b : Reg) {w : Nat} (hw : w = 13 * 67108864 + 0 * 2097152 + n.val * 65536 + b.val * 2048 + (4)) :
    w < 4294967296 ∧ decodeWord w = .ok (.await n b) := by
  have b11 : b.val < 32 := b.isLt
  have b16 : n.val < 16 := n.isLt
  obtain ⟨h26, h21, h16, h11, h0, hlt⟩ := dab (by decide) (by decide) (by omega) (Fin.isLt _) (by decide) hw
  have f20_6 : fld w 20 6 = 0 := by unfold fld; omega
  have f10_1 : fld w 10 1 = 0 := (fld_low11 h0 (by decide)).trans (by decide)
  have f4_7 : fld w 4 7 = 0 := (fld_low11 h0 (by decide)).trans (by decide)
  have f0_4 : fld w 0 4 = 4 := (fld_low11 h0 (by decide)).trans (by decide)
  have e11 : rg w 11 = b := rg_eq h11
  have e16 : r16 w 16 = n := r16_eq (by omega)
  refine ⟨hlt, ?_⟩
  simp [decodeWord, decCtl, need, h26, f20_6, f10_1, f4_7, f0_4, e11, e16]

theorem await (n : R16) (b : Reg) : Statement (.await n b) := fun _ _ =>
  word_await n b (by show put 11 b.val (put 16 n.val 872415236) = _; unfold put; omega)

theorem word_exit {w : Nat} (hw : w = 13 * 67108864 + 0 * 2097152 + 0 * 65536 + 0 * 2048 + (5)) :
    w < 4294967296 ∧ decodeWord w = .ok (.exit) := by
  obtain ⟨h26, h21, h16, h11, h0, hlt⟩ := dab (by decide) (by decide) (by decide) (by decide) (by decide) hw
  have f10_1 : fld w 10 1 = 0 := (fld_low11 h0 (by decide)).trans (by decide)
  have f4_22 : fld w 4 22 = 0 := by unfold fld; omega
  have f0_4 : fld w 0 4 = 5 := (fld_low11 h0 (by decide)).trans (by decide)
  refine ⟨hlt, ?_⟩
  simp [decodeWord, decCtl, need, h26, f10_1, f4_22, f0_4]

theorem exit : Statement (.exit) := fun _ _ =>
  word_exit  (by show 872415237 = _; rfl)

theorem word_termwait (d : Reg) {w : Nat} (hw : w = 13 * 67108864 + d.val * 2097152 + 0 * 65536 + 0 * 2048 + (6)) :
    w < 4294967296 ∧ decodeWord w = .ok (.termwait d) := by
  have b21 : d.val < 32 := d.isLt
  obtain ⟨h26, h21, h16, h11, h0, hlt⟩ := dab (by decide) (Fin.isLt _) (by decide) (by decide) (by decide) hw
  have f10_1 : fld w 10 1 = 0 := (fld_low11 h0 (by decide)).trans (by decide)
  have f4_17 : fld w 4 17 = 0 := by unfold fld; omega
  have f0_4 : fld w 0 4 = 6 := (fld_low11 h0 (by decide)).trans (by decide)
  have e21 : rg w 21 = d := rg_eq h21
  refine ⟨hlt, ?_⟩
  simp [decodeWord, decCtl, need, h26, f10_1, f4_17, f0_4, e21]

theorem termwait (d : Reg) : Statement (.termwait d) := fun _ _ =>
  word_termwait d (by show put 21 d.val 872415238 = _; unfold put; omega)

theorem word_fence (sc : Scope) {w : Nat} (hw : w = 13 * 67108864 + 0 * 2097152 + 0 * 65536 + 0 * 2048 + (sc.code * 128 + 7)) :
    w < 4294967296 ∧ decodeWord w = .ok (.fence sc) := by
  have v7 := scopeOf_code sc
  have b7 : sc.code < 5 := Scope.code_lt sc
  generalize sc.code = c7 at hw b7 v7
  obtain ⟨h26, h21, h16, h11, h0, hlt⟩ := dab (by decide) (by decide) (by decide) (by decide) (by omega) hw
  have f11_15 : fld w 11 15 = 0 := by unfold fld; omega
  have f10_1 : fld w 10 1 = 0 := (fld_low11 h0 (by decide)).trans (by unfold fld; omega)
  have f7_3 : fld w 7 3 = c7 := (fld_low11 h0 (by decide)).trans (by unfold fld; omega)
  have f4_3 : fld w 4 3 = 0 := (fld_low11 h0 (by decide)).trans (by unfold fld; omega)
  have f0_4 : fld w 0 4 = 7 := (fld_low11 h0 (by decide)).trans (by unfold fld; omega)
  refine ⟨hlt, ?_⟩
  simp [decodeWord, decCtl, need, fieldOr, h26, f11_15, f10_1, f7_3, f4_3, f0_4, v7]

theorem fence (sc : Scope) : Statement (.fence sc) := fun _ _ =>
  word_fence sc (by show put 7 sc.code 872415239 = _; unfold put; omega)

theorem word_sysr (d : Reg) (r : SysReg) {w : Nat} (hw : w = 14 * 67108864 + d.val * 2097152 + 0 * 65536 + 0 * 2048 + (r.code * 16 + 1)) :
    w < 4294967296 ∧ decodeWord w = .ok (.sysr d r) := by
  have v4 := sysRegOf_code r
  have b4 : r.code < 30 := SysReg.code_lt r
  have b21 : d.val < 32 := d.isLt
  generalize r.code = c4 at hw b4 v4
  obtain ⟨h26, h21, h16, h11, h0, hlt⟩ := dab (by decide) (Fin.isLt _) (by decide) (by decide) (by omega) hw
  have f11_10 : fld w 11 10 = 0 := by unfold fld; omega
  have f4_7 : fld w 4 7 = c4 := (fld_low11 h0 (by decide)).trans (by unfold fld; omega)
  have f0_4 : fld w 0 4 = 1 := (fld_low11 h0 (by decide)).trans (by unfold fld; omega)
  have e21 : rg w 21 = d := rg_eq h21
  refine ⟨hlt, ?_⟩
  simp [decodeWord, decSys, need, fieldOr, h26, f11_10, f4_7, f0_4, e21, v4]

theorem sysr (d : Reg) (r : SysReg) : Statement (.sysr d r) := fun _ _ =>
  word_sysr d r (by show put 4 r.code (put 21 d.val 939524097) = _; unfold put; omega)

theorem word_sysw (a : Reg) (r : SysReg) {w : Nat} (hw : w = 14 * 67108864 + 0 * 2097152 + a.val * 65536 + 0 * 2048 + (r.code * 16 + 2)) :
    w < 4294967296 ∧ decodeWord w = .ok (.sysw a r) := by
  have v4 := sysRegOf_code r
  have b4 : r.code < 30 := SysReg.code_lt r
  have b16 : a.val < 32 := a.isLt
  generalize r.code = c4 at hw b4 v4
  obtain ⟨h26, h21, h16, h11, h0, hlt⟩ := dab (by decide) (by decide) (Fin.isLt _) (by decide) (by omega) hw
  have f21_5 : fld w 21 5 = 0 := h21
  have f11_5 : fld w 11 5 = 0 := h11
  have f4_7 : fld w 4 7 = c4 := (fld_low11 h0 (by decide)).trans (by unfold fld; omega)
  have f0_4 : fld w 0 4 = 2 := (fld_low11 h0 (by decide)).trans (by unfold fld; omega)
  have e16 : rg w 16 = a := rg_eq h16
  refine ⟨hlt, ?_⟩
  simp [decodeWord, decSys, need, fieldOr, h26, f21_5, f11_5, f4_7, f0_4, e16, v4]

theorem sysw (a : Reg) (r : SysReg) : Statement (.sysw a r) := fun _ _ =>
  word_sysw a r (by show put 4 r.code (put 16 a.val 939524098) = _; unfold put; omega)

theorem word_dtld (a : Reg) (t : C8Table) {w : Nat} (hw : w = 14 * 67108864 + 0 * 2097152 + a.val * 65536 + 0 * 2048 + (t.code * 16 + 3)) :
    w < 4294967296 ∧ decodeWord w = .ok (.dtld a t) := by
  have v4 := c8Of_code t
  have b4 : t.code < 2 := C8Table.code_lt t
  have b16 : a.val < 32 := a.isLt
  generalize t.code = c4 at hw b4 v4
  obtain ⟨h26, h21, h16, h11, h0, hlt⟩ := dab (by decide) (by decide) (Fin.isLt _) (by decide) (by omega) hw
  have f21_5 : fld w 21 5 = 0 := h21
  have f7_9 : fld w 7 9 = 0 := by unfold fld; omega
  have f5_2 : fld w 5 2 = 0 := (fld_low11 h0 (by decide)).trans (by unfold fld; omega)
  have f4_1 : fld w 4 1 = c4 := (fld_low11 h0 (by decide)).trans (by unfold fld; omega)
  have f0_4 : fld w 0 4 = 3 := (fld_low11 h0 (by decide)).trans (by unfold fld; omega)
  have e16 : rg w 16 = a := rg_eq h16
  refine ⟨hlt, ?_⟩
  simp [decodeWord, decSys, need, h26, f21_5, f7_9, f5_2, f4_1, f0_4, e16, v4]

theorem dtld (a : Reg) (t : C8Table) : Statement (.dtld a t) := fun _ _ =>
  word_dtld a t (by show put 4 t.code (put 16 a.val 939524099) = _; unfold put; omega)

theorem word_dtldInt8 (t : C8Table) {w : Nat} (hw : w = 14 * 67108864 + 0 * 2097152 + 0 * 65536 + 0 * 2048 + (t.code * 16 + 35)) :
    w < 4294967296 ∧ decodeWord w = .ok (.dtldInt8 t) := by
  have v4 := c8Of_code t
  have b4 : t.code < 2 := C8Table.code_lt t
  generalize t.code = c4 at hw b4 v4
  obtain ⟨h26, h21, h16, h11, h0, hlt⟩ := dab (by decide) (by decide) (by decide) (by decide) (by omega) hw
  have f7_19 : fld w 7 19 = 0 := by unfold fld; omega
  have f5_2 : fld w 5 2 = 1 := (fld_low11 h0 (by decide)).trans (by unfold fld; omega)
  have f4_1 : fld w 4 1 = c4 := (fld_low11 h0 (by decide)).trans (by unfold fld; omega)
  have f0_4 : fld w 0 4 = 3 := (fld_low11 h0 (by decide)).trans (by unfold fld; omega)
  refine ⟨hlt, ?_⟩
  simp [decodeWord, decSys, need, h26, f7_19, f5_2, f4_1, f0_4, v4]

theorem dtldInt8 (t : C8Table) : Statement (.dtldInt8 t) := fun _ _ =>
  word_dtldInt8 t (by show put 4 t.code 939524131 = _; unfold put; omega)

theorem word_dtldE4m3 (t : C8Table) {w : Nat} (hw : w = 14 * 67108864 + 0 * 2097152 + 0 * 65536 + 0 * 2048 + (t.code * 16 + 67)) :
    w < 4294967296 ∧ decodeWord w = .ok (.dtldE4m3 t) := by
  have v4 := c8Of_code t
  have b4 : t.code < 2 := C8Table.code_lt t
  generalize t.code = c4 at hw b4 v4
  obtain ⟨h26, h21, h16, h11, h0, hlt⟩ := dab (by decide) (by decide) (by decide) (by decide) (by omega) hw
  have f7_19 : fld w 7 19 = 0 := by unfold fld; omega
  have f5_2 : fld w 5 2 = 2 := (fld_low11 h0 (by decide)).trans (by unfold fld; omega)
  have f4_1 : fld w 4 1 = c4 := (fld_low11 h0 (by decide)).trans (by unfold fld; omega)
  have f0_4 : fld w 0 4 = 3 := (fld_low11 h0 (by decide)).trans (by unfold fld; omega)
  refine ⟨hlt, ?_⟩
  simp [decodeWord, decSys, need, h26, f7_19, f5_2, f4_1, f0_4, v4]

theorem dtldE4m3 (t : C8Table) : Statement (.dtldE4m3 t) := fun _ _ =>
  word_dtldE4m3 t (by show put 4 t.code 939524163 = _; unfold put; omega)

theorem word_dtldE5m2 (t : C8Table) {w : Nat} (hw : w = 14 * 67108864 + 0 * 2097152 + 0 * 65536 + 0 * 2048 + (t.code * 16 + 99)) :
    w < 4294967296 ∧ decodeWord w = .ok (.dtldE5m2 t) := by
  have v4 := c8Of_code t
  have b4 : t.code < 2 := C8Table.code_lt t
  generalize t.code = c4 at hw b4 v4
  obtain ⟨h26, h21, h16, h11, h0, hlt⟩ := dab (by decide) (by decide) (by decide) (by decide) (by omega) hw
  have f7_19 : fld w 7 19 = 0 := by unfold fld; omega
  have f5_2 : fld w 5 2 = 3 := (fld_low11 h0 (by decide)).trans (by unfold fld; omega)
  have f4_1 : fld w 4 1 = c4 := (fld_low11 h0 (by decide)).trans (by unfold fld; omega)
  have f0_4 : fld w 0 4 = 3 := (fld_low11 h0 (by decide)).trans (by unfold fld; omega)
  refine ⟨hlt, ?_⟩
  simp [decodeWord, decSys, need, h26, f7_19, f5_2, f4_1, f0_4, v4]

theorem dtldE5m2 (t : C8Table) : Statement (.dtldE5m2 t) := fun _ _ =>
  word_dtldE5m2 t (by show put 4 t.code 939524195 = _; unfold put; omega)

theorem word_upret {w : Nat} (hw : w = 14 * 67108864 + 0 * 2097152 + 0 * 65536 + 0 * 2048 + (4)) :
    w < 4294967296 ∧ decodeWord w = .ok (.upret) := by
  obtain ⟨h26, h21, h16, h11, h0, hlt⟩ := dab (by decide) (by decide) (by decide) (by decide) (by decide) hw
  have f4_22 : fld w 4 22 = 0 := by unfold fld; omega
  have f0_4 : fld w 0 4 = 4 := (fld_low11 h0 (by decide)).trans (by decide)
  refine ⟨hlt, ?_⟩
  simp [decodeWord, decSys, need, h26, f4_22, f0_4]

theorem upret : Statement (.upret) := fun _ _ =>
  word_upret  (by show 939524100 = _; rfl)

theorem word_uiret {w : Nat} (hw : w = 14 * 67108864 + 0 * 2097152 + 0 * 65536 + 0 * 2048 + (5)) :
    w < 4294967296 ∧ decodeWord w = .ok (.uiret) := by
  obtain ⟨h26, h21, h16, h11, h0, hlt⟩ := dab (by decide) (by decide) (by decide) (by decide) (by decide) hw
  have f4_22 : fld w 4 22 = 0 := by unfold fld; omega
  have f0_4 : fld w 0 4 = 5 := (fld_low11 h0 (by decide)).trans (by decide)
  refine ⟨hlt, ?_⟩
  simp [decodeWord, decSys, need, h26, f4_22, f0_4]

theorem uiret : Statement (.uiret) := fun _ _ =>
  word_uiret  (by show 939524101 = _; rfl)

theorem word_svr (d : Reg) (r : SupReg) {w : Nat} (hw : w = 15 * 67108864 + d.val * 2097152 + 0 * 65536 + 0 * 2048 + (r.code * 16 + 1)) :
    w < 4294967296 ∧ decodeWord w = .ok (.svr d r) := by
  have v4 := supRegOf_code r
  have b4 : r.code < 5 := SupReg.code_lt r
  have b21 : d.val < 32 := d.isLt
  generalize r.code = c4 at hw b4 v4
  obtain ⟨h26, h21, h16, h11, h0, hlt⟩ := dab (by decide) (Fin.isLt _) (by decide) (by decide) (by omega) hw
  have f11_10 : fld w 11 10 = 0 := by unfold fld; omega
  have f4_7 : fld w 4 7 = c4 := (fld_low11 h0 (by decide)).trans (by unfold fld; omega)
  have f0_4 : fld w 0 4 = 1 := (fld_low11 h0 (by decide)).trans (by unfold fld; omega)
  have e21 : rg w 21 = d := rg_eq h21
  refine ⟨hlt, ?_⟩
  simp [decodeWord, decSup, need, fieldOr, h26, f11_10, f4_7, f0_4, e21, v4]

theorem svr (d : Reg) (r : SupReg) : Statement (.svr d r) := fun _ _ =>
  word_svr d r (by show put 4 r.code (put 21 d.val 1006632961) = _; unfold put; omega)

theorem word_svw (a : Reg) (r : SupReg) {w : Nat} (hw : w = 15 * 67108864 + 0 * 2097152 + a.val * 65536 + 0 * 2048 + (r.code * 16 + 2)) :
    w < 4294967296 ∧ decodeWord w = .ok (.svw a r) := by
  have v4 := supRegOf_code r
  have b4 : r.code < 5 := SupReg.code_lt r
  have b16 : a.val < 32 := a.isLt
  generalize r.code = c4 at hw b4 v4
  obtain ⟨h26, h21, h16, h11, h0, hlt⟩ := dab (by decide) (by decide) (Fin.isLt _) (by decide) (by omega) hw
  have f21_5 : fld w 21 5 = 0 := h21
  have f11_5 : fld w 11 5 = 0 := h11
  have f4_7 : fld w 4 7 = c4 := (fld_low11 h0 (by decide)).trans (by unfold fld; omega)
  have f0_4 : fld w 0 4 = 2 := (fld_low11 h0 (by decide)).trans (by unfold fld; omega)
  have e16 : rg w 16 = a := rg_eq h16
  refine ⟨hlt, ?_⟩
  simp [decodeWord, decSup, need, fieldOr, h26, f21_5, f11_5, f4_7, f0_4, e16, v4]

theorem svw (a : Reg) (r : SupReg) : Statement (.svw a r) := fun _ _ =>
  word_svw a r (by show put 4 r.code (put 16 a.val 1006632962) = _; unfold put; omega)

theorem word_tlbinv (a : Reg) (b : Reg) (sc : Scope) {w : Nat} (hw : w = 15 * 67108864 + 0 * 2097152 + a.val * 65536 + b.val * 2048 + (sc.code * 32 + 3)) (wf : (sc.okTlbinv) = true) :
    w < 4294967296 ∧ decodeWord w = .ok (.tlbinv a b sc) := by
  have v5 := scopeOf_code sc
  have b5 : sc.code < 5 := Scope.code_lt sc
  have b11 : b.val < 32 := b.isLt
  have b16 : a.val < 32 := a.isLt
  generalize sc.code = c5 at hw b5 v5
  obtain ⟨h26, h21, h16, h11, h0, hlt⟩ := dab (by decide) (by decide) (Fin.isLt _) (Fin.isLt _) (by omega) hw
  have f21_5 : fld w 21 5 = 0 := h21
  have f8_3 : fld w 8 3 = 0 := (fld_low11 h0 (by decide)).trans (by unfold fld; omega)
  have f5_3 : fld w 5 3 = c5 := (fld_low11 h0 (by decide)).trans (by unfold fld; omega)
  have f4_1 : fld w 4 1 = 0 := (fld_low11 h0 (by decide)).trans (by unfold fld; omega)
  have f0_4 : fld w 0 4 = 3 := (fld_low11 h0 (by decide)).trans (by unfold fld; omega)
  have e11 : rg w 11 = b := rg_eq h11
  have e16 : rg w 16 = a := rg_eq h16
  refine ⟨hlt, ?_⟩
  simp [decodeWord, decSup, need, fieldOr, h26, f21_5, f8_3, f5_3, f4_1, f0_4, e11, e16, v5, wf]

theorem tlbinv (a : Reg) (b : Reg) (sc : Scope) : Statement (.tlbinv a b sc) := fun _ wf =>
  word_tlbinv a b sc (by show put 5 sc.code (put 11 b.val (put 16 a.val 1006632963)) = _; unfold put; omega) wf

theorem word_tlbinvAll (b : Reg) (sc : Scope) {w : Nat} (hw : w = 15 * 67108864 + 0 * 2097152 + 0 * 65536 + b.val * 2048 + (sc.code * 32 + 19)) (wf : (sc.okTlbinv) = true) :
    w < 4294967296 ∧ decodeWord w = .ok (.tlbinvAll b sc) := by
  have v5 := scopeOf_code sc
  have b5 : sc.code < 5 := Scope.code_lt sc
  have b11 : b.val < 32 := b.isLt
  generalize sc.code = c5 at hw b5 v5
  obtain ⟨h26, h21, h16, h11, h0, hlt⟩ := dab (by decide) (by decide) (by decide) (Fin.isLt _) (by omega) hw
  have f16_10 : fld w 16 10 = 0 := by unfold fld; omega
  have f8_3 : fld w 8 3 = 0 := (fld_low11 h0 (by decide)).trans (by unfold fld; omega)
  have f5_3 : fld w 5 3 = c5 := (fld_low11 h0 (by decide)).trans (by unfold fld; omega)
  have f4_1 : fld w 4 1 = 1 := (fld_low11 h0 (by decide)).trans (by unfold fld; omega)
  have f0_4 : fld w 0 4 = 3 := (fld_low11 h0 (by decide)).trans (by unfold fld; omega)
  have e11 : rg w 11 = b := rg_eq h11
  refine ⟨hlt, ?_⟩
  simp [decodeWord, decSup, need, fieldOr, h26, f16_10, f8_3, f5_3, f4_1, f0_4, e11, v5, wf]

theorem tlbinvAll (b : Reg) (sc : Scope) : Statement (.tlbinvAll b sc) := fun _ wf =>
  word_tlbinvAll b sc (by show put 5 sc.code (put 11 b.val 1006632979) = _; unfold put; omega) wf

theorem word_cacheinvIcache (a : Reg) {w : Nat} (hw : w = 15 * 67108864 + 0 * 2097152 + a.val * 65536 + 0 * 2048 + (4)) :
    w < 4294967296 ∧ decodeWord w = .ok (.cacheinvIcache a) := by
  have b16 : a.val < 32 := a.isLt
  obtain ⟨h26, h21, h16, h11, h0, hlt⟩ := dab (by decide) (by decide) (Fin.isLt _) (by decide) (by decide) hw
  have f21_5 : fld w 21 5 = 0 := h21
  have f7_9 : fld w 7 9 = 0 := by unfold fld; omega
  have f4_3 : fld w 4 3 = 0 := (fld_low11 h0 (by decide)).trans (by decide)
  have f0_4 : fld w 0 4 = 4 := (fld_low11 h0 (by decide)).trans (by decide)
  have e16 : rg w 16 = a := rg_eq h16
  refine ⟨hlt, ?_⟩
  simp [decodeWord, decSup, need, h26, f21_5, f7_9, f4_3, f0_4, e16]

theorem cacheinvIcache (a : Reg) : Statement (.cacheinvIcache a) := fun _ _ =>
  word_cacheinvIcache a (by show put 16 a.val 1006632964 = _; unfold put; omega)

theorem word_cacheinvL2 (a : Reg) {w : Nat} (hw : w = 15 * 67108864 + 0 * 2097152 + a.val * 65536 + 0 * 2048 + (20)) :
    w < 4294967296 ∧ decodeWord w = .ok (.cacheinvL2 a) := by
  have b16 : a.val < 32 := a.isLt
  obtain ⟨h26, h21, h16, h11, h0, hlt⟩ := dab (by decide) (by decide) (Fin.isLt _) (by decide) (by decide) hw
  have f21_5 : fld w 21 5 = 0 := h21
  have f7_9 : fld w 7 9 = 0 := by unfold fld; omega
  have f4_3 : fld w 4 3 = 1 := (fld_low11 h0 (by decide)).trans (by decide)
  have f0_4 : fld w 0 4 = 4 := (fld_low11 h0 (by decide)).trans (by decide)
  have e16 : rg w 16 = a := rg_eq h16
  refine ⟨hlt, ?_⟩
  simp [decodeWord, decSup, need, h26, f21_5, f7_9, f4_3, f0_4, e16]

theorem cacheinvL2 (a : Reg) : Statement (.cacheinvL2 a) := fun _ _ =>
  word_cacheinvL2 a (by show put 16 a.val 1006632980 = _; unfold put; omega)

theorem word_wfi {w : Nat} (hw : w = 15 * 67108864 + 0 * 2097152 + 0 * 65536 + 0 * 2048 + (5)) :
    w < 4294967296 ∧ decodeWord w = .ok (.wfi) := by
  obtain ⟨h26, h21, h16, h11, h0, hlt⟩ := dab (by decide) (by decide) (by decide) (by decide) (by decide) hw
  have f4_22 : fld w 4 22 = 0 := by unfold fld; omega
  have f0_4 : fld w 0 4 = 5 := (fld_low11 h0 (by decide)).trans (by decide)
  refine ⟨hlt, ?_⟩
  simp [decodeWord, decSup, need, h26, f4_22, f0_4]

theorem wfi : Statement (.wfi) := fun _ _ =>
  word_wfi  (by show 1006632965 = _; rfl)

theorem word_ldb (d : Reg) (base : Reg) (st : Strength) (h : Hint) (off : BitVec 10) {w : Nat} (hw : w = 16 * 67108864 + d.val * 2097152 + base.val * 65536 + (st.sbit * 32768 + st.scode * 4096 + h.code * 1024 + off.toNat)) :
    w < 4294967296 ∧ decodeWord w = .ok (.ldb d base st h off) := by
  have v10 := hintOf_code h
  have v12 := strengthOf_code st
  have b0 : off.toNat < 1024 := off.isLt
  have b10 : h.code < 4 := Hint.code_lt h
  have b16 : base.val < 32 := base.isLt
  have b21 : d.val < 32 := d.isLt
  have b12 : st.scode < 5 := Strength.scode_lt st
  have b15 : st.sbit < 2 := Strength.sbit_lt st
  generalize h.code = c10 at hw b10 v10 v12
  generalize st.scode = c12 at hw b12 v10 v12
  generalize st.sbit = c15 at hw b15 v10 v12
  obtain ⟨h26, h21, h16, h0, hlt⟩ := dai (by decide) (Fin.isLt _) (Fin.isLt _) (by omega) hw
  have f15_1 : fld w 15 1 = c15 := (fld_low16 h0 (by decide)).trans (by unfold fld; omega)
  have f12_3 : fld w 12 3 = c12 := (fld_low16 h0 (by decide)).trans (by unfold fld; omega)
  have f10_2 : fld w 10 2 = c10 := (fld_low16 h0 (by decide)).trans (by unfold fld; omega)
  have e0 : BitVec.ofNat 10 w = off := BitVec.eq_of_toNat_eq (by rw [BitVec.toNat_ofNat]; omega)
  have e16 : rg w 16 = base := rg_eq h16
  have e21 : rg w 21 = d := rg_eq h21
  refine ⟨hlt, ?_⟩
  simp [decodeWord, decMem, fieldOr, h26, f15_1, f12_3, f10_2, e0, e16, e21, v10, v12]

theorem ldb (d : Reg) (base : Reg) (st : Strength) (h : Hint) (off : BitVec 10) : Statement (.ldb d base st h off) := fun _ _ =>
  word_ldb d base st h off (by show put 0 off.toNat (put 10 h.code (put 16 base.val (put 21 d.val (put 12 st.scode (put 15 st.sbit 1073741824))))) = _; unfold put; omega)

theorem word_ldbu (d : Reg) (base : Reg) (st : Strength) (h : Hint) (off : BitVec 10) {w : Nat} (hw : w = 17 * 67108864 + d.val * 2097152 + base.val * 65536 + (st.sbit * 32768 + st.scode * 4096 + h.code * 1024 + off.toNat)) :
    w < 4294967296 ∧ decodeWord w = .ok (.ldbu d base st h off) := by
  have v10 := hintOf_code h
  have v12 := strengthOf_code st
  have b0 : off.toNat < 1024 := off.isLt
  have b10 : h.code < 4 := Hint.code_lt h
  have b16 : base.val < 32 := base.isLt
  have b21 : d.val < 32 := d.isLt
  have b12 : st.scode < 5 := Strength.scode_lt st
  have b15 : st.sbit < 2 := Strength.sbit_lt st
  generalize h.code = c10 at hw b10 v10 v12
  generalize st.scode = c12 at hw b12 v10 v12
  generalize st.sbit = c15 at hw b15 v10 v12
  obtain ⟨h26, h21, h16, h0, hlt⟩ := dai (by decide) (Fin.isLt _) (Fin.isLt _) (by omega) hw
  have f15_1 : fld w 15 1 = c15 := (fld_low16 h0 (by decide)).trans (by unfold fld; omega)
  have f12_3 : fld w 12 3 = c12 := (fld_low16 h0 (by decide)).trans (by unfold fld; omega)
  have f10_2 : fld w 10 2 = c10 := (fld_low16 h0 (by decide)).trans (by unfold fld; omega)
  have e0 : BitVec.ofNat 10 w = off := BitVec.eq_of_toNat_eq (by rw [BitVec.toNat_ofNat]; omega)
  have e16 : rg w 16 = base := rg_eq h16
  have e21 : rg w 21 = d := rg_eq h21
  refine ⟨hlt, ?_⟩
  simp [decodeWord, decMem, fieldOr, h26, f15_1, f12_3, f10_2, e0, e16, e21, v10, v12]

theorem ldbu (d : Reg) (base : Reg) (st : Strength) (h : Hint) (off : BitVec 10) : Statement (.ldbu d base st h off) := fun _ _ =>
  word_ldbu d base st h off (by show put 0 off.toNat (put 10 h.code (put 16 base.val (put 21 d.val (put 12 st.scode (put 15 st.sbit 1140850688))))) = _; unfold put; omega)

theorem word_ldh (d : Reg) (base : Reg) (st : Strength) (h : Hint) (off : BitVec 10) {w : Nat} (hw : w = 18 * 67108864 + d.val * 2097152 + base.val * 65536 + (st.sbit * 32768 + st.scode * 4096 + h.code * 1024 + off.toNat)) :
    w < 4294967296 ∧ decodeWord w = .ok (.ldh d base st h off) := by
  have v10 := hintOf_code h
  have v12 := strengthOf_code st
  have b0 : off.toNat < 1024 := off.isLt
  have b10 : h.code < 4 := Hint.code_lt h
  have b16 : base.val < 32 := base.isLt
  have b21 : d.val < 32 := d.isLt
  have b12 : st.scode < 5 := Strength.scode_lt st
  have b15 : st.sbit < 2 := Strength.sbit_lt st
  generalize h.code = c10 at hw b10 v10 v12
  generalize st.scode = c12 at hw b12 v10 v12
  generalize st.sbit = c15 at hw b15 v10 v12
  obtain ⟨h26, h21, h16, h0, hlt⟩ := dai (by decide) (Fin.isLt _) (Fin.isLt _) (by omega) hw
  have f15_1 : fld w 15 1 = c15 := (fld_low16 h0 (by decide)).trans (by unfold fld; omega)
  have f12_3 : fld w 12 3 = c12 := (fld_low16 h0 (by decide)).trans (by unfold fld; omega)
  have f10_2 : fld w 10 2 = c10 := (fld_low16 h0 (by decide)).trans (by unfold fld; omega)
  have e0 : BitVec.ofNat 10 w = off := BitVec.eq_of_toNat_eq (by rw [BitVec.toNat_ofNat]; omega)
  have e16 : rg w 16 = base := rg_eq h16
  have e21 : rg w 21 = d := rg_eq h21
  refine ⟨hlt, ?_⟩
  simp [decodeWord, decMem, fieldOr, h26, f15_1, f12_3, f10_2, e0, e16, e21, v10, v12]

theorem ldh (d : Reg) (base : Reg) (st : Strength) (h : Hint) (off : BitVec 10) : Statement (.ldh d base st h off) := fun _ _ =>
  word_ldh d base st h off (by show put 0 off.toNat (put 10 h.code (put 16 base.val (put 21 d.val (put 12 st.scode (put 15 st.sbit 1207959552))))) = _; unfold put; omega)

theorem word_ldhu (d : Reg) (base : Reg) (st : Strength) (h : Hint) (off : BitVec 10) {w : Nat} (hw : w = 19 * 67108864 + d.val * 2097152 + base.val * 65536 + (st.sbit * 32768 + st.scode * 4096 + h.code * 1024 + off.toNat)) :
    w < 4294967296 ∧ decodeWord w = .ok (.ldhu d base st h off) := by
  have v10 := hintOf_code h
  have v12 := strengthOf_code st
  have b0 : off.toNat < 1024 := off.isLt
  have b10 : h.code < 4 := Hint.code_lt h
  have b16 : base.val < 32 := base.isLt
  have b21 : d.val < 32 := d.isLt
  have b12 : st.scode < 5 := Strength.scode_lt st
  have b15 : st.sbit < 2 := Strength.sbit_lt st
  generalize h.code = c10 at hw b10 v10 v12
  generalize st.scode = c12 at hw b12 v10 v12
  generalize st.sbit = c15 at hw b15 v10 v12
  obtain ⟨h26, h21, h16, h0, hlt⟩ := dai (by decide) (Fin.isLt _) (Fin.isLt _) (by omega) hw
  have f15_1 : fld w 15 1 = c15 := (fld_low16 h0 (by decide)).trans (by unfold fld; omega)
  have f12_3 : fld w 12 3 = c12 := (fld_low16 h0 (by decide)).trans (by unfold fld; omega)
  have f10_2 : fld w 10 2 = c10 := (fld_low16 h0 (by decide)).trans (by unfold fld; omega)
  have e0 : BitVec.ofNat 10 w = off := BitVec.eq_of_toNat_eq (by rw [BitVec.toNat_ofNat]; omega)
  have e16 : rg w 16 = base := rg_eq h16
  have e21 : rg w 21 = d := rg_eq h21
  refine ⟨hlt, ?_⟩
  simp [decodeWord, decMem, fieldOr, h26, f15_1, f12_3, f10_2, e0, e16, e21, v10, v12]

theorem ldhu (d : Reg) (base : Reg) (st : Strength) (h : Hint) (off : BitVec 10) : Statement (.ldhu d base st h off) := fun _ _ =>
  word_ldhu d base st h off (by show put 0 off.toNat (put 10 h.code (put 16 base.val (put 21 d.val (put 12 st.scode (put 15 st.sbit 1275068416))))) = _; unfold put; omega)

theorem word_ldw (d : Reg) (base : Reg) (st : Strength) (h : Hint) (off : BitVec 10) {w : Nat} (hw : w = 20 * 67108864 + d.val * 2097152 + base.val * 65536 + (st.sbit * 32768 + st.scode * 4096 + h.code * 1024 + off.toNat)) :
    w < 4294967296 ∧ decodeWord w = .ok (.ldw d base st h off) := by
  have v10 := hintOf_code h
  have v12 := strengthOf_code st
  have b0 : off.toNat < 1024 := off.isLt
  have b10 : h.code < 4 := Hint.code_lt h
  have b16 : base.val < 32 := base.isLt
  have b21 : d.val < 32 := d.isLt
  have b12 : st.scode < 5 := Strength.scode_lt st
  have b15 : st.sbit < 2 := Strength.sbit_lt st
  generalize h.code = c10 at hw b10 v10 v12
  generalize st.scode = c12 at hw b12 v10 v12
  generalize st.sbit = c15 at hw b15 v10 v12
  obtain ⟨h26, h21, h16, h0, hlt⟩ := dai (by decide) (Fin.isLt _) (Fin.isLt _) (by omega) hw
  have f15_1 : fld w 15 1 = c15 := (fld_low16 h0 (by decide)).trans (by unfold fld; omega)
  have f12_3 : fld w 12 3 = c12 := (fld_low16 h0 (by decide)).trans (by unfold fld; omega)
  have f10_2 : fld w 10 2 = c10 := (fld_low16 h0 (by decide)).trans (by unfold fld; omega)
  have e0 : BitVec.ofNat 10 w = off := BitVec.eq_of_toNat_eq (by rw [BitVec.toNat_ofNat]; omega)
  have e16 : rg w 16 = base := rg_eq h16
  have e21 : rg w 21 = d := rg_eq h21
  refine ⟨hlt, ?_⟩
  simp [decodeWord, decMem, fieldOr, h26, f15_1, f12_3, f10_2, e0, e16, e21, v10, v12]

theorem ldw (d : Reg) (base : Reg) (st : Strength) (h : Hint) (off : BitVec 10) : Statement (.ldw d base st h off) := fun _ _ =>
  word_ldw d base st h off (by show put 0 off.toNat (put 10 h.code (put 16 base.val (put 21 d.val (put 12 st.scode (put 15 st.sbit 1342177280))))) = _; unfold put; omega)

theorem word_ldwu (d : Reg) (base : Reg) (st : Strength) (h : Hint) (off : BitVec 10) {w : Nat} (hw : w = 21 * 67108864 + d.val * 2097152 + base.val * 65536 + (st.sbit * 32768 + st.scode * 4096 + h.code * 1024 + off.toNat)) :
    w < 4294967296 ∧ decodeWord w = .ok (.ldwu d base st h off) := by
  have v10 := hintOf_code h
  have v12 := strengthOf_code st
  have b0 : off.toNat < 1024 := off.isLt
  have b10 : h.code < 4 := Hint.code_lt h
  have b16 : base.val < 32 := base.isLt
  have b21 : d.val < 32 := d.isLt
  have b12 : st.scode < 5 := Strength.scode_lt st
  have b15 : st.sbit < 2 := Strength.sbit_lt st
  generalize h.code = c10 at hw b10 v10 v12
  generalize st.scode = c12 at hw b12 v10 v12
  generalize st.sbit = c15 at hw b15 v10 v12
  obtain ⟨h26, h21, h16, h0, hlt⟩ := dai (by decide) (Fin.isLt _) (Fin.isLt _) (by omega) hw
  have f15_1 : fld w 15 1 = c15 := (fld_low16 h0 (by decide)).trans (by unfold fld; omega)
  have f12_3 : fld w 12 3 = c12 := (fld_low16 h0 (by decide)).trans (by unfold fld; omega)
  have f10_2 : fld w 10 2 = c10 := (fld_low16 h0 (by decide)).trans (by unfold fld; omega)
  have e0 : BitVec.ofNat 10 w = off := BitVec.eq_of_toNat_eq (by rw [BitVec.toNat_ofNat]; omega)
  have e16 : rg w 16 = base := rg_eq h16
  have e21 : rg w 21 = d := rg_eq h21
  refine ⟨hlt, ?_⟩
  simp [decodeWord, decMem, fieldOr, h26, f15_1, f12_3, f10_2, e0, e16, e21, v10, v12]

theorem ldwu (d : Reg) (base : Reg) (st : Strength) (h : Hint) (off : BitVec 10) : Statement (.ldwu d base st h off) := fun _ _ =>
  word_ldwu d base st h off (by show put 0 off.toNat (put 10 h.code (put 16 base.val (put 21 d.val (put 12 st.scode (put 15 st.sbit 1409286144))))) = _; unfold put; omega)

theorem word_ldd (d : Reg) (base : Reg) (st : Strength) (h : Hint) (off : BitVec 10) {w : Nat} (hw : w = 22 * 67108864 + d.val * 2097152 + base.val * 65536 + (st.sbit * 32768 + st.scode * 4096 + h.code * 1024 + off.toNat)) :
    w < 4294967296 ∧ decodeWord w = .ok (.ldd d base st h off) := by
  have v10 := hintOf_code h
  have v12 := strengthOf_code st
  have b0 : off.toNat < 1024 := off.isLt
  have b10 : h.code < 4 := Hint.code_lt h
  have b16 : base.val < 32 := base.isLt
  have b21 : d.val < 32 := d.isLt
  have b12 : st.scode < 5 := Strength.scode_lt st
  have b15 : st.sbit < 2 := Strength.sbit_lt st
  generalize h.code = c10 at hw b10 v10 v12
  generalize st.scode = c12 at hw b12 v10 v12
  generalize st.sbit = c15 at hw b15 v10 v12
  obtain ⟨h26, h21, h16, h0, hlt⟩ := dai (by decide) (Fin.isLt _) (Fin.isLt _) (by omega) hw
  have f15_1 : fld w 15 1 = c15 := (fld_low16 h0 (by decide)).trans (by unfold fld; omega)
  have f12_3 : fld w 12 3 = c12 := (fld_low16 h0 (by decide)).trans (by unfold fld; omega)
  have f10_2 : fld w 10 2 = c10 := (fld_low16 h0 (by decide)).trans (by unfold fld; omega)
  have e0 : BitVec.ofNat 10 w = off := BitVec.eq_of_toNat_eq (by rw [BitVec.toNat_ofNat]; omega)
  have e16 : rg w 16 = base := rg_eq h16
  have e21 : rg w 21 = d := rg_eq h21
  refine ⟨hlt, ?_⟩
  simp [decodeWord, decMem, fieldOr, h26, f15_1, f12_3, f10_2, e0, e16, e21, v10, v12]

theorem ldd (d : Reg) (base : Reg) (st : Strength) (h : Hint) (off : BitVec 10) : Statement (.ldd d base st h off) := fun _ _ =>
  word_ldd d base st h off (by show put 0 off.toNat (put 10 h.code (put 16 base.val (put 21 d.val (put 12 st.scode (put 15 st.sbit 1476395008))))) = _; unfold put; omega)

theorem word_ldf (d : Reg) (base : Reg) (st : Strength) (h : Hint) (off : BitVec 10) {w : Nat} (hw : w = 23 * 67108864 + d.val * 2097152 + base.val * 65536 + (st.sbit * 32768 + st.scode * 4096 + h.code * 1024 + off.toNat)) :
    w < 4294967296 ∧ decodeWord w = .ok (.ldf d base st h off) := by
  have v10 := hintOf_code h
  have v12 := strengthOf_code st
  have b0 : off.toNat < 1024 := off.isLt
  have b10 : h.code < 4 := Hint.code_lt h
  have b16 : base.val < 32 := base.isLt
  have b21 : d.val < 32 := d.isLt
  have b12 : st.scode < 5 := Strength.scode_lt st
  have b15 : st.sbit < 2 := Strength.sbit_lt st
  generalize h.code = c10 at hw b10 v10 v12
  generalize st.scode = c12 at hw b12 v10 v12
  generalize st.sbit = c15 at hw b15 v10 v12
  obtain ⟨h26, h21, h16, h0, hlt⟩ := dai (by decide) (Fin.isLt _) (Fin.isLt _) (by omega) hw
  have f15_1 : fld w 15 1 = c15 := (fld_low16 h0 (by decide)).trans (by unfold fld; omega)
  have f12_3 : fld w 12 3 = c12 := (fld_low16 h0 (by decide)).trans (by unfold fld; omega)
  have f10_2 : fld w 10 2 = c10 := (fld_low16 h0 (by decide)).trans (by unfold fld; omega)
  have e0 : BitVec.ofNat 10 w = off := BitVec.eq_of_toNat_eq (by rw [BitVec.toNat_ofNat]; omega)
  have e16 : rg w 16 = base := rg_eq h16
  have e21 : rg w 21 = d := rg_eq h21
  refine ⟨hlt, ?_⟩
  simp [decodeWord, decMem, fieldOr, h26, f15_1, f12_3, f10_2, e0, e16, e21, v10, v12]

theorem ldf (d : Reg) (base : Reg) (st : Strength) (h : Hint) (off : BitVec 10) : Statement (.ldf d base st h off) := fun _ _ =>
  word_ldf d base st h off (by show put 0 off.toNat (put 10 h.code (put 16 base.val (put 21 d.val (put 12 st.scode (put 15 st.sbit 1543503872))))) = _; unfold put; omega)

theorem word_stb (v : Reg) (base : Reg) (st : Strength) (h : Hint) (off : BitVec 10) {w : Nat} (hw : w = 24 * 67108864 + v.val * 2097152 + base.val * 65536 + (st.sbit * 32768 + st.scode * 4096 + h.code * 1024 + off.toNat)) :
    w < 4294967296 ∧ decodeWord w = .ok (.stb v base st h off) := by
  have v10 := hintOf_code h
  have v12 := strengthOf_code st
  have b0 : off.toNat < 1024 := off.isLt
  have b10 : h.code < 4 := Hint.code_lt h
  have b16 : base.val < 32 := base.isLt
  have b21 : v.val < 32 := v.isLt
  have b12 : st.scode < 5 := Strength.scode_lt st
  have b15 : st.sbit < 2 := Strength.sbit_lt st
  generalize h.code = c10 at hw b10 v10 v12
  generalize st.scode = c12 at hw b12 v10 v12
  generalize st.sbit = c15 at hw b15 v10 v12
  obtain ⟨h26, h21, h16, h0, hlt⟩ := dai (by decide) (Fin.isLt _) (Fin.isLt _) (by omega) hw
  have f15_1 : fld w 15 1 = c15 := (fld_low16 h0 (by decide)).trans (by unfold fld; omega)
  have f12_3 : fld w 12 3 = c12 := (fld_low16 h0 (by decide)).trans (by unfold fld; omega)
  have f10_2 : fld w 10 2 = c10 := (fld_low16 h0 (by decide)).trans (by unfold fld; omega)
  have e0 : BitVec.ofNat 10 w = off := BitVec.eq_of_toNat_eq (by rw [BitVec.toNat_ofNat]; omega)
  have e16 : rg w 16 = base := rg_eq h16
  have e21 : rg w 21 = v := rg_eq h21
  refine ⟨hlt, ?_⟩
  simp [decodeWord, decMem, fieldOr, h26, f15_1, f12_3, f10_2, e0, e16, e21, v10, v12]

theorem stb (v : Reg) (base : Reg) (st : Strength) (h : Hint) (off : BitVec 10) : Statement (.stb v base st h off) := fun _ _ =>
  word_stb v base st h off (by show put 0 off.toNat (put 10 h.code (put 16 base.val (put 21 v.val (put 12 st.scode (put 15 st.sbit 1610612736))))) = _; unfold put; omega)

theorem word_sth (v : Reg) (base : Reg) (st : Strength) (h : Hint) (off : BitVec 10) {w : Nat} (hw : w = 25 * 67108864 + v.val * 2097152 + base.val * 65536 + (st.sbit * 32768 + st.scode * 4096 + h.code * 1024 + off.toNat)) :
    w < 4294967296 ∧ decodeWord w = .ok (.sth v base st h off) := by
  have v10 := hintOf_code h
  have v12 := strengthOf_code st
  have b0 : off.toNat < 1024 := off.isLt
  have b10 : h.code < 4 := Hint.code_lt h
  have b16 : base.val < 32 := base.isLt
  have b21 : v.val < 32 := v.isLt
  have b12 : st.scode < 5 := Strength.scode_lt st
  have b15 : st.sbit < 2 := Strength.sbit_lt st
  generalize h.code = c10 at hw b10 v10 v12
  generalize st.scode = c12 at hw b12 v10 v12
  generalize st.sbit = c15 at hw b15 v10 v12
  obtain ⟨h26, h21, h16, h0, hlt⟩ := dai (by decide) (Fin.isLt _) (Fin.isLt _) (by omega) hw
  have f15_1 : fld w 15 1 = c15 := (fld_low16 h0 (by decide)).trans (by unfold fld; omega)
  have f12_3 : fld w 12 3 = c12 := (fld_low16 h0 (by decide)).trans (by unfold fld; omega)
  have f10_2 : fld w 10 2 = c10 := (fld_low16 h0 (by decide)).trans (by unfold fld; omega)
  have e0 : BitVec.ofNat 10 w = off := BitVec.eq_of_toNat_eq (by rw [BitVec.toNat_ofNat]; omega)
  have e16 : rg w 16 = base := rg_eq h16
  have e21 : rg w 21 = v := rg_eq h21
  refine ⟨hlt, ?_⟩
  simp [decodeWord, decMem, fieldOr, h26, f15_1, f12_3, f10_2, e0, e16, e21, v10, v12]

theorem sth (v : Reg) (base : Reg) (st : Strength) (h : Hint) (off : BitVec 10) : Statement (.sth v base st h off) := fun _ _ =>
  word_sth v base st h off (by show put 0 off.toNat (put 10 h.code (put 16 base.val (put 21 v.val (put 12 st.scode (put 15 st.sbit 1677721600))))) = _; unfold put; omega)

theorem word_stw (v : Reg) (base : Reg) (st : Strength) (h : Hint) (off : BitVec 10) {w : Nat} (hw : w = 26 * 67108864 + v.val * 2097152 + base.val * 65536 + (st.sbit * 32768 + st.scode * 4096 + h.code * 1024 + off.toNat)) :
    w < 4294967296 ∧ decodeWord w = .ok (.stw v base st h off) := by
  have v10 := hintOf_code h
  have v12 := strengthOf_code st
  have b0 : off.toNat < 1024 := off.isLt
  have b10 : h.code < 4 := Hint.code_lt h
  have b16 : base.val < 32 := base.isLt
  have b21 : v.val < 32 := v.isLt
  have b12 : st.scode < 5 := Strength.scode_lt st
  have b15 : st.sbit < 2 := Strength.sbit_lt st
  generalize h.code = c10 at hw b10 v10 v12
  generalize st.scode = c12 at hw b12 v10 v12
  generalize st.sbit = c15 at hw b15 v10 v12
  obtain ⟨h26, h21, h16, h0, hlt⟩ := dai (by decide) (Fin.isLt _) (Fin.isLt _) (by omega) hw
  have f15_1 : fld w 15 1 = c15 := (fld_low16 h0 (by decide)).trans (by unfold fld; omega)
  have f12_3 : fld w 12 3 = c12 := (fld_low16 h0 (by decide)).trans (by unfold fld; omega)
  have f10_2 : fld w 10 2 = c10 := (fld_low16 h0 (by decide)).trans (by unfold fld; omega)
  have e0 : BitVec.ofNat 10 w = off := BitVec.eq_of_toNat_eq (by rw [BitVec.toNat_ofNat]; omega)
  have e16 : rg w 16 = base := rg_eq h16
  have e21 : rg w 21 = v := rg_eq h21
  refine ⟨hlt, ?_⟩
  simp [decodeWord, decMem, fieldOr, h26, f15_1, f12_3, f10_2, e0, e16, e21, v10, v12]

theorem stw (v : Reg) (base : Reg) (st : Strength) (h : Hint) (off : BitVec 10) : Statement (.stw v base st h off) := fun _ _ =>
  word_stw v base st h off (by show put 0 off.toNat (put 10 h.code (put 16 base.val (put 21 v.val (put 12 st.scode (put 15 st.sbit 1744830464))))) = _; unfold put; omega)

theorem word_std (v : Reg) (base : Reg) (st : Strength) (h : Hint) (off : BitVec 10) {w : Nat} (hw : w = 27 * 67108864 + v.val * 2097152 + base.val * 65536 + (st.sbit * 32768 + st.scode * 4096 + h.code * 1024 + off.toNat)) :
    w < 4294967296 ∧ decodeWord w = .ok (.std v base st h off) := by
  have v10 := hintOf_code h
  have v12 := strengthOf_code st
  have b0 : off.toNat < 1024 := off.isLt
  have b10 : h.code < 4 := Hint.code_lt h
  have b16 : base.val < 32 := base.isLt
  have b21 : v.val < 32 := v.isLt
  have b12 : st.scode < 5 := Strength.scode_lt st
  have b15 : st.sbit < 2 := Strength.sbit_lt st
  generalize h.code = c10 at hw b10 v10 v12
  generalize st.scode = c12 at hw b12 v10 v12
  generalize st.sbit = c15 at hw b15 v10 v12
  obtain ⟨h26, h21, h16, h0, hlt⟩ := dai (by decide) (Fin.isLt _) (Fin.isLt _) (by omega) hw
  have f15_1 : fld w 15 1 = c15 := (fld_low16 h0 (by decide)).trans (by unfold fld; omega)
  have f12_3 : fld w 12 3 = c12 := (fld_low16 h0 (by decide)).trans (by unfold fld; omega)
  have f10_2 : fld w 10 2 = c10 := (fld_low16 h0 (by decide)).trans (by unfold fld; omega)
  have e0 : BitVec.ofNat 10 w = off := BitVec.eq_of_toNat_eq (by rw [BitVec.toNat_ofNat]; omega)
  have e16 : rg w 16 = base := rg_eq h16
  have e21 : rg w 21 = v := rg_eq h21
  refine ⟨hlt, ?_⟩
  simp [decodeWord, decMem, fieldOr, h26, f15_1, f12_3, f10_2, e0, e16, e21, v10, v12]

theorem std (v : Reg) (base : Reg) (st : Strength) (h : Hint) (off : BitVec 10) : Statement (.std v base st h off) := fun _ _ =>
  word_std v base st h off (by show put 0 off.toNat (put 10 h.code (put 16 base.val (put 21 v.val (put 12 st.scode (put 15 st.sbit 1811939328))))) = _; unfold put; omega)

theorem word_stf (v : Reg) (base : Reg) (st : Strength) (h : Hint) (off : BitVec 10) {w : Nat} (hw : w = 28 * 67108864 + v.val * 2097152 + base.val * 65536 + (st.sbit * 32768 + st.scode * 4096 + h.code * 1024 + off.toNat)) :
    w < 4294967296 ∧ decodeWord w = .ok (.stf v base st h off) := by
  have v10 := hintOf_code h
  have v12 := strengthOf_code st
  have b0 : off.toNat < 1024 := off.isLt
  have b10 : h.code < 4 := Hint.code_lt h
  have b16 : base.val < 32 := base.isLt
  have b21 : v.val < 32 := v.isLt
  have b12 : st.scode < 5 := Strength.scode_lt st
  have b15 : st.sbit < 2 := Strength.sbit_lt st
  generalize h.code = c10 at hw b10 v10 v12
  generalize st.scode = c12 at hw b12 v10 v12
  generalize st.sbit = c15 at hw b15 v10 v12
  obtain ⟨h26, h21, h16, h0, hlt⟩ := dai (by decide) (Fin.isLt _) (Fin.isLt _) (by omega) hw
  have f15_1 : fld w 15 1 = c15 := (fld_low16 h0 (by decide)).trans (by unfold fld; omega)
  have f12_3 : fld w 12 3 = c12 := (fld_low16 h0 (by decide)).trans (by unfold fld; omega)
  have f10_2 : fld w 10 2 = c10 := (fld_low16 h0 (by decide)).trans (by unfold fld; omega)
  have e0 : BitVec.ofNat 10 w = off := BitVec.eq_of_toNat_eq (by rw [BitVec.toNat_ofNat]; omega)
  have e16 : rg w 16 = base := rg_eq h16
  have e21 : rg w 21 = v := rg_eq h21
  refine ⟨hlt, ?_⟩
  simp [decodeWord, decMem, fieldOr, h26, f15_1, f12_3, f10_2, e0, e16, e21, v10, v12]

theorem stf (v : Reg) (base : Reg) (st : Strength) (h : Hint) (off : BitVec 10) : Statement (.stf v base st h off) := fun _ _ =>
  word_stf v base st h off (by show put 0 off.toNat (put 10 h.code (put 16 base.val (put 21 v.val (put 12 st.scode (put 15 st.sbit 1879048192))))) = _; unfold put; omega)

theorem word_vld (d : Reg) (base : Reg) (st : Strength) (h : Hint) (off : BitVec 10) {w : Nat} (hw : w = 29 * 67108864 + d.val * 2097152 + base.val * 65536 + (st.sbit * 32768 + st.scode * 4096 + h.code * 1024 + off.toNat)) :
    w < 4294967296 ∧ decodeWord w = .ok (.vld d base st h off) := by
  have v10 := hintOf_code h
  have v12 := strengthOf_code st
  have b0 : off.toNat < 1024 := off.isLt
  have b10 : h.code < 4 := Hint.code_lt h
  have b16 : base.val < 32 := base.isLt
  have b21 : d.val < 32 := d.isLt
  have b12 : st.scode < 5 := Strength.scode_lt st
  have b15 : st.sbit < 2 := Strength.sbit_lt st
  generalize h.code = c10 at hw b10 v10 v12
  generalize st.scode = c12 at hw b12 v10 v12
  generalize st.sbit = c15 at hw b15 v10 v12
  obtain ⟨h26, h21, h16, h0, hlt⟩ := dai (by decide) (Fin.isLt _) (Fin.isLt _) (by omega) hw
  have f15_1 : fld w 15 1 = c15 := (fld_low16 h0 (by decide)).trans (by unfold fld; omega)
  have f12_3 : fld w 12 3 = c12 := (fld_low16 h0 (by decide)).trans (by unfold fld; omega)
  have f10_2 : fld w 10 2 = c10 := (fld_low16 h0 (by decide)).trans (by unfold fld; omega)
  have e0 : BitVec.ofNat 10 w = off := BitVec.eq_of_toNat_eq (by rw [BitVec.toNat_ofNat]; omega)
  have e16 : rg w 16 = base := rg_eq h16
  have e21 : rg w 21 = d := rg_eq h21
  refine ⟨hlt, ?_⟩
  simp [decodeWord, decMem, fieldOr, h26, f15_1, f12_3, f10_2, e0, e16, e21, v10, v12]

theorem vld (d : Reg) (base : Reg) (st : Strength) (h : Hint) (off : BitVec 10) : Statement (.vld d base st h off) := fun _ _ =>
  word_vld d base st h off (by show put 0 off.toNat (put 10 h.code (put 16 base.val (put 21 d.val (put 12 st.scode (put 15 st.sbit 1946157056))))) = _; unfold put; omega)

theorem word_vst (v : Reg) (base : Reg) (st : Strength) (h : Hint) (off : BitVec 10) {w : Nat} (hw : w = 30 * 67108864 + v.val * 2097152 + base.val * 65536 + (st.sbit * 32768 + st.scode * 4096 + h.code * 1024 + off.toNat)) :
    w < 4294967296 ∧ decodeWord w = .ok (.vst v base st h off) := by
  have v10 := hintOf_code h
  have v12 := strengthOf_code st
  have b0 : off.toNat < 1024 := off.isLt
  have b10 : h.code < 4 := Hint.code_lt h
  have b16 : base.val < 32 := base.isLt
  have b21 : v.val < 32 := v.isLt
  have b12 : st.scode < 5 := Strength.scode_lt st
  have b15 : st.sbit < 2 := Strength.sbit_lt st
  generalize h.code = c10 at hw b10 v10 v12
  generalize st.scode = c12 at hw b12 v10 v12
  generalize st.sbit = c15 at hw b15 v10 v12
  obtain ⟨h26, h21, h16, h0, hlt⟩ := dai (by decide) (Fin.isLt _) (Fin.isLt _) (by omega) hw
  have f15_1 : fld w 15 1 = c15 := (fld_low16 h0 (by decide)).trans (by unfold fld; omega)
  have f12_3 : fld w 12 3 = c12 := (fld_low16 h0 (by decide)).trans (by unfold fld; omega)
  have f10_2 : fld w 10 2 = c10 := (fld_low16 h0 (by decide)).trans (by unfold fld; omega)
  have e0 : BitVec.ofNat 10 w = off := BitVec.eq_of_toNat_eq (by rw [BitVec.toNat_ofNat]; omega)
  have e16 : rg w 16 = base := rg_eq h16
  have e21 : rg w 21 = v := rg_eq h21
  refine ⟨hlt, ?_⟩
  simp [decodeWord, decMem, fieldOr, h26, f15_1, f12_3, f10_2, e0, e16, e21, v10, v12]

theorem vst (v : Reg) (base : Reg) (st : Strength) (h : Hint) (off : BitVec 10) : Statement (.vst v base st h off) := fun _ _ =>
  word_vst v base st h off (by show put 0 off.toNat (put 10 h.code (put 16 base.val (put 21 v.val (put 12 st.scode (put 15 st.sbit 2013265920))))) = _; unfold put; omega)

theorem word_ldx (d : Reg) (a : Reg) (b : Reg) (st : Strength) (z : IdxSize) {w : Nat} (hw : w = 31 * 67108864 + d.val * 2097152 + a.val * 65536 + b.val * 2048 + (st.scode * 256 + st.sbit * 128 + z.code * 16 + 1)) :
    w < 4294967296 ∧ decodeWord w = .ok (.ldx d a b st z) := by
  have v4 := idxSizeOf_code z
  have v8 := strengthOf_code st
  have b4 : z.code < 8 := IdxSize.code_lt z
  have b11 : b.val < 32 := b.isLt
  have b16 : a.val < 32 := a.isLt
  have b21 : d.val < 32 := d.isLt
  have b8 : st.scode < 5 := Strength.scode_lt st
  have b7 : st.sbit < 2 := Strength.sbit_lt st
  generalize z.code = c4 at hw b4 v4 v8
  generalize st.scode = c8 at hw b8 v4 v8
  generalize st.sbit = c7 at hw b7 v4 v8
  obtain ⟨h26, h21, h16, h11, h0, hlt⟩ := dab (by decide) (Fin.isLt _) (Fin.isLt _) (Fin.isLt _) (by omega) hw
  have f8_3 : fld w 8 3 = c8 := (fld_low11 h0 (by decide)).trans (by unfold fld; omega)
  have f7_1 : fld w 7 1 = c7 := (fld_low11 h0 (by decide)).trans (by unfold fld; omega)
  have f4_3 : fld w 4 3 = c4 := (fld_low11 h0 (by decide)).trans (by unfold fld; omega)
  have f0_4 : fld w 0 4 = 1 := (fld_low11 h0 (by decide)).trans (by unfold fld; omega)
  have e11 : rg w 11 = b := rg_eq h11
  have e16 : rg w 16 = a := rg_eq h16
  have e21 : rg w 21 = d := rg_eq h21
  refine ⟨hlt, ?_⟩
  simp [decodeWord, decIdx, fieldOr, h26, f8_3, f7_1, f4_3, f0_4, e11, e16, e21, v4, v8]

theorem ldx (d : Reg) (a : Reg) (b : Reg) (st : Strength) (z : IdxSize) : Statement (.ldx d a b st z) := fun _ _ =>
  word_ldx d a b st z (by show put 4 z.code (put 11 b.val (put 16 a.val (put 21 d.val (put 8 st.scode (put 7 st.sbit 2080374785))))) = _; unfold put; omega)

theorem word_stx (v : Reg) (a : Reg) (b : Reg) (st : Strength) (z : IdxSize) {w : Nat} (hw : w = 31 * 67108864 + v.val * 2097152 + a.val * 65536 + b.val * 2048 + (st.scode * 256 + st.sbit * 128 + z.code * 16 + 2)) (wf : (z.okStore) = true) :
    w < 4294967296 ∧ decodeWord w = .ok (.stx v a b st z) := by
  have v4 := idxSizeOf_code z
  have v8 := strengthOf_code st
  have b4 : z.code < 8 := IdxSize.code_lt z
  have b11 : b.val < 32 := b.isLt
  have b16 : a.val < 32 := a.isLt
  have b21 : v.val < 32 := v.isLt
  have b8 : st.scode < 5 := Strength.scode_lt st
  have b7 : st.sbit < 2 := Strength.sbit_lt st
  generalize z.code = c4 at hw b4 v4 v8
  generalize st.scode = c8 at hw b8 v4 v8
  generalize st.sbit = c7 at hw b7 v4 v8
  obtain ⟨h26, h21, h16, h11, h0, hlt⟩ := dab (by decide) (Fin.isLt _) (Fin.isLt _) (Fin.isLt _) (by omega) hw
  have f8_3 : fld w 8 3 = c8 := (fld_low11 h0 (by decide)).trans (by unfold fld; omega)
  have f7_1 : fld w 7 1 = c7 := (fld_low11 h0 (by decide)).trans (by unfold fld; omega)
  have f4_3 : fld w 4 3 = c4 := (fld_low11 h0 (by decide)).trans (by unfold fld; omega)
  have f0_4 : fld w 0 4 = 2 := (fld_low11 h0 (by decide)).trans (by unfold fld; omega)
  have e11 : rg w 11 = b := rg_eq h11
  have e16 : rg w 16 = a := rg_eq h16
  have e21 : rg w 21 = v := rg_eq h21
  refine ⟨hlt, ?_⟩
  simp [decodeWord, decIdx, need, fieldOr, h26, f8_3, f7_1, f4_3, f0_4, e11, e16, e21, v4, v8, wf]

theorem stx (v : Reg) (a : Reg) (b : Reg) (st : Strength) (z : IdxSize) : Statement (.stx v a b st z) := fun _ wf =>
  word_stx v a b st z (by show put 4 z.code (put 11 b.val (put 16 a.val (put 21 v.val (put 8 st.scode (put 7 st.sbit 2080374786))))) = _; unfold put; omega) wf

theorem word_vgather (d : Reg) (a : Reg) (b : Reg) (st : Strength) (z : IdxSize) {w : Nat} (hw : w = 31 * 67108864 + d.val * 2097152 + a.val * 65536 + b.val * 2048 + (st.scode * 256 + st.sbit * 128 + z.code * 16 + 3)) (wf : (z.okVector) = true) :
    w < 4294967296 ∧ decodeWord w = .ok (.vgather d a b st z) := by
  have v4 := idxSizeOf_code z
  have v8 := strengthOf_code st
  have b4 : z.code < 8 := IdxSize.code_lt z
  have b11 : b.val < 32 := b.isLt
  have b16 : a.val < 32 := a.isLt
  have b21 : d.val < 32 := d.isLt
  have b8 : st.scode < 5 := Strength.scode_lt st
  have b7 : st.sbit < 2 := Strength.sbit_lt st
  generalize z.code = c4 at hw b4 v4 v8
  generalize st.scode = c8 at hw b8 v4 v8
  generalize st.sbit = c7 at hw b7 v4 v8
  obtain ⟨h26, h21, h16, h11, h0, hlt⟩ := dab (by decide) (Fin.isLt _) (Fin.isLt _) (Fin.isLt _) (by omega) hw
  have f8_3 : fld w 8 3 = c8 := (fld_low11 h0 (by decide)).trans (by unfold fld; omega)
  have f7_1 : fld w 7 1 = c7 := (fld_low11 h0 (by decide)).trans (by unfold fld; omega)
  have f4_3 : fld w 4 3 = c4 := (fld_low11 h0 (by decide)).trans (by unfold fld; omega)
  have f0_4 : fld w 0 4 = 3 := (fld_low11 h0 (by decide)).trans (by unfold fld; omega)
  have e11 : rg w 11 = b := rg_eq h11
  have e16 : rg w 16 = a := rg_eq h16
  have e21 : rg w 21 = d := rg_eq h21
  refine ⟨hlt, ?_⟩
  simp [decodeWord, decIdx, need, fieldOr, h26, f8_3, f7_1, f4_3, f0_4, e11, e16, e21, v4, v8, wf]

theorem vgather (d : Reg) (a : Reg) (b : Reg) (st : Strength) (z : IdxSize) : Statement (.vgather d a b st z) := fun _ wf =>
  word_vgather d a b st z (by show put 4 z.code (put 11 b.val (put 16 a.val (put 21 d.val (put 8 st.scode (put 7 st.sbit 2080374787))))) = _; unfold put; omega) wf

theorem word_vscatter (v : Reg) (a : Reg) (b : Reg) (st : Strength) (z : IdxSize) {w : Nat} (hw : w = 31 * 67108864 + v.val * 2097152 + a.val * 65536 + b.val * 2048 + (st.scode * 256 + st.sbit * 128 + z.code * 16 + 4)) (wf : (z.okVector) = true) :
    w < 4294967296 ∧ decodeWord w = .ok (.vscatter v a b st z) := by
  have v4 := idxSizeOf_code z
  have v8 := strengthOf_code st
  have b4 : z.code < 8 := IdxSize.code_lt z
  have b11 : b.val < 32 := b.isLt
  have b16 : a.val < 32 := a.isLt
  have b21 : v.val < 32 := v.isLt
  have b8 : st.scode < 5 := Strength.scode_lt st
  have b7 : st.sbit < 2 := Strength.sbit_lt st
  generalize z.code = c4 at hw b4 v4 v8
  generalize st.scode = c8 at hw b8 v4 v8
  generalize st.sbit = c7 at hw b7 v4 v8
  obtain ⟨h26, h21, h16, h11, h0, hlt⟩ := dab (by decide) (Fin.isLt _) (Fin.isLt _) (Fin.isLt _) (by omega) hw
  have f8_3 : fld w 8 3 = c8 := (fld_low11 h0 (by decide)).trans (by unfold fld; omega)
  have f7_1 : fld w 7 1 = c7 := (fld_low11 h0 (by decide)).trans (by unfold fld; omega)
  have f4_3 : fld w 4 3 = c4 := (fld_low11 h0 (by decide)).trans (by unfold fld; omega)
  have f0_4 : fld w 0 4 = 4 := (fld_low11 h0 (by decide)).trans (by unfold fld; omega)
  have e11 : rg w 11 = b := rg_eq h11
  have e16 : rg w 16 = a := rg_eq h16
  have e21 : rg w 21 = v := rg_eq h21
  refine ⟨hlt, ?_⟩
  simp [decodeWord, decIdx, need, fieldOr, h26, f8_3, f7_1, f4_3, f0_4, e11, e16, e21, v4, v8, wf]

theorem vscatter (v : Reg) (a : Reg) (b : Reg) (st : Strength) (z : IdxSize) : Statement (.vscatter v a b st z) := fun _ wf =>
  word_vscatter v a b st z (by show put 4 z.code (put 11 b.val (put 16 a.val (put 21 v.val (put 8 st.scode (put 7 st.sbit 2080374788))))) = _; unfold put; omega) wf

theorem word_tld (v : Reg) (c : Reg) (sh : R16) {w : Nat} (hw : w = 32 * 67108864 + v.val * 2097152 + c.val * 65536 + (sh.val * 4096)) :
    w < 4294967296 ∧ decodeWord w = .ok (.tld v c sh) := by
  have b12 : sh.val < 16 := sh.isLt
  have b16 : c.val < 32 := c.isLt
  have b21 : v.val < 32 := v.isLt
  obtain ⟨h26, h21, h16, h0, hlt⟩ := dai (by decide) (Fin.isLt _) (Fin.isLt _) (by omega) hw
  have f11_1 : fld w 11 1 = 0 := (fld_low16 h0 (by decide)).trans (by unfold fld; omega)
  have f0_11 : fld w 0 11 = 0 := (fld_low16 h0 (by decide)).trans (by unfold fld; omega)
  have e12 : r16 w 12 = sh := r16_eq ((fld_low16 (k := 4) h0 (by decide)).trans (by unfold fld; omega))
  have e16 : rg w 16 = c := rg_eq h16
  have e21 : rg w 21 = v := rg_eq h21
  refine ⟨hlt, ?_⟩
  simp [decodeWord, decTen, need, h26, f11_1, f0_11, e12, e16, e21]

theorem tld (v : Reg) (c : Reg) (sh : R16) : Statement (.tld v c sh) := fun _ _ =>
  word_tld v c sh (by show put 12 sh.val (put 16 c.val (put 21 v.val 2147483648)) = _; unfold put; omega)

theorem word_tst (v : Reg) (c : Reg) (sh : R16) {w : Nat} (hw : w = 32 * 67108864 + v.val * 2097152 + c.val * 65536 + (sh.val * 4096 + 2048)) :
    w < 4294967296 ∧ decodeWord w = .ok (.tst v c sh) := by
  have b12 : sh.val < 16 := sh.isLt
  have b16 : c.val < 32 := c.isLt
  have b21 : v.val < 32 := v.isLt
  obtain ⟨h26, h21, h16, h0, hlt⟩ := dai (by decide) (Fin.isLt _) (Fin.isLt _) (by omega) hw
  have f11_1 : fld w 11 1 = 1 := (fld_low16 h0 (by decide)).trans (by unfold fld; omega)
  have f0_11 : fld w 0 11 = 0 := (fld_low16 h0 (by decide)).trans (by unfold fld; omega)
  have e12 : r16 w 12 = sh := r16_eq ((fld_low16 (k := 4) h0 (by decide)).trans (by unfold fld; omega))
  have e16 : rg w 16 = c := rg_eq h16
  have e21 : rg w 21 = v := rg_eq h21
  refine ⟨hlt, ?_⟩
  simp [decodeWord, decTen, need, h26, f11_1, f0_11, e12, e16, e21]

theorem tst (v : Reg) (c : Reg) (sh : R16) : Statement (.tst v c sh) := fun _ _ =>
  word_tst v c sh (by show put 12 sh.val (put 16 c.val (put 21 v.val 2147485696)) = _; unfold put; omega)

theorem word_amoadd (d : Reg) (a : Reg) (b : Reg) (sc : Scope) (z : AmoSize) {w : Nat} (hw : w = 33 * 67108864 + d.val * 2097152 + a.val * 65536 + b.val * 2048 + (sc.code * 256 + z.code * 64)) :
    w < 4294967296 ∧ decodeWord w = .ok (.amoadd d a b sc z) := by
  have v6 := amoSizeOf_code z
  have v8 := scopeOf_code sc
  have b6 : z.code < 4 := AmoSize.code_lt z
  have b8 : sc.code < 5 := Scope.code_lt sc
  have b11 : b.val < 32 := b.isLt
  have b16 : a.val < 32 := a.isLt
  have b21 : d.val < 32 := d.isLt
  generalize z.code = c6 at hw b6 v6 v8
  generalize sc.code = c8 at hw b8 v6 v8
  obtain ⟨h26, h21, h16, h11, h0, hlt⟩ := dab (by decide) (Fin.isLt _) (Fin.isLt _) (Fin.isLt _) (by omega) hw
  have f8_3 : fld w 8 3 = c8 := (fld_low11 h0 (by decide)).trans (by unfold fld; omega)
  have f6_2 : fld w 6 2 = c6 := (fld_low11 h0 (by decide)).trans (by unfold fld; omega)
  have f4_2 : fld w 4 2 = 0 := (fld_low11 h0 (by decide)).trans (by unfold fld; omega)
  have f0_4 : fld w 0 4 = 0 := (fld_low11 h0 (by decide)).trans (by unfold fld; omega)
  have e11 : rg w 11 = b := rg_eq h11
  have e16 : rg w 16 = a := rg_eq h16
  have e21 : rg w 21 = d := rg_eq h21
  refine ⟨hlt, ?_⟩
  simp [decodeWord, decAmo, decAmoZ, need, fieldOr, h26, f8_3, f6_2, f4_2, f0_4, e11, e16, e21, v6, v8]

theorem amoadd (d : Reg) (a : Reg) (b : Reg) (sc : Scope) (z : AmoSize) : Statement (.amoadd d a b sc z) := fun _ _ =>
  word_amoadd d a b sc z (by show put 6 z.code (put 8 sc.code (put 11 b.val (put 16 a.val (put 21 d.val 2214592512)))) = _; unfold put; omega)

theorem word_amoand (d : Reg) (a : Reg) (b : Reg) (sc : Scope) (z : AmoSize) {w : Nat} (hw : w = 33 * 67108864 + d.val * 2097152 + a.val * 65536 + b.val * 2048 + (sc.code * 256 + z.code * 64 + 1)) :
    w < 4294967296 ∧ decodeWord w = .ok (.amoand d a b sc z) := by
  have v6 := amoSizeOf_code z
  have v8 := scopeOf_code sc
  have b6 : z.code < 4 := AmoSize.code_lt z
  have b8 : sc.code < 5 := Scope.code_lt sc
  have b11 : b.val < 32 := b.isLt
  have b16 : a.val < 32 := a.isLt
  have b21 : d.val < 32 := d.isLt
  generalize z.code = c6 at hw b6 v6 v8
  generalize sc.code = c8 at hw b8 v6 v8
  obtain ⟨h26, h21, h16, h11, h0, hlt⟩ := dab (by decide) (Fin.isLt _) (Fin.isLt _) (Fin.isLt _) (by omega) hw
  have f8_3 : fld w 8 3 = c8 := (fld_low11 h0 (by decide)).trans (by unfold fld; omega)
  have f6_2 : fld w 6 2 = c6 := (fld_low11 h0 (by decide)).trans (by unfold fld; omega)
  have f4_2 : fld w 4 2 = 0 := (fld_low11 h0 (by decide)).trans (by unfold fld; omega)
  have f0_4 : fld w 0 4 = 1 := (fld_low11 h0 (by decide)).trans (by unfold fld; omega)
  have e11 : rg w 11 = b := rg_eq h11
  have e16 : rg w 16 = a := rg_eq h16
  have e21 : rg w 21 = d := rg_eq h21
  refine ⟨hlt, ?_⟩
  simp [decodeWord, decAmo, decAmoZ, need, fieldOr, h26, f8_3, f6_2, f4_2, f0_4, e11, e16, e21, v6, v8]

theorem amoand (d : Reg) (a : Reg) (b : Reg) (sc : Scope) (z : AmoSize) : Statement (.amoand d a b sc z) := fun _ _ =>
  word_amoand d a b sc z (by show put 6 z.code (put 8 sc.code (put 11 b.val (put 16 a.val (put 21 d.val 2214592513)))) = _; unfold put; omega)

theorem word_amoor (d : Reg) (a : Reg) (b : Reg) (sc : Scope) (z : AmoSize) {w : Nat} (hw : w = 33 * 67108864 + d.val * 2097152 + a.val * 65536 + b.val * 2048 + (sc.code * 256 + z.code * 64 + 2)) :
    w < 4294967296 ∧ decodeWord w = .ok (.amoor d a b sc z) := by
  have v6 := amoSizeOf_code z
  have v8 := scopeOf_code sc
  have b6 : z.code < 4 := AmoSize.code_lt z
  have b8 : sc.code < 5 := Scope.code_lt sc
  have b11 : b.val < 32 := b.isLt
  have b16 : a.val < 32 := a.isLt
  have b21 : d.val < 32 := d.isLt
  generalize z.code = c6 at hw b6 v6 v8
  generalize sc.code = c8 at hw b8 v6 v8
  obtain ⟨h26, h21, h16, h11, h0, hlt⟩ := dab (by decide) (Fin.isLt _) (Fin.isLt _) (Fin.isLt _) (by omega) hw
  have f8_3 : fld w 8 3 = c8 := (fld_low11 h0 (by decide)).trans (by unfold fld; omega)
  have f6_2 : fld w 6 2 = c6 := (fld_low11 h0 (by decide)).trans (by unfold fld; omega)
  have f4_2 : fld w 4 2 = 0 := (fld_low11 h0 (by decide)).trans (by unfold fld; omega)
  have f0_4 : fld w 0 4 = 2 := (fld_low11 h0 (by decide)).trans (by unfold fld; omega)
  have e11 : rg w 11 = b := rg_eq h11
  have e16 : rg w 16 = a := rg_eq h16
  have e21 : rg w 21 = d := rg_eq h21
  refine ⟨hlt, ?_⟩
  simp [decodeWord, decAmo, decAmoZ, need, fieldOr, h26, f8_3, f6_2, f4_2, f0_4, e11, e16, e21, v6, v8]

theorem amoor (d : Reg) (a : Reg) (b : Reg) (sc : Scope) (z : AmoSize) : Statement (.amoor d a b sc z) := fun _ _ =>
  word_amoor d a b sc z (by show put 6 z.code (put 8 sc.code (put 11 b.val (put 16 a.val (put 21 d.val 2214592514)))) = _; unfold put; omega)

theorem word_amoxor (d : Reg) (a : Reg) (b : Reg) (sc : Scope) (z : AmoSize) {w : Nat} (hw : w = 33 * 67108864 + d.val * 2097152 + a.val * 65536 + b.val * 2048 + (sc.code * 256 + z.code * 64 + 3)) :
    w < 4294967296 ∧ decodeWord w = .ok (.amoxor d a b sc z) := by
  have v6 := amoSizeOf_code z
  have v8 := scopeOf_code sc
  have b6 : z.code < 4 := AmoSize.code_lt z
  have b8 : sc.code < 5 := Scope.code_lt sc
  have b11 : b.val < 32 := b.isLt
  have b16 : a.val < 32 := a.isLt
  have b21 : d.val < 32 := d.isLt
  generalize z.code = c6 at hw b6 v6 v8
  generalize sc.code = c8 at hw b8 v6 v8
  obtain ⟨h26, h21, h16, h11, h0, hlt⟩ := dab (by decide) (Fin.isLt _) (Fin.isLt _) (Fin.isLt _) (by omega) hw
  have f8_3 : fld w 8 3 = c8 := (fld_low11 h0 (by decide)).trans (by unfold fld; omega)
  have f6_2 : fld w 6 2 = c6 := (fld_low11 h0 (by decide)).trans (by unfold fld; omega)
  have f4_2 : fld w 4 2 = 0 := (fld_low11 h0 (by decide)).trans (by unfold fld; omega)
  have f0_4 : fld w 0 4 = 3 := (fld_low11 h0 (by decide)).trans (by unfold fld; omega)
  have e11 : rg w 11 = b := rg_eq h11
  have e16 : rg w 16 = a := rg_eq h16
  have e21 : rg w 21 = d := rg_eq h21
  refine ⟨hlt, ?_⟩
  simp [decodeWord, decAmo, decAmoZ, need, fieldOr, h26, f8_3, f6_2, f4_2, f0_4, e11, e16, e21, v6, v8]

theorem amoxor (d : Reg) (a : Reg) (b : Reg) (sc : Scope) (z : AmoSize) : Statement (.amoxor d a b sc z) := fun _ _ =>
  word_amoxor d a b sc z (by show put 6 z.code (put 8 sc.code (put 11 b.val (put 16 a.val (put 21 d.val 2214592515)))) = _; unfold put; omega)

theorem word_amomin (d : Reg) (a : Reg) (b : Reg) (sc : Scope) (z : AmoSize) {w : Nat} (hw : w = 33 * 67108864 + d.val * 2097152 + a.val * 65536 + b.val * 2048 + (sc.code * 256 + z.code * 64 + 4)) :
    w < 4294967296 ∧ decodeWord w = .ok (.amomin d a b sc z) := by
  have v6 := amoSizeOf_code z
  have v8 := scopeOf_code sc
  have b6 : z.code < 4 := AmoSize.code_lt z
  have b8 : sc.code < 5 := Scope.code_lt sc
  have b11 : b.val < 32 := b.isLt
  have b16 : a.val < 32 := a.isLt
  have b21 : d.val < 32 := d.isLt
  generalize z.code = c6 at hw b6 v6 v8
  generalize sc.code = c8 at hw b8 v6 v8
  obtain ⟨h26, h21, h16, h11, h0, hlt⟩ := dab (by decide) (Fin.isLt _) (Fin.isLt _) (Fin.isLt _) (by omega) hw
  have f8_3 : fld w 8 3 = c8 := (fld_low11 h0 (by decide)).trans (by unfold fld; omega)
  have f6_2 : fld w 6 2 = c6 := (fld_low11 h0 (by decide)).trans (by unfold fld; omega)
  have f4_2 : fld w 4 2 = 0 := (fld_low11 h0 (by decide)).trans (by unfold fld; omega)
  have f0_4 : fld w 0 4 = 4 := (fld_low11 h0 (by decide)).trans (by unfold fld; omega)
  have e11 : rg w 11 = b := rg_eq h11
  have e16 : rg w 16 = a := rg_eq h16
  have e21 : rg w 21 = d := rg_eq h21
  refine ⟨hlt, ?_⟩
  simp [decodeWord, decAmo, decAmoZ, need, fieldOr, h26, f8_3, f6_2, f4_2, f0_4, e11, e16, e21, v6, v8]

theorem amomin (d : Reg) (a : Reg) (b : Reg) (sc : Scope) (z : AmoSize) : Statement (.amomin d a b sc z) := fun _ _ =>
  word_amomin d a b sc z (by show put 6 z.code (put 8 sc.code (put 11 b.val (put 16 a.val (put 21 d.val 2214592516)))) = _; unfold put; omega)

theorem word_amomax (d : Reg) (a : Reg) (b : Reg) (sc : Scope) (z : AmoSize) {w : Nat} (hw : w = 33 * 67108864 + d.val * 2097152 + a.val * 65536 + b.val * 2048 + (sc.code * 256 + z.code * 64 + 5)) :
    w < 4294967296 ∧ decodeWord w = .ok (.amomax d a b sc z) := by
  have v6 := amoSizeOf_code z
  have v8 := scopeOf_code sc
  have b6 : z.code < 4 := AmoSize.code_lt z
  have b8 : sc.code < 5 := Scope.code_lt sc
  have b11 : b.val < 32 := b.isLt
  have b16 : a.val < 32 := a.isLt
  have b21 : d.val < 32 := d.isLt
  generalize z.code = c6 at hw b6 v6 v8
  generalize sc.code = c8 at hw b8 v6 v8
  obtain ⟨h26, h21, h16, h11, h0, hlt⟩ := dab (by decide) (Fin.isLt _) (Fin.isLt _) (Fin.isLt _) (by omega) hw
  have f8_3 : fld w 8 3 = c8 := (fld_low11 h0 (by decide)).trans (by unfold fld; omega)
  have f6_2 : fld w 6 2 = c6 := (fld_low11 h0 (by decide)).trans (by unfold fld; omega)
  have f4_2 : fld w 4 2 = 0 := (fld_low11 h0 (by decide)).trans (by unfold fld; omega)
  have f0_4 : fld w 0 4 = 5 := (fld_low11 h0 (by decide)).trans (by unfold fld; omega)
  have e11 : rg w 11 = b := rg_eq h11
  have e16 : rg w 16 = a := rg_eq h16
  have e21 : rg w 21 = d := rg_eq h21
  refine ⟨hlt, ?_⟩
  simp [decodeWord, decAmo, decAmoZ, need, fieldOr, h26, f8_3, f6_2, f4_2, f0_4, e11, e16, e21, v6, v8]

theorem amomax (d : Reg) (a : Reg) (b : Reg) (sc : Scope) (z : AmoSize) : Statement (.amomax d a b sc z) := fun _ _ =>
  word_amomax d a b sc z (by show put 6 z.code (put 8 sc.code (put 11 b.val (put 16 a.val (put 21 d.val 2214592517)))) = _; unfold put; omega)

theorem word_amominu (d : Reg) (a : Reg) (b : Reg) (sc : Scope) (z : AmoSize) {w : Nat} (hw : w = 33 * 67108864 + d.val * 2097152 + a.val * 65536 + b.val * 2048 + (sc.code * 256 + z.code * 64 + 6)) :
    w < 4294967296 ∧ decodeWord w = .ok (.amominu d a b sc z) := by
  have v6 := amoSizeOf_code z
  have v8 := scopeOf_code sc
  have b6 : z.code < 4 := AmoSize.code_lt z
  have b8 : sc.code < 5 := Scope.code_lt sc
  have b11 : b.val < 32 := b.isLt
  have b16 : a.val < 32 := a.isLt
  have b21 : d.val < 32 := d.isLt
  generalize z.code = c6 at hw b6 v6 v8
  generalize sc.code = c8 at hw b8 v6 v8
  obtain ⟨h26, h21, h16, h11, h0, hlt⟩ := dab (by decide) (Fin.isLt _) (Fin.isLt _) (Fin.isLt _) (by omega) hw
  have f8_3 : fld w 8 3 = c8 := (fld_low11 h0 (by decide)).trans (by unfold fld; omega)
  have f6_2 : fld w 6 2 = c6 := (fld_low11 h0 (by decide)).trans (by unfold fld; omega)
  have f4_2 : fld w 4 2 = 0 := (fld_low11 h0 (by decide)).trans (by unfold fld; omega)
  have f0_4 : fld w 0 4 = 6 := (fld_low11 h0 (by decide)).trans (by unfold fld; omega)
  have e11 : rg w 11 = b := rg_eq h11
  have e16 : rg w 16 = a := rg_eq h16
  have e21 : rg w 21 = d := rg_eq h21
  refine ⟨hlt, ?_⟩
  simp [decodeWord, decAmo, decAmoZ, need, fieldOr, h26, f8_3, f6_2, f4_2, f0_4, e11, e16, e21, v6, v8]

theorem amominu (d : Reg) (a : Reg) (b : Reg) (sc : Scope) (z : AmoSize) : Statement (.amominu d a b sc z) := fun _ _ =>
  word_amominu d a b sc z (by show put 6 z.code (put 8 sc.code (put 11 b.val (put 16 a.val (put 21 d.val 2214592518)))) = _; unfold put; omega)

theorem word_amomaxu (d : Reg) (a : Reg) (b : Reg) (sc : Scope) (z : AmoSize) {w : Nat} (hw : w = 33 * 67108864 + d.val * 2097152 + a.val * 65536 + b.val * 2048 + (sc.code * 256 + z.code * 64 + 7)) :
    w < 4294967296 ∧ decodeWord w = .ok (.amomaxu d a b sc z) := by
  have v6 := amoSizeOf_code z
  have v8 := scopeOf_code sc
  have b6 : z.code < 4 := AmoSize.code_lt z
  have b8 : sc.code < 5 := Scope.code_lt sc
  have b11 : b.val < 32 := b.isLt
  have b16 : a.val < 32 := a.isLt
  have b21 : d.val < 32 := d.isLt
  generalize z.code = c6 at hw b6 v6 v8
  generalize sc.code = c8 at hw b8 v6 v8
  obtain ⟨h26, h21, h16, h11, h0, hlt⟩ := dab (by decide) (Fin.isLt _) (Fin.isLt _) (Fin.isLt _) (by omega) hw
  have f8_3 : fld w 8 3 = c8 := (fld_low11 h0 (by decide)).trans (by unfold fld; omega)
  have f6_2 : fld w 6 2 = c6 := (fld_low11 h0 (by decide)).trans (by unfold fld; omega)
  have f4_2 : fld w 4 2 = 0 := (fld_low11 h0 (by decide)).trans (by unfold fld; omega)
  have f0_4 : fld w 0 4 = 7 := (fld_low11 h0 (by decide)).trans (by unfold fld; omega)
  have e11 : rg w 11 = b := rg_eq h11
  have e16 : rg w 16 = a := rg_eq h16
  have e21 : rg w 21 = d := rg_eq h21
  refine ⟨hlt, ?_⟩
  simp [decodeWord, decAmo, decAmoZ, need, fieldOr, h26, f8_3, f6_2, f4_2, f0_4, e11, e16, e21, v6, v8]

theorem amomaxu (d : Reg) (a : Reg) (b : Reg) (sc : Scope) (z : AmoSize) : Statement (.amomaxu d a b sc z) := fun _ _ =>
  word_amomaxu d a b sc z (by show put 6 z.code (put 8 sc.code (put 11 b.val (put 16 a.val (put 21 d.val 2214592519)))) = _; unfold put; omega)

theorem word_amoswap (d : Reg) (a : Reg) (b : Reg) (sc : Scope) (z : AmoSize) {w : Nat} (hw : w = 33 * 67108864 + d.val * 2097152 + a.val * 65536 + b.val * 2048 + (sc.code * 256 + z.code * 64 + 8)) :
    w < 4294967296 ∧ decodeWord w = .ok (.amoswap d a b sc z) := by
  have v6 := amoSizeOf_code z
  have v8 := scopeOf_code sc
  have b6 : z.code < 4 := AmoSize.code_lt z
  have b8 : sc.code < 5 := Scope.code_lt sc
  have b11 : b.val < 32 := b.isLt
  have b16 : a.val < 32 := a.isLt
  have b21 : d.val < 32 := d.isLt
  generalize z.code = c6 at hw b6 v6 v8
  generalize sc.code = c8 at hw b8 v6 v8
  obtain ⟨h26, h21, h16, h11, h0, hlt⟩ := dab (by decide) (Fin.isLt _) (Fin.isLt _) (Fin.isLt _) (by omega) hw
  have f8_3 : fld w 8 3 = c8 := (fld_low11 h0 (by decide)).trans (by unfold fld; omega)
  have f6_2 : fld w 6 2 = c6 := (fld_low11 h0 (by decide)).trans (by unfold fld; omega)
  have f4_2 : fld w 4 2 = 0 := (fld_low11 h0 (by decide)).trans (by unfold fld; omega)
  have f0_4 : fld w 0 4 = 8 := (fld_low11 h0 (by decide)).trans (by unfold fld; omega)
  have e11 : rg w 11 = b := rg_eq h11
  have e16 : rg w 16 = a := rg_eq h16
  have e21 : rg w 21 = d := rg_eq h21
  refine ⟨hlt, ?_⟩
  simp [decodeWord, decAmo, decAmoZ, need, fieldOr, h26, f8_3, f6_2, f4_2, f0_4, e11, e16, e21, v6, v8]

theorem amoswap (d : Reg) (a : Reg) (b : Reg) (sc : Scope) (z : AmoSize) : Statement (.amoswap d a b sc z) := fun _ _ =>
  word_amoswap d a b sc z (by show put 6 z.code (put 8 sc.code (put 11 b.val (put 16 a.val (put 21 d.val 2214592520)))) = _; unfold put; omega)

theorem word_amocas (d : Reg) (a : Reg) (b : Reg) (sc : Scope) (z : AmoSize) {w : Nat} (hw : w = 33 * 67108864 + d.val * 2097152 + a.val * 65536 + b.val * 2048 + (sc.code * 256 + z.code * 64 + 9)) :
    w < 4294967296 ∧ decodeWord w = .ok (.amocas d a b sc z) := by
  have v6 := amoSizeOf_code z
  have v8 := scopeOf_code sc
  have b6 : z.code < 4 := AmoSize.code_lt z
  have b8 : sc.code < 5 := Scope.code_lt sc
  have b11 : b.val < 32 := b.isLt
  have b16 : a.val < 32 := a.isLt
  have b21 : d.val < 32 := d.isLt
  generalize z.code = c6 at hw b6 v6 v8
  generalize sc.code = c8 at hw b8 v6 v8
  obtain ⟨h26, h21, h16, h11, h0, hlt⟩ := dab (by decide) (Fin.isLt _) (Fin.isLt _) (Fin.isLt _) (by omega) hw
  have f8_3 : fld w 8 3 = c8 := (fld_low11 h0 (by decide)).trans (by unfold fld; omega)
  have f6_2 : fld w 6 2 = c6 := (fld_low11 h0 (by decide)).trans (by unfold fld; omega)
  have f4_2 : fld w 4 2 = 0 := (fld_low11 h0 (by decide)).trans (by unfold fld; omega)
  have f0_4 : fld w 0 4 = 9 := (fld_low11 h0 (by decide)).trans (by unfold fld; omega)
  have e11 : rg w 11 = b := rg_eq h11
  have e16 : rg w 16 = a := rg_eq h16
  have e21 : rg w 21 = d := rg_eq h21
  refine ⟨hlt, ?_⟩
  simp [decodeWord, decAmo, decAmoZ, need, fieldOr, h26, f8_3, f6_2, f4_2, f0_4, e11, e16, e21, v6, v8]

theorem amocas (d : Reg) (a : Reg) (b : Reg) (sc : Scope) (z : AmoSize) : Statement (.amocas d a b sc z) := fun _ _ =>
  word_amocas d a b sc z (by show put 6 z.code (put 8 sc.code (put 11 b.val (put 16 a.val (put 21 d.val 2214592521)))) = _; unfold put; omega)

theorem word_amofadd (d : Reg) (a : Reg) (b : Reg) (sc : Scope) {w : Nat} (hw : w = 33 * 67108864 + d.val * 2097152 + a.val * 65536 + b.val * 2048 + (sc.code * 256 + 138)) :
    w < 4294967296 ∧ decodeWord w = .ok (.amofadd d a b sc) := by
  have v8 := scopeOf_code sc
  have b8 : sc.code < 5 := Scope.code_lt sc
  have b11 : b.val < 32 := b.isLt
  have b16 : a.val < 32 := a.isLt
  have b21 : d.val < 32 := d.isLt
  generalize sc.code = c8 at hw b8 v8
  obtain ⟨h26, h21, h16, h11, h0, hlt⟩ := dab (by decide) (Fin.isLt _) (Fin.isLt _) (Fin.isLt _) (by omega) hw
  have f8_3 : fld w 8 3 = c8 := (fld_low11 h0 (by decide)).trans (by unfold fld; omega)
  have f6_2 : fld w 6 2 = 2 := (fld_low11 h0 (by decide)).trans (by unfold fld; omega)
  have f4_2 : fld w 4 2 = 0 := (fld_low11 h0 (by decide)).trans (by unfold fld; omega)
  have f0_4 : fld w 0 4 = 10 := (fld_low11 h0 (by decide)).trans (by unfold fld; omega)
  have e11 : rg w 11 = b := rg_eq h11
  have e16 : rg w 16 = a := rg_eq h16
  have e21 : rg w 21 = d := rg_eq h21
  refine ⟨hlt, ?_⟩
  simp [decodeWord, decAmo, need, fieldOr, h26, f8_3, f6_2, f4_2, f0_4, e11, e16, e21, v8]

theorem amofadd (d : Reg) (a : Reg) (b : Reg) (sc : Scope) : Statement (.amofadd d a b sc) := fun _ _ =>
  word_amofadd d a b sc (by show put 8 sc.code (put 11 b.val (put 16 a.val (put 21 d.val 2214592650))) = _; unfold put; omega)

theorem word_redadd (a : Reg) (b : Reg) (sc : Scope) (z : AmoSize) {w : Nat} (hw : w = 34 * 67108864 + 0 * 2097152 + a.val * 65536 + b.val * 2048 + (sc.code * 256 + z.code * 64)) :
    w < 4294967296 ∧ decodeWord w = .ok (.redadd a b sc z) := by
  have v6 := amoSizeOf_code z
  have v8 := scopeOf_code sc
  have b6 : z.code < 4 := AmoSize.code_lt z
  have b8 : sc.code < 5 := Scope.code_lt sc
  have b11 : b.val < 32 := b.isLt
  have b16 : a.val < 32 := a.isLt
  generalize z.code = c6 at hw b6 v6 v8
  generalize sc.code = c8 at hw b8 v6 v8
  obtain ⟨h26, h21, h16, h11, h0, hlt⟩ := dab (by decide) (by decide) (Fin.isLt _) (Fin.isLt _) (by omega) hw
  have f21_5 : fld w 21 5 = 0 := h21
  have f8_3 : fld w 8 3 = c8 := (fld_low11 h0 (by decide)).trans (by unfold fld; omega)
  have f6_2 : fld w 6 2 = c6 := (fld_low11 h0 (by decide)).trans (by unfold fld; omega)
  have f4_2 : fld w 4 2 = 0 := (fld_low11 h0 (by decide)).trans (by unfold fld; omega)
  have f0_4 : fld w 0 4 = 0 := (fld_low11 h0 (by decide)).trans (by unfold fld; omega)
  have e11 : rg w 11 = b := rg_eq h11
  have e16 : rg w 16 = a := rg_eq h16
  refine ⟨hlt, ?_⟩
  simp [decodeWord, decRed, decRedZ, need, fieldOr, h26, f21_5, f8_3, f6_2, f4_2, f0_4, e11, e16, v6, v8]

theorem redadd (a : Reg) (b : Reg) (sc : Scope) (z : AmoSize) : Statement (.redadd a b sc z) := fun _ _ =>
  word_redadd a b sc z (by show put 6 z.code (put 8 sc.code (put 11 b.val (put 16 a.val 2281701376))) = _; unfold put; omega)

theorem word_redand (a : Reg) (b : Reg) (sc : Scope) (z : AmoSize) {w : Nat} (hw : w = 34 * 67108864 + 0 * 2097152 + a.val * 65536 + b.val * 2048 + (sc.code * 256 + z.code * 64 + 1)) :
    w < 4294967296 ∧ decodeWord w = .ok (.redand a b sc z) := by
  have v6 := amoSizeOf_code z
  have v8 := scopeOf_code sc
  have b6 : z.code < 4 := AmoSize.code_lt z
  have b8 : sc.code < 5 := Scope.code_lt sc
  have b11 : b.val < 32 := b.isLt
  have b16 : a.val < 32 := a.isLt
  generalize z.code = c6 at hw b6 v6 v8
  generalize sc.code = c8 at hw b8 v6 v8
  obtain ⟨h26, h21, h16, h11, h0, hlt⟩ := dab (by decide) (by decide) (Fin.isLt _) (Fin.isLt _) (by omega) hw
  have f21_5 : fld w 21 5 = 0 := h21
  have f8_3 : fld w 8 3 = c8 := (fld_low11 h0 (by decide)).trans (by unfold fld; omega)
  have f6_2 : fld w 6 2 = c6 := (fld_low11 h0 (by decide)).trans (by unfold fld; omega)
  have f4_2 : fld w 4 2 = 0 := (fld_low11 h0 (by decide)).trans (by unfold fld; omega)
  have f0_4 : fld w 0 4 = 1 := (fld_low11 h0 (by decide)).trans (by unfold fld; omega)
  have e11 : rg w 11 = b := rg_eq h11
  have e16 : rg w 16 = a := rg_eq h16
  refine ⟨hlt, ?_⟩
  simp [decodeWord, decRed, decRedZ, need, fieldOr, h26, f21_5, f8_3, f6_2, f4_2, f0_4, e11, e16, v6, v8]

theorem redand (a : Reg) (b : Reg) (sc : Scope) (z : AmoSize) : Statement (.redand a b sc z) := fun _ _ =>
  word_redand a b sc z (by show put 6 z.code (put 8 sc.code (put 11 b.val (put 16 a.val 2281701377))) = _; unfold put; omega)

theorem word_redor (a : Reg) (b : Reg) (sc : Scope) (z : AmoSize) {w : Nat} (hw : w = 34 * 67108864 + 0 * 2097152 + a.val * 65536 + b.val * 2048 + (sc.code * 256 + z.code * 64 + 2)) :
    w < 4294967296 ∧ decodeWord w = .ok (.redor a b sc z) := by
  have v6 := amoSizeOf_code z
  have v8 := scopeOf_code sc
  have b6 : z.code < 4 := AmoSize.code_lt z
  have b8 : sc.code < 5 := Scope.code_lt sc
  have b11 : b.val < 32 := b.isLt
  have b16 : a.val < 32 := a.isLt
  generalize z.code = c6 at hw b6 v6 v8
  generalize sc.code = c8 at hw b8 v6 v8
  obtain ⟨h26, h21, h16, h11, h0, hlt⟩ := dab (by decide) (by decide) (Fin.isLt _) (Fin.isLt _) (by omega) hw
  have f21_5 : fld w 21 5 = 0 := h21
  have f8_3 : fld w 8 3 = c8 := (fld_low11 h0 (by decide)).trans (by unfold fld; omega)
  have f6_2 : fld w 6 2 = c6 := (fld_low11 h0 (by decide)).trans (by unfold fld; omega)
  have f4_2 : fld w 4 2 = 0 := (fld_low11 h0 (by decide)).trans (by unfold fld; omega)
  have f0_4 : fld w 0 4 = 2 := (fld_low11 h0 (by decide)).trans (by unfold fld; omega)
  have e11 : rg w 11 = b := rg_eq h11
  have e16 : rg w 16 = a := rg_eq h16
  refine ⟨hlt, ?_⟩
  simp [decodeWord, decRed, decRedZ, need, fieldOr, h26, f21_5, f8_3, f6_2, f4_2, f0_4, e11, e16, v6, v8]

theorem redor (a : Reg) (b : Reg) (sc : Scope) (z : AmoSize) : Statement (.redor a b sc z) := fun _ _ =>
  word_redor a b sc z (by show put 6 z.code (put 8 sc.code (put 11 b.val (put 16 a.val 2281701378))) = _; unfold put; omega)

theorem word_redxor (a : Reg) (b : Reg) (sc : Scope) (z : AmoSize) {w : Nat} (hw : w = 34 * 67108864 + 0 * 2097152 + a.val * 65536 + b.val * 2048 + (sc.code * 256 + z.code * 64 + 3)) :
    w < 4294967296 ∧ decodeWord w = .ok (.redxor a b sc z) := by
  have v6 := amoSizeOf_code z
  have v8 := scopeOf_code sc
  have b6 : z.code < 4 := AmoSize.code_lt z
  have b8 : sc.code < 5 := Scope.code_lt sc
  have b11 : b.val < 32 := b.isLt
  have b16 : a.val < 32 := a.isLt
  generalize z.code = c6 at hw b6 v6 v8
  generalize sc.code = c8 at hw b8 v6 v8
  obtain ⟨h26, h21, h16, h11, h0, hlt⟩ := dab (by decide) (by decide) (Fin.isLt _) (Fin.isLt _) (by omega) hw
  have f21_5 : fld w 21 5 = 0 := h21
  have f8_3 : fld w 8 3 = c8 := (fld_low11 h0 (by decide)).trans (by unfold fld; omega)
  have f6_2 : fld w 6 2 = c6 := (fld_low11 h0 (by decide)).trans (by unfold fld; omega)
  have f4_2 : fld w 4 2 = 0 := (fld_low11 h0 (by decide)).trans (by unfold fld; omega)
  have f0_4 : fld w 0 4 = 3 := (fld_low11 h0 (by decide)).trans (by unfold fld; omega)
  have e11 : rg w 11 = b := rg_eq h11
  have e16 : rg w 16 = a := rg_eq h16
  refine ⟨hlt, ?_⟩
  simp [decodeWord, decRed, decRedZ, need, fieldOr, h26, f21_5, f8_3, f6_2, f4_2, f0_4, e11, e16, v6, v8]

theorem redxor (a : Reg) (b : Reg) (sc : Scope) (z : AmoSize) : Statement (.redxor a b sc z) := fun _ _ =>
  word_redxor a b sc z (by show put 6 z.code (put 8 sc.code (put 11 b.val (put 16 a.val 2281701379))) = _; unfold put; omega)

theorem word_redmin (a : Reg) (b : Reg) (sc : Scope) (z : AmoSize) {w : Nat} (hw : w = 34 * 67108864 + 0 * 2097152 + a.val * 65536 + b.val * 2048 + (sc.code * 256 + z.code * 64 + 4)) :
    w < 4294967296 ∧ decodeWord w = .ok (.redmin a b sc z) := by
  have v6 := amoSizeOf_code z
  have v8 := scopeOf_code sc
  have b6 : z.code < 4 := AmoSize.code_lt z
  have b8 : sc.code < 5 := Scope.code_lt sc
  have b11 : b.val < 32 := b.isLt
  have b16 : a.val < 32 := a.isLt
  generalize z.code = c6 at hw b6 v6 v8
  generalize sc.code = c8 at hw b8 v6 v8
  obtain ⟨h26, h21, h16, h11, h0, hlt⟩ := dab (by decide) (by decide) (Fin.isLt _) (Fin.isLt _) (by omega) hw
  have f21_5 : fld w 21 5 = 0 := h21
  have f8_3 : fld w 8 3 = c8 := (fld_low11 h0 (by decide)).trans (by unfold fld; omega)
  have f6_2 : fld w 6 2 = c6 := (fld_low11 h0 (by decide)).trans (by unfold fld; omega)
  have f4_2 : fld w 4 2 = 0 := (fld_low11 h0 (by decide)).trans (by unfold fld; omega)
  have f0_4 : fld w 0 4 = 4 := (fld_low11 h0 (by decide)).trans (by unfold fld; omega)
  have e11 : rg w 11 = b := rg_eq h11
  have e16 : rg w 16 = a := rg_eq h16
  refine ⟨hlt, ?_⟩
  simp [decodeWord, decRed, decRedZ, need, fieldOr, h26, f21_5, f8_3, f6_2, f4_2, f0_4, e11, e16, v6, v8]

theorem redmin (a : Reg) (b : Reg) (sc : Scope) (z : AmoSize) : Statement (.redmin a b sc z) := fun _ _ =>
  word_redmin a b sc z (by show put 6 z.code (put 8 sc.code (put 11 b.val (put 16 a.val 2281701380))) = _; unfold put; omega)

theorem word_redmax (a : Reg) (b : Reg) (sc : Scope) (z : AmoSize) {w : Nat} (hw : w = 34 * 67108864 + 0 * 2097152 + a.val * 65536 + b.val * 2048 + (sc.code * 256 + z.code * 64 + 5)) :
    w < 4294967296 ∧ decodeWord w = .ok (.redmax a b sc z) := by
  have v6 := amoSizeOf_code z
  have v8 := scopeOf_code sc
  have b6 : z.code < 4 := AmoSize.code_lt z
  have b8 : sc.code < 5 := Scope.code_lt sc
  have b11 : b.val < 32 := b.isLt
  have b16 : a.val < 32 := a.isLt
  generalize z.code = c6 at hw b6 v6 v8
  generalize sc.code = c8 at hw b8 v6 v8
  obtain ⟨h26, h21, h16, h11, h0, hlt⟩ := dab (by decide) (by decide) (Fin.isLt _) (Fin.isLt _) (by omega) hw
  have f21_5 : fld w 21 5 = 0 := h21
  have f8_3 : fld w 8 3 = c8 := (fld_low11 h0 (by decide)).trans (by unfold fld; omega)
  have f6_2 : fld w 6 2 = c6 := (fld_low11 h0 (by decide)).trans (by unfold fld; omega)
  have f4_2 : fld w 4 2 = 0 := (fld_low11 h0 (by decide)).trans (by unfold fld; omega)
  have f0_4 : fld w 0 4 = 5 := (fld_low11 h0 (by decide)).trans (by unfold fld; omega)
  have e11 : rg w 11 = b := rg_eq h11
  have e16 : rg w 16 = a := rg_eq h16
  refine ⟨hlt, ?_⟩
  simp [decodeWord, decRed, decRedZ, need, fieldOr, h26, f21_5, f8_3, f6_2, f4_2, f0_4, e11, e16, v6, v8]

theorem redmax (a : Reg) (b : Reg) (sc : Scope) (z : AmoSize) : Statement (.redmax a b sc z) := fun _ _ =>
  word_redmax a b sc z (by show put 6 z.code (put 8 sc.code (put 11 b.val (put 16 a.val 2281701381))) = _; unfold put; omega)

theorem word_redminu (a : Reg) (b : Reg) (sc : Scope) (z : AmoSize) {w : Nat} (hw : w = 34 * 67108864 + 0 * 2097152 + a.val * 65536 + b.val * 2048 + (sc.code * 256 + z.code * 64 + 6)) :
    w < 4294967296 ∧ decodeWord w = .ok (.redminu a b sc z) := by
  have v6 := amoSizeOf_code z
  have v8 := scopeOf_code sc
  have b6 : z.code < 4 := AmoSize.code_lt z
  have b8 : sc.code < 5 := Scope.code_lt sc
  have b11 : b.val < 32 := b.isLt
  have b16 : a.val < 32 := a.isLt
  generalize z.code = c6 at hw b6 v6 v8
  generalize sc.code = c8 at hw b8 v6 v8
  obtain ⟨h26, h21, h16, h11, h0, hlt⟩ := dab (by decide) (by decide) (Fin.isLt _) (Fin.isLt _) (by omega) hw
  have f21_5 : fld w 21 5 = 0 := h21
  have f8_3 : fld w 8 3 = c8 := (fld_low11 h0 (by decide)).trans (by unfold fld; omega)
  have f6_2 : fld w 6 2 = c6 := (fld_low11 h0 (by decide)).trans (by unfold fld; omega)
  have f4_2 : fld w 4 2 = 0 := (fld_low11 h0 (by decide)).trans (by unfold fld; omega)
  have f0_4 : fld w 0 4 = 6 := (fld_low11 h0 (by decide)).trans (by unfold fld; omega)
  have e11 : rg w 11 = b := rg_eq h11
  have e16 : rg w 16 = a := rg_eq h16
  refine ⟨hlt, ?_⟩
  simp [decodeWord, decRed, decRedZ, need, fieldOr, h26, f21_5, f8_3, f6_2, f4_2, f0_4, e11, e16, v6, v8]

theorem redminu (a : Reg) (b : Reg) (sc : Scope) (z : AmoSize) : Statement (.redminu a b sc z) := fun _ _ =>
  word_redminu a b sc z (by show put 6 z.code (put 8 sc.code (put 11 b.val (put 16 a.val 2281701382))) = _; unfold put; omega)

theorem word_redmaxu (a : Reg) (b : Reg) (sc : Scope) (z : AmoSize) {w : Nat} (hw : w = 34 * 67108864 + 0 * 2097152 + a.val * 65536 + b.val * 2048 + (sc.code * 256 + z.code * 64 + 7)) :
    w < 4294967296 ∧ decodeWord w = .ok (.redmaxu a b sc z) := by
  have v6 := amoSizeOf_code z
  have v8 := scopeOf_code sc
  have b6 : z.code < 4 := AmoSize.code_lt z
  have b8 : sc.code < 5 := Scope.code_lt sc
  have b11 : b.val < 32 := b.isLt
  have b16 : a.val < 32 := a.isLt
  generalize z.code = c6 at hw b6 v6 v8
  generalize sc.code = c8 at hw b8 v6 v8
  obtain ⟨h26, h21, h16, h11, h0, hlt⟩ := dab (by decide) (by decide) (Fin.isLt _) (Fin.isLt _) (by omega) hw
  have f21_5 : fld w 21 5 = 0 := h21
  have f8_3 : fld w 8 3 = c8 := (fld_low11 h0 (by decide)).trans (by unfold fld; omega)
  have f6_2 : fld w 6 2 = c6 := (fld_low11 h0 (by decide)).trans (by unfold fld; omega)
  have f4_2 : fld w 4 2 = 0 := (fld_low11 h0 (by decide)).trans (by unfold fld; omega)
  have f0_4 : fld w 0 4 = 7 := (fld_low11 h0 (by decide)).trans (by unfold fld; omega)
  have e11 : rg w 11 = b := rg_eq h11
  have e16 : rg w 16 = a := rg_eq h16
  refine ⟨hlt, ?_⟩
  simp [decodeWord, decRed, decRedZ, need, fieldOr, h26, f21_5, f8_3, f6_2, f4_2, f0_4, e11, e16, v6, v8]

theorem redmaxu (a : Reg) (b : Reg) (sc : Scope) (z : AmoSize) : Statement (.redmaxu a b sc z) := fun _ _ =>
  word_redmaxu a b sc z (by show put 6 z.code (put 8 sc.code (put 11 b.val (put 16 a.val 2281701383))) = _; unfold put; omega)

theorem word_redfadd (a : Reg) (b : Reg) (sc : Scope) {w : Nat} (hw : w = 34 * 67108864 + 0 * 2097152 + a.val * 65536 + b.val * 2048 + (sc.code * 256 + 138)) :
    w < 4294967296 ∧ decodeWord w = .ok (.redfadd a b sc) := by
  have v8 := scopeOf_code sc
  have b8 : sc.code < 5 := Scope.code_lt sc
  have b11 : b.val < 32 := b.isLt
  have b16 : a.val < 32 := a.isLt
  generalize sc.code = c8 at hw b8 v8
  obtain ⟨h26, h21, h16, h11, h0, hlt⟩ := dab (by decide) (by decide) (Fin.isLt _) (Fin.isLt _) (by omega) hw
  have f21_5 : fld w 21 5 = 0 := h21
  have f8_3 : fld w 8 3 = c8 := (fld_low11 h0 (by decide)).trans (by unfold fld; omega)
  have f6_2 : fld w 6 2 = 2 := (fld_low11 h0 (by decide)).trans (by unfold fld; omega)
  have f4_2 : fld w 4 2 = 0 := (fld_low11 h0 (by decide)).trans (by unfold fld; omega)
  have f0_4 : fld w 0 4 = 10 := (fld_low11 h0 (by decide)).trans (by unfold fld; omega)
  have e11 : rg w 11 = b := rg_eq h11
  have e16 : rg w 16 = a := rg_eq h16
  refine ⟨hlt, ?_⟩
  simp [decodeWord, decRed, need, fieldOr, h26, f21_5, f8_3, f6_2, f4_2, f0_4, e11, e16, v8]

theorem redfadd (a : Reg) (b : Reg) (sc : Scope) : Statement (.redfadd a b sc) := fun _ _ =>
  word_redfadd a b sc (by show put 8 sc.code (put 11 b.val (put 16 a.val 2281701514)) = _; unfold put; omega)

theorem word_lease (a : Reg) (b : Reg) {w : Nat} (hw : w = 35 * 67108864 + 0 * 2097152 + a.val * 65536 + b.val * 2048 + (1)) :
    w < 4294967296 ∧ decodeWord w = .ok (.lease a b) := by
  have b11 : b.val < 32 := b.isLt
  have b16 : a.val < 32 := a.isLt
  obtain ⟨h26, h21, h16, h11, h0, hlt⟩ := dab (by decide) (by decide) (Fin.isLt _) (Fin.isLt _) (by decide) hw
  have f21_5 : fld w 21 5 = 0 := h21
  have f4_7 : fld w 4 7 = 0 := (fld_low11 h0 (by decide)).trans (by decide)
  have f0_4 : fld w 0 4 = 1 := (fld_low11 h0 (by decide)).trans (by decide)
  have e11 : rg w 11 = b := rg_eq h11
  have e16 : rg w 16 = a := rg_eq h16
  refine ⟨hlt, ?_⟩
  simp [decodeWord, decEv, need, h26, f21_5, f4_7, f0_4, e11, e16]

theorem lease (a : Reg) (b : Reg) : Statement (.lease a b) := fun _ _ =>
  word_lease a b (by show put 11 b.val (put 16 a.val 2348810241) = _; unfold put; omega)

theorem word_evsig (a : Reg) {w : Nat} (hw : w = 35 * 67108864 + 0 * 2097152 + a.val * 65536 + 0 * 2048 + (2)) :
    w < 4294967296 ∧ decodeWord w = .ok (.evsig a) := by
  have b16 : a.val < 32 := a.isLt
  obtain ⟨h26, h21, h16, h11, h0, hlt⟩ := dab (by decide) (by decide) (Fin.isLt _) (by decide) (by decide) hw
  have f21_5 : fld w 21 5 = 0 := h21
  have f4_12 : fld w 4 12 = 0 := by unfold fld; omega
  have f0_4 : fld w 0 4 = 2 := (fld_low11 h0 (by decide)).trans (by decide)
  have e16 : rg w 16 = a := rg_eq h16
  refine ⟨hlt, ?_⟩
  simp [decodeWord, decEv, need, h26, f21_5, f4_12, f0_4, e16]

theorem evsig (a : Reg) : Statement (.evsig a) := fun _ _ =>
  word_evsig a (by show put 16 a.val 2348810242 = _; unfold put; omega)

theorem word_evcfg (a : Reg) (b : Reg) {w : Nat} (hw : w = 35 * 67108864 + 0 * 2097152 + a.val * 65536 + b.val * 2048 + (3)) :
    w < 4294967296 ∧ decodeWord w = .ok (.evcfg a b) := by
  have b11 : b.val < 32 := b.isLt
  have b16 : a.val < 32 := a.isLt
  obtain ⟨h26, h21, h16, h11, h0, hlt⟩ := dab (by decide) (by decide) (Fin.isLt _) (Fin.isLt _) (by decide) hw
  have f21_5 : fld w 21 5 = 0 := h21
  have f4_7 : fld w 4 7 = 0 := (fld_low11 h0 (by decide)).trans (by decide)
  have f0_4 : fld w 0 4 = 3 := (fld_low11 h0 (by decide)).trans (by decide)
  have e11 : rg w 11 = b := rg_eq h11
  have e16 : rg w 16 = a := rg_eq h16
  refine ⟨hlt, ?_⟩
  simp [decodeWord, decEv, need, h26, f21_5, f4_7, f0_4, e11, e16]

theorem evcfg (a : Reg) (b : Reg) : Statement (.evcfg a b) := fun _ _ =>
  word_evcfg a b (by show put 11 b.val (put 16 a.val 2348810243) = _; unfold put; omega)

theorem word_town (a : Reg) {w : Nat} (hw : w = 36 * 67108864 + 0 * 2097152 + a.val * 65536 + 0 * 2048 + (1)) :
    w < 4294967296 ∧ decodeWord w = .ok (.town a) := by
  have b16 : a.val < 32 := a.isLt
  obtain ⟨h26, h21, h16, h11, h0, hlt⟩ := dab (by decide) (by decide) (Fin.isLt _) (by decide) (by decide) hw
  have f21_5 : fld w 21 5 = 0 := h21
  have f6_10 : fld w 6 10 = 0 := by unfold fld; omega
  have f0_6 : fld w 0 6 = 1 := (fld_low11 h0 (by decide)).trans (by decide)
  have e16 : rg w 16 = a := rg_eq h16
  refine ⟨hlt, ?_⟩
  simp [decodeWord, decStr, need, h26, f21_5, f6_10, f0_6, e16]

theorem town (a : Reg) : Statement (.town a) := fun _ _ =>
  word_town a (by show put 16 a.val 2415919105 = _; unfold put; omega)

theorem word_stt (v : Reg) (a : Reg) (t : Reg) {w : Nat} (hw : w = 36 * 67108864 + v.val * 2097152 + a.val * 65536 + t.val * 2048 + (2)) :
    w < 4294967296 ∧ decodeWord w = .ok (.stt v a t) := by
  have b11 : t.val < 32 := t.isLt
  have b16 : a.val < 32 := a.isLt
  have b21 : v.val < 32 := v.isLt
  obtain ⟨h26, h21, h16, h11, h0, hlt⟩ := dab (by decide) (Fin.isLt _) (Fin.isLt _) (Fin.isLt _) (by decide) hw
  have f6_5 : fld w 6 5 = 0 := (fld_low11 h0 (by decide)).trans (by decide)
  have f0_6 : fld w 0 6 = 2 := (fld_low11 h0 (by decide)).trans (by decide)
  have e11 : rg w 11 = t := rg_eq h11
  have e16 : rg w 16 = a := rg_eq h16
  have e21 : rg w 21 = v := rg_eq h21
  refine ⟨hlt, ?_⟩
  simp [decodeWord, decStr, need, h26, f6_5, f0_6, e11, e16, e21]

theorem stt (v : Reg) (a : Reg) (t : Reg) : Statement (.stt v a t) := fun _ _ =>
  word_stt v a t (by show put 11 t.val (put 16 a.val (put 21 v.val 2415919106)) = _; unfold put; omega)

theorem word_ldt (v : Reg) (a : Reg) (t : Reg) (st : Reg) {w : Nat} (hw : w = 36 * 67108864 + v.val * 2097152 + a.val * 65536 + t.val * 2048 + (st.val * 64 + 3)) :
    w < 4294967296 ∧ decodeWord w = .ok (.ldt v a t st) := by
  have b6 : st.val < 32 := st.isLt
  have b11 : t.val < 32 := t.isLt
  have b16 : a.val < 32 := a.isLt
  have b21 : v.val < 32 := v.isLt
  obtain ⟨h26, h21, h16, h11, h0, hlt⟩ := dab (by decide) (Fin.isLt _) (Fin.isLt _) (Fin.isLt _) (by omega) hw
  have f0_6 : fld w 0 6 = 3 := (fld_low11 h0 (by decide)).trans (by unfold fld; omega)
  have e6 : rg w 6 = st := rg_eq ((fld_low11 (k := 5) h0 (by decide)).trans (by unfold fld; omega))
  have e11 : rg w 11 = t := rg_eq h11
  have e16 : rg w 16 = a := rg_eq h16
  have e21 : rg w 21 = v := rg_eq h21
  refine ⟨hlt, ?_⟩
  simp [decodeWord, decStr, h26, f0_6, e6, e11, e16, e21]

theorem ldt (v : Reg) (a : Reg) (t : Reg) (st : Reg) : Statement (.ldt v a t st) := fun _ _ =>
  word_ldt v a t st (by show put 6 st.val (put 11 t.val (put 16 a.val (put 21 v.val 2415919107))) = _; unfold put; omega)

theorem word_ldtn (v : Reg) (a : Reg) (t : Reg) (st : Reg) {w : Nat} (hw : w = 36 * 67108864 + v.val * 2097152 + a.val * 65536 + t.val * 2048 + (st.val * 64 + 4)) :
    w < 4294967296 ∧ decodeWord w = .ok (.ldtn v a t st) := by
  have b6 : st.val < 32 := st.isLt
  have b11 : t.val < 32 := t.isLt
  have b16 : a.val < 32 := a.isLt
  have b21 : v.val < 32 := v.isLt
  obtain ⟨h26, h21, h16, h11, h0, hlt⟩ := dab (by decide) (Fin.isLt _) (Fin.isLt _) (Fin.isLt _) (by omega) hw
  have f0_6 : fld w 0 6 = 4 := (fld_low11 h0 (by decide)).trans (by unfold fld; omega)
  have e6 : rg w 6 = st := rg_eq ((fld_low11 (k := 5) h0 (by decide)).trans (by unfold fld; omega))
  have e11 : rg w 11 = t := rg_eq h11
  have e16 : rg w 16 = a := rg_eq h16
  have e21 : rg w 21 = v := rg_eq h21
  refine ⟨hlt, ?_⟩
  simp [decodeWord, decStr, h26, f0_6, e6, e11, e16, e21]

theorem ldtn (v : Reg) (a : Reg) (t : Reg) (st : Reg) : Statement (.ldtn v a t st) := fun _ _ =>
  word_ldtn v a t st (by show put 6 st.val (put 11 t.val (put 16 a.val (put 21 v.val 2415919108))) = _; unfold put; omega)

theorem word_tclose (a : Reg) {w : Nat} (hw : w = 36 * 67108864 + 0 * 2097152 + a.val * 65536 + 0 * 2048 + (5)) :
    w < 4294967296 ∧ decodeWord w = .ok (.tclose a) := by
  have b16 : a.val < 32 := a.isLt
  obtain ⟨h26, h21, h16, h11, h0, hlt⟩ := dab (by decide) (by decide) (Fin.isLt _) (by decide) (by decide) hw
  have f21_5 : fld w 21 5 = 0 := h21
  have f6_10 : fld w 6 10 = 0 := by unfold fld; omega
  have f0_6 : fld w 0 6 = 5 := (fld_low11 h0 (by decide)).trans (by decide)
  have e16 : rg w 16 = a := rg_eq h16
  refine ⟨hlt, ?_⟩
  simp [decodeWord, decStr, need, h26, f21_5, f6_10, f0_6, e16]

theorem tclose (a : Reg) : Statement (.tclose a) := fun _ _ =>
  word_tclose a (by show put 16 a.val 2415919109 = _; unfold put; omega)

theorem word_waitc (n : R16) (b : Reg) {w : Nat} (hw : w = 37 * 67108864 + 0 * 2097152 + n.val * 65536 + b.val * 2048 + (1)) :
    w < 4294967296 ∧ decodeWord w = .ok (.waitc n b) := by
  have b11 : b.val < 32 := b.isLt
  have b16 : n.val < 16 := n.isLt
  obtain ⟨h26, h21, h16, h11, h0, hlt⟩ := dab (by decide) (by decide) (by omega) (Fin.isLt _) (by decide) hw
  have f20_6 : fld w 20 6 = 0 := by unfold fld; omega
  have f4_7 : fld w 4 7 = 0 := (fld_low11 h0 (by decide)).trans (by decide)
  have f0_4 : fld w 0 4 = 1 := (fld_low11 h0 (by decide)).trans (by decide)
  have e11 : rg w 11 = b := rg_eq h11
  have e16 : r16 w 16 = n := r16_eq (by omega)
  refine ⟨hlt, ?_⟩
  simp [decodeWord, decCnt, need, h26, f20_6, f4_7, f0_4, e11, e16]

theorem waitc (n : R16) (b : Reg) : Statement (.waitc n b) := fun _ _ =>
  word_waitc n b (by show put 11 b.val (put 16 n.val 2483027969) = _; unfold put; omega)

theorem word_cget (d : Reg) (n : R16) {w : Nat} (hw : w = 37 * 67108864 + d.val * 2097152 + n.val * 65536 + 0 * 2048 + (2)) :
    w < 4294967296 ∧ decodeWord w = .ok (.cget d n) := by
  have b16 : n.val < 16 := n.isLt
  have b21 : d.val < 32 := d.isLt
  obtain ⟨h26, h21, h16, h11, h0, hlt⟩ := dab (by decide) (Fin.isLt _) (by omega) (by decide) (by decide) hw
  have f20_1 : fld w 20 1 = 0 := by unfold fld; omega
  have f4_12 : fld w 4 12 = 0 := by unfold fld; omega
  have f0_4 : fld w 0 4 = 2 := (fld_low11 h0 (by decide)).trans (by decide)
  have e16 : r16 w 16 = n := r16_eq (by omega)
  have e21 : rg w 21 = d := rg_eq h21
  refine ⟨hlt, ?_⟩
  simp [decodeWord, decCnt, need, h26, f20_1, f4_12, f0_4, e16, e21]

theorem cget (d : Reg) (n : R16) : Statement (.cget d n) := fun _ _ =>
  word_cget d n (by show put 16 n.val (put 21 d.val 2483027970) = _; unfold put; omega)

theorem word_cset (n : R16) (b : Reg) {w : Nat} (hw : w = 37 * 67108864 + 0 * 2097152 + n.val * 65536 + b.val * 2048 + (3)) :
    w < 4294967296 ∧ decodeWord w = .ok (.cset n b) := by
  have b11 : b.val < 32 := b.isLt
  have b16 : n.val < 16 := n.isLt
  obtain ⟨h26, h21, h16, h11, h0, hlt⟩ := dab (by decide) (by decide) (by omega) (Fin.isLt _) (by decide) hw
  have f20_6 : fld w 20 6 = 0 := by unfold fld; omega
  have f4_7 : fld w 4 7 = 0 := (fld_low11 h0 (by decide)).trans (by decide)
  have f0_4 : fld w 0 4 = 3 := (fld_low11 h0 (by decide)).trans (by decide)
  have e11 : rg w 11 = b := rg_eq h11
  have e16 : r16 w 16 = n := r16_eq (by omega)
  refine ⟨hlt, ?_⟩
  simp [decodeWord, decCnt, need, h26, f20_6, f4_7, f0_4, e11, e16]

theorem cset (n : R16) (b : Reg) : Statement (.cset n b) := fun _ _ =>
  word_cset n b (by show put 11 b.val (put 16 n.val 2483027971) = _; unfold put; omega)

theorem word_cadd (n : R16) (b : Reg) {w : Nat} (hw : w = 37 * 67108864 + 0 * 2097152 + n.val * 65536 + b.val * 2048 + (4)) :
    w < 4294967296 ∧ decodeWord w = .ok (.cadd n b) := by
  have b11 : b.val < 32 := b.isLt
  have b16 : n.val < 16 := n.isLt
  obtain ⟨h26, h21, h16, h11, h0, hlt⟩ := dab (by decide) (by decide) (by omega) (Fin.isLt _) (by decide) hw
  have f20_6 : fld w 20 6 = 0 := by unfold fld; omega
  have f4_7 : fld w 4 7 = 0 := (fld_low11 h0 (by decide)).trans (by decide)
  have f0_4 : fld w 0 4 = 4 := (fld_low11 h0 (by decide)).trans (by decide)
  have e11 : rg w 11 = b := rg_eq h11
  have e16 : r16 w 16 = n := r16_eq (by omega)
  refine ⟨hlt, ?_⟩
  simp [decodeWord, decCnt, need, h26, f20_6, f4_7, f0_4, e11, e16]

theorem cadd (n : R16) (b : Reg) : Statement (.cadd n b) := fun _ _ =>
  word_cadd n b (by show put 11 b.val (put 16 n.val 2483027972) = _; unfold put; omega)

theorem word_rand (d : Reg) (sel : Fin 8) {w : Nat} (hw : w = 38 * 67108864 + d.val * 2097152 + 0 * 65536 + 0 * 2048 + (sel.val)) :
    w < 4294967296 ∧ decodeWord w = .ok (.rand d sel) := by
  have b0 : sel.val < 8 := sel.isLt
  have b21 : d.val < 32 := d.isLt
  obtain ⟨h26, h21, h16, h11, h0, hlt⟩ := dab (by decide) (Fin.isLt _) (by decide) (by decide) (by omega) hw
  have f3_18 : fld w 3 18 = 0 := by unfold fld; omega
  have e0 : r8 w 0 = sel := r8_eq ((fld_low11 (k := 3) h0 (by decide)).trans (by unfold fld; omega))
  have e21 : rg w 21 = d := rg_eq h21
  refine ⟨hlt, ?_⟩
  simp [decodeWord, need, h26, f3_18, e0, e21]

theorem rand (d : Reg) (sel : Fin 8) : Statement (.rand d sel) := fun _ _ =>
  word_rand d sel (by show put 0 sel.val (put 21 d.val 2550136832) = _; unfold put; omega)

theorem word_vadd (d : Reg) (a : Reg) (b : Reg) (m : KReg) (t : VT) {w : Nat} (hw : w = 40 * 67108864 + d.val * 2097152 + a.val * 65536 + b.val * 2048 + (m.val * 256 + t.code * 16)) (wf : (t.isFI) = true) :
    w < 4294967296 ∧ decodeWord w = .ok (.vadd d a b m t) := by
  have v4 := vtOf_code t
  have b4 : t.code < 14 := VT.code_lt t
  have b8 : m.val < 8 := m.isLt
  have b11 : b.val < 32 := b.isLt
  have b16 : a.val < 32 := a.isLt
  have b21 : d.val < 32 := d.isLt
  generalize t.code = c4 at hw b4 v4
  obtain ⟨h26, h21, h16, h11, h0, hlt⟩ := dab (by decide) (Fin.isLt _) (Fin.isLt _) (Fin.isLt _) (by omega) hw
  have f4_4 : fld w 4 4 = c4 := (fld_low11 h0 (by decide)).trans (by unfold fld; omega)
  have f0_4 : fld w 0 4 = 0 := (fld_low11 h0 (by decide)).trans (by unfold fld; omega)
  have e8 : r8 w 8 = m := r8_eq ((fld_low11 (k := 3) h0 (by decide)).trans (by unfold fld; omega))
  have e11 : rg w 11 = b := rg_eq h11
  have e16 : rg w 16 = a := rg_eq h16
  have e21 : rg w 21 = d := rg_eq h21
  refine ⟨hlt, ?_⟩
  simp [decodeWord, decVarith, decVec, need, fieldOr, h26, f4_4, f0_4, e8, e11, e16, e21, v4, wf]

theorem vadd (d : Reg) (a : Reg) (b : Reg) (m : KReg) (t : VT) : Statement (.vadd d a b m t) := fun _ wf =>
  word_vadd d a b m t (by show put 4 t.code (put 8 m.val (put 11 b.val (put 16 a.val (put 21 d.val 2684354560)))) = _; unfold put; omega) wf

theorem word_vsub (d : Reg) (a : Reg) (b : Reg) (m : KReg) (t : VT) {w : Nat} (hw : w = 40 * 67108864 + d.val * 2097152 + a.val * 65536 + b.val * 2048 + (m.val * 256 + t.code * 16 + 1)) (wf : (t.isFI) = true) :
    w < 4294967296 ∧ decodeWord w = .ok (.vsub d a b m t) := by
  have v4 := vtOf_code t
  have b4 : t.code < 14 := VT.code_lt t
  have b8 : m.val < 8 := m.isLt
  have b11 : b.val < 32 := b.isLt
  have b16 : a.val < 32 := a.isLt
  have b21 : d.val < 32 := d.isLt
  generalize t.code = c4 at hw b4 v4
  obtain ⟨h26, h21, h16, h11, h0, hlt⟩ := dab (by decide) (Fin.isLt _) (Fin.isLt _) (Fin.isLt _) (by omega) hw
  have f4_4 : fld w 4 4 = c4 := (fld_low11 h0 (by decide)).trans (by unfold fld; omega)
  have f0_4 : fld w 0 4 = 1 := (fld_low11 h0 (by decide)).trans (by unfold fld; omega)
  have e8 : r8 w 8 = m := r8_eq ((fld_low11 (k := 3) h0 (by decide)).trans (by unfold fld; omega))
  have e11 : rg w 11 = b := rg_eq h11
  have e16 : rg w 16 = a := rg_eq h16
  have e21 : rg w 21 = d := rg_eq h21
  refine ⟨hlt, ?_⟩
  simp [decodeWord, decVarith, decVec, need, fieldOr, h26, f4_4, f0_4, e8, e11, e16, e21, v4, wf]

theorem vsub (d : Reg) (a : Reg) (b : Reg) (m : KReg) (t : VT) : Statement (.vsub d a b m t) := fun _ wf =>
  word_vsub d a b m t (by show put 4 t.code (put 8 m.val (put 11 b.val (put 16 a.val (put 21 d.val 2684354561)))) = _; unfold put; omega) wf

theorem word_vmul (d : Reg) (a : Reg) (b : Reg) (m : KReg) (t : VT) {w : Nat} (hw : w = 40 * 67108864 + d.val * 2097152 + a.val * 65536 + b.val * 2048 + (m.val * 256 + t.code * 16 + 2)) (wf : (t.isFI) = true) :
    w < 4294967296 ∧ decodeWord w = .ok (.vmul d a b m t) := by
  have v4 := vtOf_code t
  have b4 : t.code < 14 := VT.code_lt t
  have b8 : m.val < 8 := m.isLt
  have b11 : b.val < 32 := b.isLt
  have b16 : a.val < 32 := a.isLt
  have b21 : d.val < 32 := d.isLt
  generalize t.code = c4 at hw b4 v4
  obtain ⟨h26, h21, h16, h11, h0, hlt⟩ := dab (by decide) (Fin.isLt _) (Fin.isLt _) (Fin.isLt _) (by omega) hw
  have f4_4 : fld w 4 4 = c4 := (fld_low11 h0 (by decide)).trans (by unfold fld; omega)
  have f0_4 : fld w 0 4 = 2 := (fld_low11 h0 (by decide)).trans (by unfold fld; omega)
  have e8 : r8 w 8 = m := r8_eq ((fld_low11 (k := 3) h0 (by decide)).trans (by unfold fld; omega))
  have e11 : rg w 11 = b := rg_eq h11
  have e16 : rg w 16 = a := rg_eq h16
  have e21 : rg w 21 = d := rg_eq h21
  refine ⟨hlt, ?_⟩
  simp [decodeWord, decVarith, decVec, need, fieldOr, h26, f4_4, f0_4, e8, e11, e16, e21, v4, wf]

theorem vmul (d : Reg) (a : Reg) (b : Reg) (m : KReg) (t : VT) : Statement (.vmul d a b m t) := fun _ wf =>
  word_vmul d a b m t (by show put 4 t.code (put 8 m.val (put 11 b.val (put 16 a.val (put 21 d.val 2684354562)))) = _; unfold put; omega) wf

theorem word_vfma (d : Reg) (a : Reg) (b : Reg) (m : KReg) (t : VT) {w : Nat} (hw : w = 40 * 67108864 + d.val * 2097152 + a.val * 65536 + b.val * 2048 + (m.val * 256 + t.code * 16 + 3)) (wf : (t.isF) = true) :
    w < 4294967296 ∧ decodeWord w = .ok (.vfma d a b m t) := by
  have v4 := vtOf_code t
  have b4 : t.code < 14 := VT.code_lt t
  have b8 : m.val < 8 := m.isLt
  have b11 : b.val < 32 := b.isLt
  have b16 : a.val < 32 := a.isLt
  have b21 : d.val < 32 := d.isLt
  generalize t.code = c4 at hw b4 v4
  obtain ⟨h26, h21, h16, h11, h0, hlt⟩ := dab (by decide) (Fin.isLt _) (Fin.isLt _) (Fin.isLt _) (by omega) hw
  have f4_4 : fld w 4 4 = c4 := (fld_low11 h0 (by decide)).trans (by unfold fld; omega)
  have f0_4 : fld w 0 4 = 3 := (fld_low11 h0 (by decide)).trans (by unfold fld; omega)
  have e8 : r8 w 8 = m := r8_eq ((fld_low11 (k := 3) h0 (by decide)).trans (by unfold fld; omega))
  have e11 : rg w 11 = b := rg_eq h11
  have e16 : rg w 16 = a := rg_eq h16
  have e21 : rg w 21 = d := rg_eq h21
  refine ⟨hlt, ?_⟩
  simp [decodeWord, decVarith, decVec, need, fieldOr, h26, f4_4, f0_4, e8, e11, e16, e21, v4, wf]

theorem vfma (d : Reg) (a : Reg) (b : Reg) (m : KReg) (t : VT) : Statement (.vfma d a b m t) := fun _ wf =>
  word_vfma d a b m t (by show put 4 t.code (put 8 m.val (put 11 b.val (put 16 a.val (put 21 d.val 2684354563)))) = _; unfold put; omega) wf

theorem word_vfms (d : Reg) (a : Reg) (b : Reg) (m : KReg) (t : VT) {w : Nat} (hw : w = 40 * 67108864 + d.val * 2097152 + a.val * 65536 + b.val * 2048 + (m.val * 256 + t.code * 16 + 4)) (wf : (t.isF) = true) :
    w < 4294967296 ∧ decodeWord w = .ok (.vfms d a b m t) := by
  have v4 := vtOf_code t
  have b4 : t.code < 14 := VT.code_lt t
  have b8 : m.val < 8 := m.isLt
  have b11 : b.val < 32 := b.isLt
  have b16 : a.val < 32 := a.isLt
  have b21 : d.val < 32 := d.isLt
  generalize t.code = c4 at hw b4 v4
  obtain ⟨h26, h21, h16, h11, h0, hlt⟩ := dab (by decide) (Fin.isLt _) (Fin.isLt _) (Fin.isLt _) (by omega) hw
  have f4_4 : fld w 4 4 = c4 := (fld_low11 h0 (by decide)).trans (by unfold fld; omega)
  have f0_4 : fld w 0 4 = 4 := (fld_low11 h0 (by decide)).trans (by unfold fld; omega)
  have e8 : r8 w 8 = m := r8_eq ((fld_low11 (k := 3) h0 (by decide)).trans (by unfold fld; omega))
  have e11 : rg w 11 = b := rg_eq h11
  have e16 : rg w 16 = a := rg_eq h16
  have e21 : rg w 21 = d := rg_eq h21
  refine ⟨hlt, ?_⟩
  simp [decodeWord, decVarith, decVec, need, fieldOr, h26, f4_4, f0_4, e8, e11, e16, e21, v4, wf]

theorem vfms (d : Reg) (a : Reg) (b : Reg) (m : KReg) (t : VT) : Statement (.vfms d a b m t) := fun _ wf =>
  word_vfms d a b m t (by show put 4 t.code (put 8 m.val (put 11 b.val (put 16 a.val (put 21 d.val 2684354564)))) = _; unfold put; omega) wf

theorem word_vmin (d : Reg) (a : Reg) (b : Reg) (m : KReg) (t : VT) {w : Nat} (hw : w = 40 * 67108864 + d.val * 2097152 + a.val * 65536 + b.val * 2048 + (m.val * 256 + t.code * 16 + 5)) (wf : (t.isFI) = true) :
    w < 4294967296 ∧ decodeWord w = .ok (.vmin d a b m t) := by
  have v4 := vtOf_code t
  have b4 : t.code < 14 := VT.code_lt t
  have b8 : m.val < 8 := m.isLt
  have b11 : b.val < 32 := b.isLt
  have b16 : a.val < 32 := a.isLt
  have b21 : d.val < 32 := d.isLt
  generalize t.code = c4 at hw b4 v4
  obtain ⟨h26, h21, h16, h11, h0, hlt⟩ := dab (by decide) (Fin.isLt _) (Fin.isLt _) (Fin.isLt _) (by omega) hw
  have f4_4 : fld w 4 4 = c4 := (fld_low11 h0 (by decide)).trans (by unfold fld; omega)
  have f0_4 : fld w 0 4 = 5 := (fld_low11 h0 (by decide)).trans (by unfold fld; omega)
  have e8 : r8 w 8 = m := r8_eq ((fld_low11 (k := 3) h0 (by decide)).trans (by unfold fld; omega))
  have e11 : rg w 11 = b := rg_eq h11
  have e16 : rg w 16 = a := rg_eq h16
  have e21 : rg w 21 = d := rg_eq h21
  refine ⟨hlt, ?_⟩
  simp [decodeWord, decVarith, decVec, need, fieldOr, h26, f4_4, f0_4, e8, e11, e16, e21, v4, wf]

theorem vmin (d : Reg) (a : Reg) (b : Reg) (m : KReg) (t : VT) : Statement (.vmin d a b m t) := fun _ wf =>
  word_vmin d a b m t (by show put 4 t.code (put 8 m.val (put 11 b.val (put 16 a.val (put 21 d.val 2684354565)))) = _; unfold put; omega) wf

theorem word_vmax (d : Reg) (a : Reg) (b : Reg) (m : KReg) (t : VT) {w : Nat} (hw : w = 40 * 67108864 + d.val * 2097152 + a.val * 65536 + b.val * 2048 + (m.val * 256 + t.code * 16 + 6)) (wf : (t.isFI) = true) :
    w < 4294967296 ∧ decodeWord w = .ok (.vmax d a b m t) := by
  have v4 := vtOf_code t
  have b4 : t.code < 14 := VT.code_lt t
  have b8 : m.val < 8 := m.isLt
  have b11 : b.val < 32 := b.isLt
  have b16 : a.val < 32 := a.isLt
  have b21 : d.val < 32 := d.isLt
  generalize t.code = c4 at hw b4 v4
  obtain ⟨h26, h21, h16, h11, h0, hlt⟩ := dab (by decide) (Fin.isLt _) (Fin.isLt _) (Fin.isLt _) (by omega) hw
  have f4_4 : fld w 4 4 = c4 := (fld_low11 h0 (by decide)).trans (by unfold fld; omega)
  have f0_4 : fld w 0 4 = 6 := (fld_low11 h0 (by decide)).trans (by unfold fld; omega)
  have e8 : r8 w 8 = m := r8_eq ((fld_low11 (k := 3) h0 (by decide)).trans (by unfold fld; omega))
  have e11 : rg w 11 = b := rg_eq h11
  have e16 : rg w 16 = a := rg_eq h16
  have e21 : rg w 21 = d := rg_eq h21
  refine ⟨hlt, ?_⟩
  simp [decodeWord, decVarith, decVec, need, fieldOr, h26, f4_4, f0_4, e8, e11, e16, e21, v4, wf]

theorem vmax (d : Reg) (a : Reg) (b : Reg) (m : KReg) (t : VT) : Statement (.vmax d a b m t) := fun _ wf =>
  word_vmax d a b m t (by show put 4 t.code (put 8 m.val (put 11 b.val (put 16 a.val (put 21 d.val 2684354566)))) = _; unfold put; omega) wf

theorem word_vabs (d : Reg) (a : Reg) (m : KReg) (t : VT) {w : Nat} (hw : w = 40 * 67108864 + d.val * 2097152 + a.val * 65536 + 0 * 2048 + (m.val * 256 + t.code * 16 + 7)) (wf : (t.isF || t.isS) = true) :
    w < 4294967296 ∧ decodeWord w = .ok (.vabs d a m t) := by
  have v4 := vtOf_code t
  have b4 : t.code < 14 := VT.code_lt t
  have b8 : m.val < 8 := m.isLt
  have b16 : a.val < 32 := a.isLt
  have b21 : d.val < 32 := d.isLt
  generalize t.code = c4 at hw b4 v4
  obtain ⟨h26, h21, h16, h11, h0, hlt⟩ := dab (by decide) (Fin.isLt _) (Fin.isLt _) (by decide) (by omega) hw
  have f11_5 : fld w 11 5 = 0 := h11
  have f4_4 : fld w 4 4 = c4 := (fld_low11 h0 (by decide)).trans (by unfold fld; omega)
  have f0_4 : fld w 0 4 = 7 := (fld_low11 h0 (by decide)).trans (by unfold fld; omega)
  have e8 : r8 w 8 = m := r8_eq ((fld_low11 (k := 3) h0 (by decide)).trans (by unfold fld; omega))
  have e16 : rg w 16 = a := rg_eq h16
  have e21 : rg w 21 = d := rg_eq h21
  refine ⟨hlt, ?_⟩
  simp [decodeWord, decVarith, decVec1, need, fieldOr, h26, f11_5, f4_4, f0_4, e8, e16, e21, v4, wf]

theorem vabs (d : Reg) (a : Reg) (m : KReg) (t : VT) : Statement (.vabs d a m t) := fun _ wf =>
  word_vabs d a m t (by show put 4 t.code (put 8 m.val (put 16 a.val (put 21 d.val 2684354567))) = _; unfold put; omega) wf

theorem word_vneg (d : Reg) (a : Reg) (m : KReg) (t : VT) {w : Nat} (hw : w = 40 * 67108864 + d.val * 2097152 + a.val * 65536 + 0 * 2048 + (m.val * 256 + t.code * 16 + 8)) (wf : (t.isF || t.isS) = true) :
    w < 4294967296 ∧ decodeWord w = .ok (.vneg d a m t) := by
  have v4 := vtOf_code t
  have b4 : t.code < 14 := VT.code_lt t
  have b8 : m.val < 8 := m.isLt
  have b16 : a.val < 32 := a.isLt
  have b21 : d.val < 32 := d.isLt
  generalize t.code = c4 at hw b4 v4
  obtain ⟨h26, h21, h16, h11, h0, hlt⟩ := dab (by decide) (Fin.isLt _) (Fin.isLt _) (by decide) (by omega) hw
  have f11_5 : fld w 11 5 = 0 := h11
  have f4_4 : fld w 4 4 = c4 := (fld_low11 h0 (by decide)).trans (by unfold fld; omega)
  have f0_4 : fld w 0 4 = 8 := (fld_low11 h0 (by decide)).trans (by unfold fld; omega)
  have e8 : r8 w 8 = m := r8_eq ((fld_low11 (k := 3) h0 (by decide)).trans (by unfold fld; omega))
  have e16 : rg w 16 = a := rg_eq h16
  have e21 : rg w 21 = d := rg_eq h21
  refine ⟨hlt, ?_⟩
  simp [decodeWord, decVarith, decVec1, need, fieldOr, h26, f11_5, f4_4, f0_4, e8, e16, e21, v4, wf]

theorem vneg (d : Reg) (a : Reg) (m : KReg) (t : VT) : Statement (.vneg d a m t) := fun _ wf =>
  word_vneg d a m t (by show put 4 t.code (put 8 m.val (put 16 a.val (put 21 d.val 2684354568))) = _; unfold put; omega) wf

theorem word_vadds (d : Reg) (a : Reg) (b : Reg) (m : KReg) (t : VT) {w : Nat} (hw : w = 40 * 67108864 + d.val * 2097152 + a.val * 65536 + b.val * 2048 + (m.val * 256 + t.code * 16 + 9)) (wf : (t.isI) = true) :
    w < 4294967296 ∧ decodeWord w = .ok (.vadds d a b m t) := by
  have v4 := vtOf_code t
  have b4 : t.code < 14 := VT.code_lt t
  have b8 : m.val < 8 := m.isLt
  have b11 : b.val < 32 := b.isLt
  have b16 : a.val < 32 := a.isLt
  have b21 : d.val < 32 := d.isLt
  generalize t.code = c4 at hw b4 v4
  obtain ⟨h26, h21, h16, h11, h0, hlt⟩ := dab (by decide) (Fin.isLt _) (Fin.isLt _) (Fin.isLt _) (by omega) hw
  have f4_4 : fld w 4 4 = c4 := (fld_low11 h0 (by decide)).trans (by unfold fld; omega)
  have f0_4 : fld w 0 4 = 9 := (fld_low11 h0 (by decide)).trans (by unfold fld; omega)
  have e8 : r8 w 8 = m := r8_eq ((fld_low11 (k := 3) h0 (by decide)).trans (by unfold fld; omega))
  have e11 : rg w 11 = b := rg_eq h11
  have e16 : rg w 16 = a := rg_eq h16
  have e21 : rg w 21 = d := rg_eq h21
  refine ⟨hlt, ?_⟩
  simp [decodeWord, decVarith, decVec, need, fieldOr, h26, f4_4, f0_4, e8, e11, e16, e21, v4, wf]

theorem vadds (d : Reg) (a : Reg) (b : Reg) (m : KReg) (t : VT) : Statement (.vadds d a b m t) := fun _ wf =>
  word_vadds d a b m t (by show put 4 t.code (put 8 m.val (put 11 b.val (put 16 a.val (put 21 d.val 2684354569)))) = _; unfold put; omega) wf

theorem word_vsubs (d : Reg) (a : Reg) (b : Reg) (m : KReg) (t : VT) {w : Nat} (hw : w = 40 * 67108864 + d.val * 2097152 + a.val * 65536 + b.val * 2048 + (m.val * 256 + t.code * 16 + 10)) (wf : (t.isI) = true) :
    w < 4294967296 ∧ decodeWord w = .ok (.vsubs d a b m t) := by
  have v4 := vtOf_code t
  have b4 : t.code < 14 := VT.code_lt t
  have b8 : m.val < 8 := m.isLt
  have b11 : b.val < 32 := b.isLt
  have b16 : a.val < 32 := a.isLt
  have b21 : d.val < 32 := d.isLt
  generalize t.code = c4 at hw b4 v4
  obtain ⟨h26, h21, h16, h11, h0, hlt⟩ := dab (by decide) (Fin.isLt _) (Fin.isLt _) (Fin.isLt _) (by omega) hw
  have f4_4 : fld w 4 4 = c4 := (fld_low11 h0 (by decide)).trans (by unfold fld; omega)
  have f0_4 : fld w 0 4 = 10 := (fld_low11 h0 (by decide)).trans (by unfold fld; omega)
  have e8 : r8 w 8 = m := r8_eq ((fld_low11 (k := 3) h0 (by decide)).trans (by unfold fld; omega))
  have e11 : rg w 11 = b := rg_eq h11
  have e16 : rg w 16 = a := rg_eq h16
  have e21 : rg w 21 = d := rg_eq h21
  refine ⟨hlt, ?_⟩
  simp [decodeWord, decVarith, decVec, need, fieldOr, h26, f4_4, f0_4, e8, e11, e16, e21, v4, wf]

theorem vsubs (d : Reg) (a : Reg) (b : Reg) (m : KReg) (t : VT) : Statement (.vsubs d a b m t) := fun _ wf =>
  word_vsubs d a b m t (by show put 4 t.code (put 8 m.val (put 11 b.val (put 16 a.val (put 21 d.val 2684354570)))) = _; unfold put; omega) wf

theorem word_vand (d : Reg) (a : Reg) (b : Reg) (m : KReg) (t : VT) {w : Nat} (hw : w = 40 * 67108864 + d.val * 2097152 + a.val * 65536 + b.val * 2048 + (m.val * 256 + t.code * 16 + 11)) (wf : (t.isI) = true) :
    w < 4294967296 ∧ decodeWord w = .ok (.vand d a b m t) := by
  have v4 := vtOf_code t
  have b4 : t.code < 14 := VT.code_lt t
  have b8 : m.val < 8 := m.isLt
  have b11 : b.val < 32 := b.isLt
  have b16 : a.val < 32 := a.isLt
  have b21 : d.val < 32 := d.isLt
  generalize t.code = c4 at hw b4 v4
  obtain ⟨h26, h21, h16, h11, h0, hlt⟩ := dab (by decide) (Fin.isLt _) (Fin.isLt _) (Fin.isLt _) (by omega) hw
  have f4_4 : fld w 4 4 = c4 := (fld_low11 h0 (by decide)).trans (by unfold fld; omega)
  have f0_4 : fld w 0 4 = 11 := (fld_low11 h0 (by decide)).trans (by unfold fld; omega)
  have e8 : r8 w 8 = m := r8_eq ((fld_low11 (k := 3) h0 (by decide)).trans (by unfold fld; omega))
  have e11 : rg w 11 = b := rg_eq h11
  have e16 : rg w 16 = a := rg_eq h16
  have e21 : rg w 21 = d := rg_eq h21
  refine ⟨hlt, ?_⟩
  simp [decodeWord, decVarith, decVec, need, fieldOr, h26, f4_4, f0_4, e8, e11, e16, e21, v4, wf]

theorem vand (d : Reg) (a : Reg) (b : Reg) (m : KReg) (t : VT) : Statement (.vand d a b m t) := fun _ wf =>
  word_vand d a b m t (by show put 4 t.code (put 8 m.val (put 11 b.val (put 16 a.val (put 21 d.val 2684354571)))) = _; unfold put; omega) wf

theorem word_vor (d : Reg) (a : Reg) (b : Reg) (m : KReg) (t : VT) {w : Nat} (hw : w = 40 * 67108864 + d.val * 2097152 + a.val * 65536 + b.val * 2048 + (m.val * 256 + t.code * 16 + 12)) (wf : (t.isI) = true) :
    w < 4294967296 ∧ decodeWord w = .ok (.vor d a b m t) := by
  have v4 := vtOf_code t
  have b4 : t.code < 14 := VT.code_lt t
  have b8 : m.val < 8 := m.isLt
  have b11 : b.val < 32 := b.isLt
  have b16 : a.val < 32 := a.isLt
  have b21 : d.val < 32 := d.isLt
  generalize t.code = c4 at hw b4 v4
  obtain ⟨h26, h21, h16, h11, h0, hlt⟩ := dab (by decide) (Fin.isLt _) (Fin.isLt _) (Fin.isLt _) (by omega) hw
  have f4_4 : fld w 4 4 = c4 := (fld_low11 h0 (by decide)).trans (by unfold fld; omega)
  have f0_4 : fld w 0 4 = 12 := (fld_low11 h0 (by decide)).trans (by unfold fld; omega)
  have e8 : r8 w 8 = m := r8_eq ((fld_low11 (k := 3) h0 (by decide)).trans (by unfold fld; omega))
  have e11 : rg w 11 = b := rg_eq h11
  have e16 : rg w 16 = a := rg_eq h16
  have e21 : rg w 21 = d := rg_eq h21
  refine ⟨hlt, ?_⟩
  simp [decodeWord, decVarith, decVec, need, fieldOr, h26, f4_4, f0_4, e8, e11, e16, e21, v4, wf]

theorem vor (d : Reg) (a : Reg) (b : Reg) (m : KReg) (t : VT) : Statement (.vor d a b m t) := fun _ wf =>
  word_vor d a b m t (by show put 4 t.code (put 8 m.val (put 11 b.val (put 16 a.val (put 21 d.val 2684354572)))) = _; unfold put; omega) wf

theorem word_vxor (d : Reg) (a : Reg) (b : Reg) (m : KReg) (t : VT) {w : Nat} (hw : w = 40 * 67108864 + d.val * 2097152 + a.val * 65536 + b.val * 2048 + (m.val * 256 + t.code * 16 + 13)) (wf : (t.isI) = true) :
    w < 4294967296 ∧ decodeWord w = .ok (.vxor d a b m t) := by
  have v4 := vtOf_code t
  have b4 : t.code < 14 := VT.code_lt t
  have b8 : m.val < 8 := m.isLt
  have b11 : b.val < 32 := b.isLt
  have b16 : a.val < 32 := a.isLt
  have b21 : d.val < 32 := d.isLt
  generalize t.code = c4 at hw b4 v4
  obtain ⟨h26, h21, h16, h11, h0, hlt⟩ := dab (by decide) (Fin.isLt _) (Fin.isLt _) (Fin.isLt _) (by omega) hw
  have f4_4 : fld w 4 4 = c4 := (fld_low11 h0 (by decide)).trans (by unfold fld; omega)
  have f0_4 : fld w 0 4 = 13 := (fld_low11 h0 (by decide)).trans (by unfold fld; omega)
  have e8 : r8 w 8 = m := r8_eq ((fld_low11 (k := 3) h0 (by decide)).trans (by unfold fld; omega))
  have e11 : rg w 11 = b := rg_eq h11
  have e16 : rg w 16 = a := rg_eq h16
  have e21 : rg w 21 = d := rg_eq h21
  refine ⟨hlt, ?_⟩
  simp [decodeWord, decVarith, decVec, need, fieldOr, h26, f4_4, f0_4, e8, e11, e16, e21, v4, wf]

theorem vxor (d : Reg) (a : Reg) (b : Reg) (m : KReg) (t : VT) : Statement (.vxor d a b m t) := fun _ wf =>
  word_vxor d a b m t (by show put 4 t.code (put 8 m.val (put 11 b.val (put 16 a.val (put 21 d.val 2684354573)))) = _; unfold put; omega) wf

theorem word_vshl (d : Reg) (a : Reg) (b : Reg) (m : KReg) (t : VT) {w : Nat} (hw : w = 40 * 67108864 + d.val * 2097152 + a.val * 65536 + b.val * 2048 + (m.val * 256 + t.code * 16 + 14)) (wf : (t.isI) = true) :
    w < 4294967296 ∧ decodeWord w = .ok (.vshl d a b m t) := by
  have v4 := vtOf_code t
  have b4 : t.code < 14 := VT.code_lt t
  have b8 : m.val < 8 := m.isLt
  have b11 : b.val < 32 := b.isLt
  have b16 : a.val < 32 := a.isLt
  have b21 : d.val < 32 := d.isLt
  generalize t.code = c4 at hw b4 v4
  obtain ⟨h26, h21, h16, h11, h0, hlt⟩ := dab (by decide) (Fin.isLt _) (Fin.isLt _) (Fin.isLt _) (by omega) hw
  have f4_4 : fld w 4 4 = c4 := (fld_low11 h0 (by decide)).trans (by unfold fld; omega)
  have f0_4 : fld w 0 4 = 14 := (fld_low11 h0 (by decide)).trans (by unfold fld; omega)
  have e8 : r8 w 8 = m := r8_eq ((fld_low11 (k := 3) h0 (by decide)).trans (by unfold fld; omega))
  have e11 : rg w 11 = b := rg_eq h11
  have e16 : rg w 16 = a := rg_eq h16
  have e21 : rg w 21 = d := rg_eq h21
  refine ⟨hlt, ?_⟩
  simp [decodeWord, decVarith, decVec, need, fieldOr, h26, f4_4, f0_4, e8, e11, e16, e21, v4, wf]

theorem vshl (d : Reg) (a : Reg) (b : Reg) (m : KReg) (t : VT) : Statement (.vshl d a b m t) := fun _ wf =>
  word_vshl d a b m t (by show put 4 t.code (put 8 m.val (put 11 b.val (put 16 a.val (put 21 d.val 2684354574)))) = _; unfold put; omega) wf

theorem word_vshr (d : Reg) (a : Reg) (b : Reg) (m : KReg) (t : VT) {w : Nat} (hw : w = 40 * 67108864 + d.val * 2097152 + a.val * 65536 + b.val * 2048 + (m.val * 256 + t.code * 16 + 15)) (wf : (t.isI) = true) :
    w < 4294967296 ∧ decodeWord w = .ok (.vshr d a b m t) := by
  have v4 := vtOf_code t
  have b4 : t.code < 14 := VT.code_lt t
  have b8 : m.val < 8 := m.isLt
  have b11 : b.val < 32 := b.isLt
  have b16 : a.val < 32 := a.isLt
  have b21 : d.val < 32 := d.isLt
  generalize t.code = c4 at hw b4 v4
  obtain ⟨h26, h21, h16, h11, h0, hlt⟩ := dab (by decide) (Fin.isLt _) (Fin.isLt _) (Fin.isLt _) (by omega) hw
  have f4_4 : fld w 4 4 = c4 := (fld_low11 h0 (by decide)).trans (by unfold fld; omega)
  have f0_4 : fld w 0 4 = 15 := (fld_low11 h0 (by decide)).trans (by unfold fld; omega)
  have e8 : r8 w 8 = m := r8_eq ((fld_low11 (k := 3) h0 (by decide)).trans (by unfold fld; omega))
  have e11 : rg w 11 = b := rg_eq h11
  have e16 : rg w 16 = a := rg_eq h16
  have e21 : rg w 21 = d := rg_eq h21
  refine ⟨hlt, ?_⟩
  simp [decodeWord, decVarith, decVec, need, fieldOr, h26, f4_4, f0_4, e8, e11, e16, e21, v4, wf]

theorem vshr (d : Reg) (a : Reg) (b : Reg) (m : KReg) (t : VT) : Statement (.vshr d a b m t) := fun _ wf =>
  word_vshr d a b m t (by show put 4 t.code (put 8 m.val (put 11 b.val (put 16 a.val (put 21 d.val 2684354575)))) = _; unfold put; omega) wf

theorem word_vdiv (d : Reg) (a : Reg) (b : Reg) (m : KReg) (t : VT) {w : Nat} (hw : w = 41 * 67108864 + d.val * 2097152 + a.val * 65536 + b.val * 2048 + (m.val * 256 + t.code * 16)) (wf : (t.isF) = true) :
    w < 4294967296 ∧ decodeWord w = .ok (.vdiv d a b m t) := by
  have v4 := vtOf_code t
  have b4 : t.code < 14 := VT.code_lt t
  have b8 : m.val < 8 := m.isLt
  have b11 : b.val < 32 := b.isLt
  have b16 : a.val < 32 := a.isLt
  have b21 : d.val < 32 := d.isLt
  generalize t.code = c4 at hw b4 v4
  obtain ⟨h26, h21, h16, h11, h0, hlt⟩ := dab (by decide) (Fin.isLt _) (Fin.isLt _) (Fin.isLt _) (by omega) hw
  have f4_4 : fld w 4 4 = c4 := (fld_low11 h0 (by decide)).trans (by unfold fld; omega)
  have f0_4 : fld w 0 4 = 0 := (fld_low11 h0 (by decide)).trans (by unfold fld; omega)
  have e8 : r8 w 8 = m := r8_eq ((fld_low11 (k := 3) h0 (by decide)).trans (by unfold fld; omega))
  have e11 : rg w 11 = b := rg_eq h11
  have e16 : rg w 16 = a := rg_eq h16
  have e21 : rg w 21 = d := rg_eq h21
  refine ⟨hlt, ?_⟩
  simp [decodeWord, decVspec, decVec, need, fieldOr, h26, f4_4, f0_4, e8, e11, e16, e21, v4, wf]

theorem vdiv (d : Reg) (a : Reg) (b : Reg) (m : KReg) (t : VT) : Statement (.vdiv d a b m t) := fun _ wf =>
  word_vdiv d a b m t (by show put 4 t.code (put 8 m.val (put 11 b.val (put 16 a.val (put 21 d.val 2751463424)))) = _; unfold put; omega) wf

theorem word_vsqrt (d : Reg) (a : Reg) (m : KReg) (t : VT) {w : Nat} (hw : w = 41 * 67108864 + d.val * 2097152 + a.val * 65536 + 0 * 2048 + (m.val * 256 + t.code * 16 + 1)) (wf : (t.isF) = true) :
    w < 4294967296 ∧ decodeWord w = .ok (.vsqrt d a m t) := by
  have v4 := vtOf_code t
  have b4 : t.code < 14 := VT.code_lt t
  have b8 : m.val < 8 := m.isLt
  have b16 : a.val < 32 := a.isLt
  have b21 : d.val < 32 := d.isLt
  generalize t.code = c4 at hw b4 v4
  obtain ⟨h26, h21, h16, h11, h0, hlt⟩ := dab (by decide) (Fin.isLt _) (Fin.isLt _) (by decide) (by omega) hw
  have f11_5 : fld w 11 5 = 0 := h11
  have f4_4 : fld w 4 4 = c4 := (fld_low11 h0 (by decide)).trans (by unfold fld; omega)
  have f0_4 : fld w 0 4 = 1 := (fld_low11 h0 (by decide)).trans (by unfold fld; omega)
  have e8 : r8 w 8 = m := r8_eq ((fld_low11 (k := 3) h0 (by decide)).trans (by unfold fld; omega))
  have e16 : rg w 16 = a := rg_eq h16
  have e21 : rg w 21 = d := rg_eq h21
  refine ⟨hlt, ?_⟩
  simp [decodeWord, decVspec, decVec1, need, fieldOr, h26, f11_5, f4_4, f0_4, e8, e16, e21, v4, wf]

theorem vsqrt (d : Reg) (a : Reg) (m : KReg) (t : VT) : Statement (.vsqrt d a m t) := fun _ wf =>
  word_vsqrt d a m t (by show put 4 t.code (put 8 m.val (put 16 a.val (put 21 d.val 2751463425))) = _; unfold put; omega) wf

theorem word_vrsqrt (d : Reg) (a : Reg) (m : KReg) (t : VT) {w : Nat} (hw : w = 41 * 67108864 + d.val * 2097152 + a.val * 65536 + 0 * 2048 + (m.val * 256 + t.code * 16 + 2)) (wf : (t.isF) = true) :
    w < 4294967296 ∧ decodeWord w = .ok (.vrsqrt d a m t) := by
  have v4 := vtOf_code t
  have b4 : t.code < 14 := VT.code_lt t
  have b8 : m.val < 8 := m.isLt
  have b16 : a.val < 32 := a.isLt
  have b21 : d.val < 32 := d.isLt
  generalize t.code = c4 at hw b4 v4
  obtain ⟨h26, h21, h16, h11, h0, hlt⟩ := dab (by decide) (Fin.isLt _) (Fin.isLt _) (by decide) (by omega) hw
  have f11_5 : fld w 11 5 = 0 := h11
  have f4_4 : fld w 4 4 = c4 := (fld_low11 h0 (by decide)).trans (by unfold fld; omega)
  have f0_4 : fld w 0 4 = 2 := (fld_low11 h0 (by decide)).trans (by unfold fld; omega)
  have e8 : r8 w 8 = m := r8_eq ((fld_low11 (k := 3) h0 (by decide)).trans (by unfold fld; omega))
  have e16 : rg w 16 = a := rg_eq h16
  have e21 : rg w 21 = d := rg_eq h21
  refine ⟨hlt, ?_⟩
  simp [decodeWord, decVspec, decVec1, need, fieldOr, h26, f11_5, f4_4, f0_4, e8, e16, e21, v4, wf]

theorem vrsqrt (d : Reg) (a : Reg) (m : KReg) (t : VT) : Statement (.vrsqrt d a m t) := fun _ wf =>
  word_vrsqrt d a m t (by show put 4 t.code (put 8 m.val (put 16 a.val (put 21 d.val 2751463426))) = _; unfold put; omega) wf

theorem word_vrcp (d : Reg) (a : Reg) (m : KReg) (t : VT) {w : Nat} (hw : w = 41 * 67108864 + d.val * 2097152 + a.val * 65536 + 0 * 2048 + (m.val * 256 + t.code * 16 + 3)) (wf : (t.isF) = true) :
    w < 4294967296 ∧ decodeWord w = .ok (.vrcp d a m t) := by
  have v4 := vtOf_code t
  have b4 : t.code < 14 := VT.code_lt t
  have b8 : m.val < 8 := m.isLt
  have b16 : a.val < 32 := a.isLt
  have b21 : d.val < 32 := d.isLt
  generalize t.code = c4 at hw b4 v4
  obtain ⟨h26, h21, h16, h11, h0, hlt⟩ := dab (by decide) (Fin.isLt _) (Fin.isLt _) (by decide) (by omega) hw
  have f11_5 : fld w 11 5 = 0 := h11
  have f4_4 : fld w 4 4 = c4 := (fld_low11 h0 (by decide)).trans (by unfold fld; omega)
  have f0_4 : fld w 0 4 = 3 := (fld_low11 h0 (by decide)).trans (by unfold fld; omega)
  have e8 : r8 w 8 = m := r8_eq ((fld_low11 (k := 3) h0 (by decide)).trans (by unfold fld; omega))
  have e16 : rg w 16 = a := rg_eq h16
  have e21 : rg w 21 = d := rg_eq h21
  refine ⟨hlt, ?_⟩
  simp [decodeWord, decVspec, decVec1, need, fieldOr, h26, f11_5, f4_4, f0_4, e8, e16, e21, v4, wf]

theorem vrcp (d : Reg) (a : Reg) (m : KReg) (t : VT) : Statement (.vrcp d a m t) := fun _ wf =>
  word_vrcp d a m t (by show put 4 t.code (put 8 m.val (put 16 a.val (put 21 d.val 2751463427))) = _; unfold put; omega) wf

theorem word_vexp2 (d : Reg) (a : Reg) (m : KReg) (t : VT) {w : Nat} (hw : w = 41 * 67108864 + d.val * 2097152 + a.val * 65536 + 0 * 2048 + (m.val * 256 + t.code * 16 + 4)) (wf : (t.isF) = true) :
    w < 4294967296 ∧ decodeWord w = .ok (.vexp2 d a m t) := by
  have v4 := vtOf_code t
  have b4 : t.code < 14 := VT.code_lt t
  have b8 : m.val < 8 := m.isLt
  have b16 : a.val < 32 := a.isLt
  have b21 : d.val < 32 := d.isLt
  generalize t.code = c4 at hw b4 v4
  obtain ⟨h26, h21, h16, h11, h0, hlt⟩ := dab (by decide) (Fin.isLt _) (Fin.isLt _) (by decide) (by omega) hw
  have f11_5 : fld w 11 5 = 0 := h11
  have f4_4 : fld w 4 4 = c4 := (fld_low11 h0 (by decide)).trans (by unfold fld; omega)
  have f0_4 : fld w 0 4 = 4 := (fld_low11 h0 (by decide)).trans (by unfold fld; omega)
  have e8 : r8 w 8 = m := r8_eq ((fld_low11 (k := 3) h0 (by decide)).trans (by unfold fld; omega))
  have e16 : rg w 16 = a := rg_eq h16
  have e21 : rg w 21 = d := rg_eq h21
  refine ⟨hlt, ?_⟩
  simp [decodeWord, decVspec, decVec1, need, fieldOr, h26, f11_5, f4_4, f0_4, e8, e16, e21, v4, wf]

theorem vexp2 (d : Reg) (a : Reg) (m : KReg) (t : VT) : Statement (.vexp2 d a m t) := fun _ wf =>
  word_vexp2 d a m t (by show put 4 t.code (put 8 m.val (put 16 a.val (put 21 d.val 2751463428))) = _; unfold put; omega) wf

theorem word_vlog2 (d : Reg) (a : Reg) (m : KReg) (t : VT) {w : Nat} (hw : w = 41 * 67108864 + d.val * 2097152 + a.val * 65536 + 0 * 2048 + (m.val * 256 + t.code * 16 + 5)) (wf : (t.isF) = true) :
    w < 4294967296 ∧ decodeWord w = .ok (.vlog2 d a m t) := by
  have v4 := vtOf_code t
  have b4 : t.code < 14 := VT.code_lt t
  have b8 : m.val < 8 := m.isLt
  have b16 : a.val < 32 := a.isLt
  have b21 : d.val < 32 := d.isLt
  generalize t.code = c4 at hw b4 v4
  obtain ⟨h26, h21, h16, h11, h0, hlt⟩ := dab (by decide) (Fin.isLt _) (Fin.isLt _) (by decide) (by omega) hw
  have f11_5 : fld w 11 5 = 0 := h11
  have f4_4 : fld w 4 4 = c4 := (fld_low11 h0 (by decide)).trans (by unfold fld; omega)
  have f0_4 : fld w 0 4 = 5 := (fld_low11 h0 (by decide)).trans (by unfold fld; omega)
  have e8 : r8 w 8 = m := r8_eq ((fld_low11 (k := 3) h0 (by decide)).trans (by unfold fld; omega))
  have e16 : rg w 16 = a := rg_eq h16
  have e21 : rg w 21 = d := rg_eq h21
  refine ⟨hlt, ?_⟩
  simp [decodeWord, decVspec, decVec1, need, fieldOr, h26, f11_5, f4_4, f0_4, e8, e16, e21, v4, wf]

theorem vlog2 (d : Reg) (a : Reg) (m : KReg) (t : VT) : Statement (.vlog2 d a m t) := fun _ wf =>
  word_vlog2 d a m t (by show put 4 t.code (put 8 m.val (put 16 a.val (put 21 d.val 2751463429))) = _; unfold put; omega) wf

theorem word_vsin (d : Reg) (a : Reg) (m : KReg) (t : VT) {w : Nat} (hw : w = 41 * 67108864 + d.val * 2097152 + a.val * 65536 + 0 * 2048 + (m.val * 256 + t.code * 16 + 6)) (wf : (t.isF) = true) :
    w < 4294967296 ∧ decodeWord w = .ok (.vsin d a m t) := by
  have v4 := vtOf_code t
  have b4 : t.code < 14 := VT.code_lt t
  have b8 : m.val < 8 := m.isLt
  have b16 : a.val < 32 := a.isLt
  have b21 : d.val < 32 := d.isLt
  generalize t.code = c4 at hw b4 v4
  obtain ⟨h26, h21, h16, h11, h0, hlt⟩ := dab (by decide) (Fin.isLt _) (Fin.isLt _) (by decide) (by omega) hw
  have f11_5 : fld w 11 5 = 0 := h11
  have f4_4 : fld w 4 4 = c4 := (fld_low11 h0 (by decide)).trans (by unfold fld; omega)
  have f0_4 : fld w 0 4 = 6 := (fld_low11 h0 (by decide)).trans (by unfold fld; omega)
  have e8 : r8 w 8 = m := r8_eq ((fld_low11 (k := 3) h0 (by decide)).trans (by unfold fld; omega))
  have e16 : rg w 16 = a := rg_eq h16
  have e21 : rg w 21 = d := rg_eq h21
  refine ⟨hlt, ?_⟩
  simp [decodeWord, decVspec, decVec1, need, fieldOr, h26, f11_5, f4_4, f0_4, e8, e16, e21, v4, wf]

theorem vsin (d : Reg) (a : Reg) (m : KReg) (t : VT) : Statement (.vsin d a m t) := fun _ wf =>
  word_vsin d a m t (by show put 4 t.code (put 8 m.val (put 16 a.val (put 21 d.val 2751463430))) = _; unfold put; omega) wf

theorem word_vcos (d : Reg) (a : Reg) (m : KReg) (t : VT) {w : Nat} (hw : w = 41 * 67108864 + d.val * 2097152 + a.val * 65536 + 0 * 2048 + (m.val * 256 + t.code * 16 + 7)) (wf : (t.isF) = true) :
    w < 4294967296 ∧ decodeWord w = .ok (.vcos d a m t) := by
  have v4 := vtOf_code t
  have b4 : t.code < 14 := VT.code_lt t
  have b8 : m.val < 8 := m.isLt
  have b16 : a.val < 32 := a.isLt
  have b21 : d.val < 32 := d.isLt
  generalize t.code = c4 at hw b4 v4
  obtain ⟨h26, h21, h16, h11, h0, hlt⟩ := dab (by decide) (Fin.isLt _) (Fin.isLt _) (by decide) (by omega) hw
  have f11_5 : fld w 11 5 = 0 := h11
  have f4_4 : fld w 4 4 = c4 := (fld_low11 h0 (by decide)).trans (by unfold fld; omega)
  have f0_4 : fld w 0 4 = 7 := (fld_low11 h0 (by decide)).trans (by unfold fld; omega)
  have e8 : r8 w 8 = m := r8_eq ((fld_low11 (k := 3) h0 (by decide)).trans (by unfold fld; omega))
  have e16 : rg w 16 = a := rg_eq h16
  have e21 : rg w 21 = d := rg_eq h21
  refine ⟨hlt, ?_⟩
  simp [decodeWord, decVspec, decVec1, need, fieldOr, h26, f11_5, f4_4, f0_4, e8, e16, e21, v4, wf]

theorem vcos (d : Reg) (a : Reg) (m : KReg) (t : VT) : Statement (.vcos d a m t) := fun _ wf =>
  word_vcos d a m t (by show put 4 t.code (put 8 m.val (put 16 a.val (put 21 d.val 2751463431))) = _; unfold put; omega) wf

theorem word_vtanh (d : Reg) (a : Reg) (m : KReg) (t : VT) {w : Nat} (hw : w = 41 * 67108864 + d.val * 2097152 + a.val * 65536 + 0 * 2048 + (m.val * 256 + t.code * 16 + 8)) (wf : (t.isF) = true) :
    w < 4294967296 ∧ decodeWord w = .ok (.vtanh d a m t) := by
  have v4 := vtOf_code t
  have b4 : t.code < 14 := VT.code_lt t
  have b8 : m.val < 8 := m.isLt
  have b16 : a.val < 32 := a.isLt
  have b21 : d.val < 32 := d.isLt
  generalize t.code = c4 at hw b4 v4
  obtain ⟨h26, h21, h16, h11, h0, hlt⟩ := dab (by decide) (Fin.isLt _) (Fin.isLt _) (by decide) (by omega) hw
  have f11_5 : fld w 11 5 = 0 := h11
  have f4_4 : fld w 4 4 = c4 := (fld_low11 h0 (by decide)).trans (by unfold fld; omega)
  have f0_4 : fld w 0 4 = 8 := (fld_low11 h0 (by decide)).trans (by unfold fld; omega)
  have e8 : r8 w 8 = m := r8_eq ((fld_low11 (k := 3) h0 (by decide)).trans (by unfold fld; omega))
  have e16 : rg w 16 = a := rg_eq h16
  have e21 : rg w 21 = d := rg_eq h21
  refine ⟨hlt, ?_⟩
  simp [decodeWord, decVspec, decVec1, need, fieldOr, h26, f11_5, f4_4, f0_4, e8, e16, e21, v4, wf]

theorem vtanh (d : Reg) (a : Reg) (m : KReg) (t : VT) : Statement (.vtanh d a m t) := fun _ wf =>
  word_vtanh d a m t (by show put 4 t.code (put 8 m.val (put 16 a.val (put 21 d.val 2751463432))) = _; unfold put; omega) wf

theorem word_vcmpeq (kd : KReg) (a : Reg) (b : Reg) (m : KReg) (t : VT) {w : Nat} (hw : w = 42 * 67108864 + kd.val * 2097152 + a.val * 65536 + b.val * 2048 + (m.val * 256 + t.code * 16)) (wf : (t.isFI && kd != 0) = true) :
    w < 4294967296 ∧ decodeWord w = .ok (.vcmpeq kd a b m t) := by
  have v4 := vtOf_code t
  have b4 : t.code < 14 := VT.code_lt t
  have b8 : m.val < 8 := m.isLt
  have b11 : b.val < 32 := b.isLt
  have b16 : a.val < 32 := a.isLt
  have b21 : kd.val < 8 := kd.isLt
  generalize t.code = c4 at hw b4 v4
  obtain ⟨h26, h21, h16, h11, h0, hlt⟩ := dab (by decide) (by omega) (Fin.isLt _) (Fin.isLt _) (by omega) hw
  have f24_2 : fld w 24 2 = 0 := by unfold fld; omega
  have f4_4 : fld w 4 4 = c4 := (fld_low11 h0 (by decide)).trans (by unfold fld; omega)
  have f0_4 : fld w 0 4 = 0 := (fld_low11 h0 (by decide)).trans (by unfold fld; omega)
  have e8 : r8 w 8 = m := r8_eq ((fld_low11 (k := 3) h0 (by decide)).trans (by unfold fld; omega))
  have e11 : rg w 11 = b := rg_eq h11
  have e16 : rg w 16 = a := rg_eq h16
  have e21 : r8 w 21 = kd := r8_eq (by omega)
  refine ⟨hlt, ?_⟩
  simp [decodeWord, decVmask, decVcmp, need, fieldOr, h26, f24_2, f4_4, f0_4, e8, e11, e16, e21, v4, wf]

theorem vcmpeq (kd : KReg) (a : Reg) (b : Reg) (m : KReg) (t : VT) : Statement (.vcmpeq kd a b m t) := fun _ wf =>
  word_vcmpeq kd a b m t (by show put 4 t.code (put 8 m.val (put 11 b.val (put 16 a.val (put 21 kd.val 2818572288)))) = _; unfold put; omega) wf

theorem word_vcmpne (kd : KReg) (a : Reg) (b : Reg) (m : KReg) (t : VT) {w : Nat} (hw : w = 42 * 67108864 + kd.val * 2097152 + a.val * 65536 + b.val * 2048 + (m.val * 256 + t.code * 16 + 1)) (wf : (t.isFI && kd != 0) = true) :
    w < 4294967296 ∧ decodeWord w = .ok (.vcmpne kd a b m t) := by
  have v4 := vtOf_code t
  have b4 : t.code < 14 := VT.code_lt t
  have b8 : m.val < 8 := m.isLt
  have b11 : b.val < 32 := b.isLt
  have b16 : a.val < 32 := a.isLt
  have b21 : kd.val < 8 := kd.isLt
  generalize t.code = c4 at hw b4 v4
  obtain ⟨h26, h21, h16, h11, h0, hlt⟩ := dab (by decide) (by omega) (Fin.isLt _) (Fin.isLt _) (by omega) hw
  have f24_2 : fld w 24 2 = 0 := by unfold fld; omega
  have f4_4 : fld w 4 4 = c4 := (fld_low11 h0 (by decide)).trans (by unfold fld; omega)
  have f0_4 : fld w 0 4 = 1 := (fld_low11 h0 (by decide)).trans (by unfold fld; omega)
  have e8 : r8 w 8 = m := r8_eq ((fld_low11 (k := 3) h0 (by decide)).trans (by unfold fld; omega))
  have e11 : rg w 11 = b := rg_eq h11
  have e16 : rg w 16 = a := rg_eq h16
  have e21 : r8 w 21 = kd := r8_eq (by omega)
  refine ⟨hlt, ?_⟩
  simp [decodeWord, decVmask, decVcmp, need, fieldOr, h26, f24_2, f4_4, f0_4, e8, e11, e16, e21, v4, wf]

theorem vcmpne (kd : KReg) (a : Reg) (b : Reg) (m : KReg) (t : VT) : Statement (.vcmpne kd a b m t) := fun _ wf =>
  word_vcmpne kd a b m t (by show put 4 t.code (put 8 m.val (put 11 b.val (put 16 a.val (put 21 kd.val 2818572289)))) = _; unfold put; omega) wf

theorem word_vcmplt (kd : KReg) (a : Reg) (b : Reg) (m : KReg) (t : VT) {w : Nat} (hw : w = 42 * 67108864 + kd.val * 2097152 + a.val * 65536 + b.val * 2048 + (m.val * 256 + t.code * 16 + 2)) (wf : (t.isFI && kd != 0) = true) :
    w < 4294967296 ∧ decodeWord w = .ok (.vcmplt kd a b m t) := by
  have v4 := vtOf_code t
  have b4 : t.code < 14 := VT.code_lt t
  have b8 : m.val < 8 := m.isLt
  have b11 : b.val < 32 := b.isLt
  have b16 : a.val < 32 := a.isLt
  have b21 : kd.val < 8 := kd.isLt
  generalize t.code = c4 at hw b4 v4
  obtain ⟨h26, h21, h16, h11, h0, hlt⟩ := dab (by decide) (by omega) (Fin.isLt _) (Fin.isLt _) (by omega) hw
  have f24_2 : fld w 24 2 = 0 := by unfold fld; omega
  have f4_4 : fld w 4 4 = c4 := (fld_low11 h0 (by decide)).trans (by unfold fld; omega)
  have f0_4 : fld w 0 4 = 2 := (fld_low11 h0 (by decide)).trans (by unfold fld; omega)
  have e8 : r8 w 8 = m := r8_eq ((fld_low11 (k := 3) h0 (by decide)).trans (by unfold fld; omega))
  have e11 : rg w 11 = b := rg_eq h11
  have e16 : rg w 16 = a := rg_eq h16
  have e21 : r8 w 21 = kd := r8_eq (by omega)
  refine ⟨hlt, ?_⟩
  simp [decodeWord, decVmask, decVcmp, need, fieldOr, h26, f24_2, f4_4, f0_4, e8, e11, e16, e21, v4, wf]

theorem vcmplt (kd : KReg) (a : Reg) (b : Reg) (m : KReg) (t : VT) : Statement (.vcmplt kd a b m t) := fun _ wf =>
  word_vcmplt kd a b m t (by show put 4 t.code (put 8 m.val (put 11 b.val (put 16 a.val (put 21 kd.val 2818572290)))) = _; unfold put; omega) wf

theorem word_vcmple (kd : KReg) (a : Reg) (b : Reg) (m : KReg) (t : VT) {w : Nat} (hw : w = 42 * 67108864 + kd.val * 2097152 + a.val * 65536 + b.val * 2048 + (m.val * 256 + t.code * 16 + 3)) (wf : (t.isFI && kd != 0) = true) :
    w < 4294967296 ∧ decodeWord w = .ok (.vcmple kd a b m t) := by
  have v4 := vtOf_code t
  have b4 : t.code < 14 := VT.code_lt t
  have b8 : m.val < 8 := m.isLt
  have b11 : b.val < 32 := b.isLt
  have b16 : a.val < 32 := a.isLt
  have b21 : kd.val < 8 := kd.isLt
  generalize t.code = c4 at hw b4 v4
  obtain ⟨h26, h21, h16, h11, h0, hlt⟩ := dab (by decide) (by omega) (Fin.isLt _) (Fin.isLt _) (by omega) hw
  have f24_2 : fld w 24 2 = 0 := by unfold fld; omega
  have f4_4 : fld w 4 4 = c4 := (fld_low11 h0 (by decide)).trans (by unfold fld; omega)
  have f0_4 : fld w 0 4 = 3 := (fld_low11 h0 (by decide)).trans (by unfold fld; omega)
  have e8 : r8 w 8 = m := r8_eq ((fld_low11 (k := 3) h0 (by decide)).trans (by unfold fld; omega))
  have e11 : rg w 11 = b := rg_eq h11
  have e16 : rg w 16 = a := rg_eq h16
  have e21 : r8 w 21 = kd := r8_eq (by omega)
  refine ⟨hlt, ?_⟩
  simp [decodeWord, decVmask, decVcmp, need, fieldOr, h26, f24_2, f4_4, f0_4, e8, e11, e16, e21, v4, wf]

theorem vcmple (kd : KReg) (a : Reg) (b : Reg) (m : KReg) (t : VT) : Statement (.vcmple kd a b m t) := fun _ wf =>
  word_vcmple kd a b m t (by show put 4 t.code (put 8 m.val (put 11 b.val (put 16 a.val (put 21 kd.val 2818572291)))) = _; unfold put; omega) wf

theorem word_vsel (d : Reg) (a : Reg) (b : Reg) (m : KReg) (t : VT) {w : Nat} (hw : w = 42 * 67108864 + d.val * 2097152 + a.val * 65536 + b.val * 2048 + (m.val * 256 + t.code * 16 + 4)) :
    w < 4294967296 ∧ decodeWord w = .ok (.vsel d a b m t) := by
  have v4 := vtOf_code t
  have b4 : t.code < 14 := VT.code_lt t
  have b8 : m.val < 8 := m.isLt
  have b11 : b.val < 32 := b.isLt
  have b16 : a.val < 32 := a.isLt
  have b21 : d.val < 32 := d.isLt
  generalize t.code = c4 at hw b4 v4
  obtain ⟨h26, h21, h16, h11, h0, hlt⟩ := dab (by decide) (Fin.isLt _) (Fin.isLt _) (Fin.isLt _) (by omega) hw
  have f4_4 : fld w 4 4 = c4 := (fld_low11 h0 (by decide)).trans (by unfold fld; omega)
  have f0_4 : fld w 0 4 = 4 := (fld_low11 h0 (by decide)).trans (by unfold fld; omega)
  have e8 : r8 w 8 = m := r8_eq ((fld_low11 (k := 3) h0 (by decide)).trans (by unfold fld; omega))
  have e11 : rg w 11 = b := rg_eq h11
  have e16 : rg w 16 = a := rg_eq h16
  have e21 : rg w 21 = d := rg_eq h21
  refine ⟨hlt, ?_⟩
  simp [decodeWord, decVmask, decVec, need, fieldOr, h26, f4_4, f0_4, e8, e11, e16, e21, v4]

theorem vsel (d : Reg) (a : Reg) (b : Reg) (m : KReg) (t : VT) : Statement (.vsel d a b m t) := fun _ _ =>
  word_vsel d a b m t (by show put 4 t.code (put 8 m.val (put 11 b.val (put 16 a.val (put 21 d.val 2818572292)))) = _; unfold put; omega)

theorem word_kand (kd : KReg) (ka : KReg) (kb : KReg) {w : Nat} (hw : w = 42 * 67108864 + kd.val * 2097152 + ka.val * 65536 + kb.val * 2048 + (5)) (wf : (kd != 0) = true) :
    w < 4294967296 ∧ decodeWord w = .ok (.kand kd ka kb) := by
  have b11 : kb.val < 8 := kb.isLt
  have b16 : ka.val < 8 := ka.isLt
  have b21 : kd.val < 8 := kd.isLt
  obtain ⟨h26, h21, h16, h11, h0, hlt⟩ := dab (by decide) (by omega) (by omega) (by omega) (by decide) hw
  have f24_2 : fld w 24 2 = 0 := by unfold fld; omega
  have f19_2 : fld w 19 2 = 0 := by unfold fld; omega
  have f14_2 : fld w 14 2 = 0 := by unfold fld; omega
  have f4_7 : fld w 4 7 = 0 := (fld_low11 h0 (by decide)).trans (by decide)
  have f0_4 : fld w 0 4 = 5 := (fld_low11 h0 (by decide)).trans (by decide)
  have e11 : r8 w 11 = kb := r8_eq (by omega)
  have e16 : r8 w 16 = ka := r8_eq (by omega)
  have e21 : r8 w 21 = kd := r8_eq (by omega)
  refine ⟨hlt, ?_⟩
  simp [decodeWord, decVmask, need, h26, f24_2, f19_2, f14_2, f4_7, f0_4, e11, e16, e21, wf]

theorem kand (kd : KReg) (ka : KReg) (kb : KReg) : Statement (.kand kd ka kb) := fun _ wf =>
  word_kand kd ka kb (by show put 11 kb.val (put 16 ka.val (put 21 kd.val 2818572293)) = _; unfold put; omega) wf

theorem word_kor (kd : KReg) (ka : KReg) (kb : KReg) {w : Nat} (hw : w = 42 * 67108864 + kd.val * 2097152 + ka.val * 65536 + kb.val * 2048 + (6)) (wf : (kd != 0) = true) :
    w < 4294967296 ∧ decodeWord w = .ok (.kor kd ka kb) := by
  have b11 : kb.val < 8 := kb.isLt
  have b16 : ka.val < 8 := ka.isLt
  have b21 : kd.val < 8 := kd.isLt
  obtain ⟨h26, h21, h16, h11, h0, hlt⟩ := dab (by decide) (by omega) (by omega) (by omega) (by decide) hw
  have f24_2 : fld w 24 2 = 0 := by unfold fld; omega
  have f19_2 : fld w 19 2 = 0 := by unfold fld; omega
  have f14_2 : fld w 14 2 = 0 := by unfold fld; omega
  have f4_7 : fld w 4 7 = 0 := (fld_low11 h0 (by decide)).trans (by decide)
  have f0_4 : fld w 0 4 = 6 := (fld_low11 h0 (by decide)).trans (by decide)
  have e11 : r8 w 11 = kb := r8_eq (by omega)
  have e16 : r8 w 16 = ka := r8_eq (by omega)
  have e21 : r8 w 21 = kd := r8_eq (by omega)
  refine ⟨hlt, ?_⟩
  simp [decodeWord, decVmask, need, h26, f24_2, f19_2, f14_2, f4_7, f0_4, e11, e16, e21, wf]

theorem kor (kd : KReg) (ka : KReg) (kb : KReg) : Statement (.kor kd ka kb) := fun _ wf =>
  word_kor kd ka kb (by show put 11 kb.val (put 16 ka.val (put 21 kd.val 2818572294)) = _; unfold put; omega) wf

theorem word_kxor (kd : KReg) (ka : KReg) (kb : KReg) {w : Nat} (hw : w = 42 * 67108864 + kd.val * 2097152 + ka.val * 65536 + kb.val * 2048 + (7)) (wf : (kd != 0) = true) :
    w < 4294967296 ∧ decodeWord w = .ok (.kxor kd ka kb) := by
  have b11 : kb.val < 8 := kb.isLt
  have b16 : ka.val < 8 := ka.isLt
  have b21 : kd.val < 8 := kd.isLt
  obtain ⟨h26, h21, h16, h11, h0, hlt⟩ := dab (by decide) (by omega) (by omega) (by omega) (by decide) hw
  have f24_2 : fld w 24 2 = 0 := by unfold fld; omega
  have f19_2 : fld w 19 2 = 0 := by unfold fld; omega
  have f14_2 : fld w 14 2 = 0 := by unfold fld; omega
  have f4_7 : fld w 4 7 = 0 := (fld_low11 h0 (by decide)).trans (by decide)
  have f0_4 : fld w 0 4 = 7 := (fld_low11 h0 (by decide)).trans (by decide)
  have e11 : r8 w 11 = kb := r8_eq (by omega)
  have e16 : r8 w 16 = ka := r8_eq (by omega)
  have e21 : r8 w 21 = kd := r8_eq (by omega)
  refine ⟨hlt, ?_⟩
  simp [decodeWord, decVmask, need, h26, f24_2, f19_2, f14_2, f4_7, f0_4, e11, e16, e21, wf]

theorem kxor (kd : KReg) (ka : KReg) (kb : KReg) : Statement (.kxor kd ka kb) := fun _ wf =>
  word_kxor kd ka kb (by show put 11 kb.val (put 16 ka.val (put 21 kd.val 2818572295)) = _; unfold put; omega) wf

theorem word_knot (kd : KReg) (ka : KReg) {w : Nat} (hw : w = 42 * 67108864 + kd.val * 2097152 + ka.val * 65536 + 0 * 2048 + (8)) (wf : (kd != 0) = true) :
    w < 4294967296 ∧ decodeWord w = .ok (.knot kd ka) := by
  have b16 : ka.val < 8 := ka.isLt
  have b21 : kd.val < 8 := kd.isLt
  obtain ⟨h26, h21, h16, h11, h0, hlt⟩ := dab (by decide) (by omega) (by omega) (by decide) (by decide) hw
  have f24_2 : fld w 24 2 = 0 := by unfold fld; omega
  have f19_2 : fld w 19 2 = 0 := by unfold fld; omega
  have f11_5 : fld w 11 5 = 0 := h11
  have f4_7 : fld w 4 7 = 0 := (fld_low11 h0 (by decide)).trans (by decide)
  have f0_4 : fld w 0 4 = 8 := (fld_low11 h0 (by decide)).trans (by decide)
  have e16 : r8 w 16 = ka := r8_eq (by omega)
  have e21 : r8 w 21 = kd := r8_eq (by omega)
  refine ⟨hlt, ?_⟩
  simp [decodeWord, decVmask, need, h26, f24_2, f19_2, f11_5, f4_7, f0_4, e16, e21, wf]

theorem knot (kd : KReg) (ka : KReg) : Statement (.knot kd ka) := fun _ wf =>
  word_knot kd ka (by show put 16 ka.val (put 21 kd.val 2818572296) = _; unfold put; omega) wf

theorem word_kmov (kd : KReg) (ka : KReg) {w : Nat} (hw : w = 42 * 67108864 + kd.val * 2097152 + ka.val * 65536 + 0 * 2048 + (9)) (wf : (kd != 0) = true) :
    w < 4294967296 ∧ decodeWord w = .ok (.kmov kd ka) := by
  have b16 : ka.val < 8 := ka.isLt
  have b21 : kd.val < 8 := kd.isLt
  obtain ⟨h26, h21, h16, h11, h0, hlt⟩ := dab (by decide) (by omega) (by omega) (by decide) (by decide) hw
  have f24_2 : fld w 24 2 = 0 := by unfold fld; omega
  have f19_2 : fld w 19 2 = 0 := by unfold fld; omega
  have f11_5 : fld w 11 5 = 0 := h11
  have f4_7 : fld w 4 7 = 0 := (fld_low11 h0 (by decide)).trans (by decide)
  have f0_4 : fld w 0 4 = 9 := (fld_low11 h0 (by decide)).trans (by decide)
  have e16 : r8 w 16 = ka := r8_eq (by omega)
  have e21 : r8 w 21 = kd := r8_eq (by omega)
  refine ⟨hlt, ?_⟩
  simp [decodeWord, decVmask, need, h26, f24_2, f19_2, f11_5, f4_7, f0_4, e16, e21, wf]

theorem kmov (kd : KReg) (ka : KReg) : Statement (.kmov kd ka) := fun _ wf =>
  word_kmov kd ka (by show put 16 ka.val (put 21 kd.val 2818572297) = _; unfold put; omega) wf

theorem word_kmovFromX (kd : KReg) (a : Reg) {w : Nat} (hw : w = 42 * 67108864 + kd.val * 2097152 + a.val * 65536 + 1 * 2048 + (9)) (wf : (kd != 0) = true) :
    w < 4294967296 ∧ decodeWord w = .ok (.kmovFromX kd a) := by
  have b16 : a.val < 32 := a.isLt
  have b21 : kd.val < 8 := kd.isLt
  obtain ⟨h26, h21, h16, h11, h0, hlt⟩ := dab (by decide) (by omega) (Fin.isLt _) (by decide) (by decide) hw
  have f24_2 : fld w 24 2 = 0 := by unfold fld; omega
  have f11_5 : fld w 11 5 = 1 := h11
  have f4_7 : fld w 4 7 = 0 := (fld_low11 h0 (by decide)).trans (by decide)
  have f0_4 : fld w 0 4 = 9 := (fld_low11 h0 (by decide)).trans (by decide)
  have e16 : rg w 16 = a := rg_eq h16
  have e21 : r8 w 21 = kd := r8_eq (by omega)
  refine ⟨hlt, ?_⟩
  simp [decodeWord, decVmask, need, h26, f24_2, f11_5, f4_7, f0_4, e16, e21, wf]

theorem kmovFromX (kd : KReg) (a : Reg) : Statement (.kmovFromX kd a) := fun _ wf =>
  word_kmovFromX kd a (by show put 16 a.val (put 21 kd.val 2818574345) = _; unfold put; omega) wf

theorem word_kmovToX (d : Reg) (ka : KReg) {w : Nat} (hw : w = 42 * 67108864 + d.val * 2097152 + ka.val * 65536 + 2 * 2048 + (9)) :
    w < 4294967296 ∧ decodeWord w = .ok (.kmovToX d ka) := by
  have b16 : ka.val < 8 := ka.isLt
  have b21 : d.val < 32 := d.isLt
  obtain ⟨h26, h21, h16, h11, h0, hlt⟩ := dab (by decide) (Fin.isLt _) (by omega) (by decide) (by decide) hw
  have f19_2 : fld w 19 2 = 0 := by unfold fld; omega
  have f11_5 : fld w 11 5 = 2 := h11
  have f4_7 : fld w 4 7 = 0 := (fld_low11 h0 (by decide)).trans (by decide)
  have f0_4 : fld w 0 4 = 9 := (fld_low11 h0 (by decide)).trans (by decide)
  have e16 : r8 w 16 = ka := r8_eq (by omega)
  have e21 : rg w 21 = d := rg_eq h21
  refine ⟨hlt, ?_⟩
  simp [decodeWord, decVmask, need, h26, f19_2, f11_5, f4_7, f0_4, e16, e21]

theorem kmovToX (d : Reg) (ka : KReg) : Statement (.kmovToX d ka) := fun _ _ =>
  word_kmovToX d ka (by show put 16 ka.val (put 21 d.val 2818576393) = _; unfold put; omega)

theorem word_vcvt (d : Reg) (a : Reg) (mode : RMode) (part : Fin 4) (t : VT) (src : VT) {w : Nat} (hw : w = 43 * 67108864 + d.val * 2097152 + a.val * 65536 + (mode.code * 8192 + part.val * 2048 + t.code * 16 + src.code)) (wf : (vcvtOk mode part t src) = true) :
    w < 4294967296 ∧ decodeWord w = .ok (.vcvt d a mode part t src) := by
  have v0 := vtOf_code src
  have v4 := vtOf_code t
  have v13 := rmodeOf_code mode
  have b0 : src.code < 14 := VT.code_lt src
  have b4 : t.code < 14 := VT.code_lt t
  have b11 : part.val < 4 := part.isLt
  have b13 : mode.code < 4 := RMode.code_lt mode
  have b16 : a.val < 32 := a.isLt
  have b21 : d.val < 32 := d.isLt
  generalize src.code = c0 at hw b0 v0 v4 v13
  generalize t.code = c4 at hw b4 v0 v4 v13
  generalize mode.code = c13 at hw b13 v0 v4 v13
  obtain ⟨h26, h21, h16, h0, hlt⟩ := dai (by decide) (Fin.isLt _) (Fin.isLt _) (by omega) hw
  have f13_3 : fld w 13 3 = c13 := (fld_low16 h0 (by decide)).trans (by unfold fld; omega)
  have f11_2 : fld w 11 2 = part.val := (fld_low16 h0 (by decide)).trans (by unfold fld; omega)
  have f8_3 : fld w 8 3 = 0 := (fld_low16 h0 (by decide)).trans (by unfold fld; omega)
  have f4_4 : fld w 4 4 = c4 := (fld_low16 h0 (by decide)).trans (by unfold fld; omega)
  have f0_4 : fld w 0 4 = c0 := (fld_low16 h0 (by decide)).trans (by unfold fld; omega)
  have e11 : r4 w 11 = part := Fin.ext (by show w / 2 ^ 11 % 4 = _; omega)
  have e16 : rg w 16 = a := rg_eq h16
  have e21 : rg w 21 = d := rg_eq h21
  have n4 : ¬ c13 = 4 := by omega
  refine ⟨hlt, ?_⟩
  simp [decodeWord, decVcvt, need, fieldOr, h26, f13_3, f11_2, f8_3, f4_4, f0_4, e11, e16, e21, n4, v0, v4, v13, wf]

theorem vcvt (d : Reg) (a : Reg) (mode : RMode) (part : Fin 4) (t : VT) (src : VT) : Statement (.vcvt d a mode part t src) := fun _ wf =>
  word_vcvt d a mode part t src (by show put 0 src.code (put 4 t.code (put 11 part.val (put 13 mode.code (put 16 a.val (put 21 d.val 2885681152))))) = _; unfold put; omega) wf

theorem word_vcvtEf (d : Reg) (a : Reg) (q : QReg) (part : Fin 4) (t : VT) (src : VT) {w : Nat}
    (hw : w = 43 * 67108864 + d.val * 2097152 + a.val * 65536 + (4 * 8192 + part.val * 2048 + q.val * 256 + t.code * 16 + src.code)) (wf : (vcvtEfOk q part t src) = true) :
    w < 4294967296 ∧ decodeWord w = .ok (.vcvtEf d a q part t src) := by
  have v0 := vtOf_code src
  have v4 := vtOf_code t
  have b0 : src.code < 14 := VT.code_lt src
  have b4 : t.code < 14 := VT.code_lt t
  have b8 : q.val < 8 := q.isLt
  have b11 : part.val < 4 := part.isLt
  have b16 : a.val < 32 := a.isLt
  have b21 : d.val < 32 := d.isLt
  generalize src.code = c0 at hw b0 v0 v4
  generalize t.code = c4 at hw b4 v0 v4
  obtain ⟨h26, h21, h16, h0, hlt⟩ := dai (by decide) (Fin.isLt _) (Fin.isLt _) (by omega) hw
  have f13_3 : fld w 13 3 = 4 := (fld_low16 h0 (by decide)).trans (by unfold fld; omega)
  have f11_2 : fld w 11 2 = part.val := (fld_low16 h0 (by decide)).trans (by unfold fld; omega)
  have f4_4 : fld w 4 4 = c4 := (fld_low16 h0 (by decide)).trans (by unfold fld; omega)
  have f0_4 : fld w 0 4 = c0 := (fld_low16 h0 (by decide)).trans (by unfold fld; omega)
  have e8 : r8 w 8 = q := r8_eq ((fld_low16 (k := 3) h0 (by decide)).trans (by unfold fld; omega))
  have e11 : r4 w 11 = part := Fin.ext (by show w / 2 ^ 11 % 4 = _; omega)
  have e16 : rg w 16 = a := rg_eq h16
  have e21 : rg w 21 = d := rg_eq h21
  refine ⟨hlt, ?_⟩
  simp [decodeWord, decVcvt, need, fieldOr, h26, f13_3, f11_2, f4_4, f0_4, e8, e11, e16, e21, v0, v4, wf]

theorem vcvtEf (d : Reg) (a : Reg) (q : QReg) (part : Fin 4) (t : VT) (src : VT) : Statement (.vcvtEf d a q part t src) := fun _ wf =>
  word_vcvtEf d a q part t src (by show put 0 src.code (put 4 t.code (put 8 q.val (put 11 part.val (put 16 a.val (put 21 d.val 2885713920))))) = _; unfold put; omega) wf

theorem word_vredsum (d : Reg) (a : Reg) (m : KReg) (t : VT) {w : Nat} (hw : w = 44 * 67108864 + d.val * 2097152 + a.val * 65536 + 0 * 2048 + (m.val * 256 + t.code * 16)) (wf : (t.isFI) = true) :
    w < 4294967296 ∧ decodeWord w = .ok (.vredsum d a m t) := by
  have v4 := vtOf_code t
  have b4 : t.code < 14 := VT.code_lt t
  have b8 : m.val < 8 := m.isLt
  have b16 : a.val < 32 := a.isLt
  have b21 : d.val < 32 := d.isLt
  generalize t.code = c4 at hw b4 v4
  obtain ⟨h26, h21, h16, h11, h0, hlt⟩ := dab (by decide) (Fin.isLt _) (Fin.isLt _) (by decide) (by omega) hw
  have f11_5 : fld w 11 5 = 0 := h11
  have f4_4 : fld w 4 4 = c4 := (fld_low11 h0 (by decide)).trans (by unfold fld; omega)
  have f0_4 : fld w 0 4 = 0 := (fld_low11 h0 (by decide)).trans (by unfold fld; omega)
  have e8 : r8 w 8 = m := r8_eq ((fld_low11 (k := 3) h0 (by decide)).trans (by unfold fld; omega))
  have e16 : rg w 16 = a := rg_eq h16
  have e21 : rg w 21 = d := rg_eq h21
  refine ⟨hlt, ?_⟩
  simp [decodeWord, decVred, decVec1, need, fieldOr, h26, f11_5, f4_4, f0_4, e8, e16, e21, v4, wf]

theorem vredsum (d : Reg) (a : Reg) (m : KReg) (t : VT) : Statement (.vredsum d a m t) := fun _ wf =>
  word_vredsum d a m t (by show put 4 t.code (put 8 m.val (put 16 a.val (put 21 d.val 2952790016))) = _; unfold put; omega) wf

theorem word_vredmin (d : Reg) (a : Reg) (m : KReg) (t : VT) {w : Nat} (hw : w = 44 * 67108864 + d.val * 2097152 + a.val * 65536 + 0 * 2048 + (m.val * 256 + t.code * 16 + 1)) (wf : (t.isFI) = true) :
    w < 4294967296 ∧ decodeWord w = .ok (.vredmin d a m t) := by
  have v4 := vtOf_code t
  have b4 : t.code < 14 := VT.code_lt t
  have b8 : m.val < 8 := m.isLt
  have b16 : a.val < 32 := a.isLt
  have b21 : d.val < 32 := d.isLt
  generalize t.code = c4 at hw b4 v4
  obtain ⟨h26, h21, h16, h11, h0, hlt⟩ := dab (by decide) (Fin.isLt _) (Fin.isLt _) (by decide) (by omega) hw
  have f11_5 : fld w 11 5 = 0 := h11
  have f4_4 : fld w 4 4 = c4 := (fld_low11 h0 (by decide)).trans (by unfold fld; omega)
  have f0_4 : fld w 0 4 = 1 := (fld_low11 h0 (by decide)).trans (by unfold fld; omega)
  have e8 : r8 w 8 = m := r8_eq ((fld_low11 (k := 3) h0 (by decide)).trans (by unfold fld; omega))
  have e16 : rg w 16 = a := rg_eq h16
  have e21 : rg w 21 = d := rg_eq h21
  refine ⟨hlt, ?_⟩
  simp [decodeWord, decVred, decVec1, need, fieldOr, h26, f11_5, f4_4, f0_4, e8, e16, e21, v4, wf]

theorem vredmin (d : Reg) (a : Reg) (m : KReg) (t : VT) : Statement (.vredmin d a m t) := fun _ wf =>
  word_vredmin d a m t (by show put 4 t.code (put 8 m.val (put 16 a.val (put 21 d.val 2952790017))) = _; unfold put; omega) wf

theorem word_vredmax (d : Reg) (a : Reg) (m : KReg) (t : VT) {w : Nat} (hw : w = 44 * 67108864 + d.val * 2097152 + a.val * 65536 + 0 * 2048 + (m.val * 256 + t.code * 16 + 2)) (wf : (t.isFI) = true) :
    w < 4294967296 ∧ decodeWord w = .ok (.vredmax d a m t) := by
  have v4 := vtOf_code t
  have b4 : t.code < 14 := VT.code_lt t
  have b8 : m.val < 8 := m.isLt
  have b16 : a.val < 32 := a.isLt
  have b21 : d.val < 32 := d.isLt
  generalize t.code = c4 at hw b4 v4
  obtain ⟨h26, h21, h16, h11, h0, hlt⟩ := dab (by decide) (Fin.isLt _) (Fin.isLt _) (by decide) (by omega) hw
  have f11_5 : fld w 11 5 = 0 := h11
  have f4_4 : fld w 4 4 = c4 := (fld_low11 h0 (by decide)).trans (by unfold fld; omega)
  have f0_4 : fld w 0 4 = 2 := (fld_low11 h0 (by decide)).trans (by unfold fld; omega)
  have e8 : r8 w 8 = m := r8_eq ((fld_low11 (k := 3) h0 (by decide)).trans (by unfold fld; omega))
  have e16 : rg w 16 = a := rg_eq h16
  have e21 : rg w 21 = d := rg_eq h21
  refine ⟨hlt, ?_⟩
  simp [decodeWord, decVred, decVec1, need, fieldOr, h26, f11_5, f4_4, f0_4, e8, e16, e21, v4, wf]

theorem vredmax (d : Reg) (a : Reg) (m : KReg) (t : VT) : Statement (.vredmax d a m t) := fun _ wf =>
  word_vredmax d a m t (by show put 4 t.code (put 8 m.val (put 16 a.val (put 21 d.val 2952790018))) = _; unfold put; omega) wf

theorem word_vscanIncl (d : Reg) (a : Reg) (m : KReg) (t : VT) {w : Nat} (hw : w = 44 * 67108864 + d.val * 2097152 + a.val * 65536 + 0 * 2048 + (m.val * 256 + t.code * 16 + 3)) (wf : (t.isFI) = true) :
    w < 4294967296 ∧ decodeWord w = .ok (.vscanIncl d a m t) := by
  have v4 := vtOf_code t
  have b4 : t.code < 14 := VT.code_lt t
  have b8 : m.val < 8 := m.isLt
  have b16 : a.val < 32 := a.isLt
  have b21 : d.val < 32 := d.isLt
  generalize t.code = c4 at hw b4 v4
  obtain ⟨h26, h21, h16, h11, h0, hlt⟩ := dab (by decide) (Fin.isLt _) (Fin.isLt _) (by decide) (by omega) hw
  have f11_5 : fld w 11 5 = 0 := h11
  have f4_4 : fld w 4 4 = c4 := (fld_low11 h0 (by decide)).trans (by unfold fld; omega)
  have f0_4 : fld w 0 4 = 3 := (fld_low11 h0 (by decide)).trans (by unfold fld; omega)
  have e8 : r8 w 8 = m := r8_eq ((fld_low11 (k := 3) h0 (by decide)).trans (by unfold fld; omega))
  have e16 : rg w 16 = a := rg_eq h16
  have e21 : rg w 21 = d := rg_eq h21
  refine ⟨hlt, ?_⟩
  simp [decodeWord, decVred, decVec1, need, fieldOr, h26, f11_5, f4_4, f0_4, e8, e16, e21, v4, wf]

theorem vscanIncl (d : Reg) (a : Reg) (m : KReg) (t : VT) : Statement (.vscanIncl d a m t) := fun _ wf =>
  word_vscanIncl d a m t (by show put 4 t.code (put 8 m.val (put 16 a.val (put 21 d.val 2952790019))) = _; unfold put; omega) wf

theorem word_vscanExcl (d : Reg) (a : Reg) (m : KReg) (t : VT) {w : Nat} (hw : w = 44 * 67108864 + d.val * 2097152 + a.val * 65536 + 1 * 2048 + (m.val * 256 + t.code * 16 + 3)) (wf : (t.isFI) = true) :
    w < 4294967296 ∧ decodeWord w = .ok (.vscanExcl d a m t) := by
  have v4 := vtOf_code t
  have b4 : t.code < 14 := VT.code_lt t
  have b8 : m.val < 8 := m.isLt
  have b16 : a.val < 32 := a.isLt
  have b21 : d.val < 32 := d.isLt
  generalize t.code = c4 at hw b4 v4
  obtain ⟨h26, h21, h16, h11, h0, hlt⟩ := dab (by decide) (Fin.isLt _) (Fin.isLt _) (by decide) (by omega) hw
  have f11_5 : fld w 11 5 = 1 := h11
  have f4_4 : fld w 4 4 = c4 := (fld_low11 h0 (by decide)).trans (by unfold fld; omega)
  have f0_4 : fld w 0 4 = 3 := (fld_low11 h0 (by decide)).trans (by unfold fld; omega)
  have e8 : r8 w 8 = m := r8_eq ((fld_low11 (k := 3) h0 (by decide)).trans (by unfold fld; omega))
  have e16 : rg w 16 = a := rg_eq h16
  have e21 : rg w 21 = d := rg_eq h21
  refine ⟨hlt, ?_⟩
  simp [decodeWord, decVred, decVec1, need, fieldOr, h26, f11_5, f4_4, f0_4, e8, e16, e21, v4, wf]

theorem vscanExcl (d : Reg) (a : Reg) (m : KReg) (t : VT) : Statement (.vscanExcl d a m t) := fun _ wf =>
  word_vscanExcl d a m t (by show put 4 t.code (put 8 m.val (put 16 a.val (put 21 d.val 2952792067))) = _; unfold put; omega) wf

theorem word_vscanCompact (d : Reg) (a : Reg) (m : KReg) (t : VT) {w : Nat} (hw : w = 44 * 67108864 + d.val * 2097152 + a.val * 65536 + 2 * 2048 + (m.val * 256 + t.code * 16 + 3)) :
    w < 4294967296 ∧ decodeWord w = .ok (.vscanCompact d a m t) := by
  have v4 := vtOf_code t
  have b4 : t.code < 14 := VT.code_lt t
  have b8 : m.val < 8 := m.isLt
  have b16 : a.val < 32 := a.isLt
  have b21 : d.val < 32 := d.isLt
  generalize t.code = c4 at hw b4 v4
  obtain ⟨h26, h21, h16, h11, h0, hlt⟩ := dab (by decide) (Fin.isLt _) (Fin.isLt _) (by decide) (by omega) hw
  have f11_5 : fld w 11 5 = 2 := h11
  have f4_4 : fld w 4 4 = c4 := (fld_low11 h0 (by decide)).trans (by unfold fld; omega)
  have f0_4 : fld w 0 4 = 3 := (fld_low11 h0 (by decide)).trans (by unfold fld; omega)
  have e8 : r8 w 8 = m := r8_eq ((fld_low11 (k := 3) h0 (by decide)).trans (by unfold fld; omega))
  have e16 : rg w 16 = a := rg_eq h16
  have e21 : rg w 21 = d := rg_eq h21
  refine ⟨hlt, ?_⟩
  simp [decodeWord, decVred, decVec1, need, fieldOr, h26, f11_5, f4_4, f0_4, e8, e16, e21, v4]

theorem vscanCompact (d : Reg) (a : Reg) (m : KReg) (t : VT) : Statement (.vscanCompact d a m t) := fun _ _ =>
  word_vscanCompact d a m t (by show put 4 t.code (put 8 m.val (put 16 a.val (put 21 d.val 2952794115))) = _; unfold put; omega)

theorem word_vperm (d : Reg) (a : Reg) (b : Reg) (m : KReg) (t : VT) {w : Nat} (hw : w = 45 * 67108864 + d.val * 2097152 + a.val * 65536 + b.val * 2048 + (m.val * 256 + t.code * 16)) :
    w < 4294967296 ∧ decodeWord w = .ok (.vperm d a b m t) := by
  have v4 := vtOf_code t
  have b4 : t.code < 14 := VT.code_lt t
  have b8 : m.val < 8 := m.isLt
  have b11 : b.val < 32 := b.isLt
  have b16 : a.val < 32 := a.isLt
  have b21 : d.val < 32 := d.isLt
  generalize t.code = c4 at hw b4 v4
  obtain ⟨h26, h21, h16, h11, h0, hlt⟩ := dab (by decide) (Fin.isLt _) (Fin.isLt _) (Fin.isLt _) (by omega) hw
  have f4_4 : fld w 4 4 = c4 := (fld_low11 h0 (by decide)).trans (by unfold fld; omega)
  have f0_4 : fld w 0 4 = 0 := (fld_low11 h0 (by decide)).trans (by unfold fld; omega)
  have e8 : r8 w 8 = m := r8_eq ((fld_low11 (k := 3) h0 (by decide)).trans (by unfold fld; omega))
  have e11 : rg w 11 = b := rg_eq h11
  have e16 : rg w 16 = a := rg_eq h16
  have e21 : rg w 21 = d := rg_eq h21
  refine ⟨hlt, ?_⟩
  simp [decodeWord, decVperm, decVec, need, fieldOr, h26, f4_4, f0_4, e8, e11, e16, e21, v4]

theorem vperm (d : Reg) (a : Reg) (b : Reg) (m : KReg) (t : VT) : Statement (.vperm d a b m t) := fun _ _ =>
  word_vperm d a b m t (by show put 4 t.code (put 8 m.val (put 11 b.val (put 16 a.val (put 21 d.val 3019898880)))) = _; unfold put; omega)

theorem word_vbcast (d : Reg) (a : Reg) (m : KReg) (t : VT) {w : Nat} (hw : w = 45 * 67108864 + d.val * 2097152 + a.val * 65536 + 0 * 2048 + (m.val * 256 + t.code * 16 + 1)) :
    w < 4294967296 ∧ decodeWord w = .ok (.vbcast d a m t) := by
  have v4 := vtOf_code t
  have b4 : t.code < 14 := VT.code_lt t
  have b8 : m.val < 8 := m.isLt
  have b16 : a.val < 32 := a.isLt
  have b21 : d.val < 32 := d.isLt
  generalize t.code = c4 at hw b4 v4
  obtain ⟨h26, h21, h16, h11, h0, hlt⟩ := dab (by decide) (Fin.isLt _) (Fin.isLt _) (by decide) (by omega) hw
  have f11_5 : fld w 11 5 = 0 := h11
  have f4_4 : fld w 4 4 = c4 := (fld_low11 h0 (by decide)).trans (by unfold fld; omega)
  have f0_4 : fld w 0 4 = 1 := (fld_low11 h0 (by decide)).trans (by unfold fld; omega)
  have e8 : r8 w 8 = m := r8_eq ((fld_low11 (k := 3) h0 (by decide)).trans (by unfold fld; omega))
  have e16 : rg w 16 = a := rg_eq h16
  have e21 : rg w 21 = d := rg_eq h21
  refine ⟨hlt, ?_⟩
  simp [decodeWord, decVperm, decVec1, need, fieldOr, h26, f11_5, f4_4, f0_4, e8, e16, e21, v4]

theorem vbcast (d : Reg) (a : Reg) (m : KReg) (t : VT) : Statement (.vbcast d a m t) := fun _ _ =>
  word_vbcast d a m t (by show put 4 t.code (put 8 m.val (put 16 a.val (put 21 d.val 3019898881))) = _; unfold put; omega)

theorem word_vslide (d : Reg) (a : Reg) (b : Reg) (m : KReg) (t : VT) {w : Nat} (hw : w = 45 * 67108864 + d.val * 2097152 + a.val * 65536 + b.val * 2048 + (m.val * 256 + t.code * 16 + 2)) :
    w < 4294967296 ∧ decodeWord w = .ok (.vslide d a b m t) := by
  have v4 := vtOf_code t
  have b4 : t.code < 14 := VT.code_lt t
  have b8 : m.val < 8 := m.isLt
  have b11 : b.val < 32 := b.isLt
  have b16 : a.val < 32 := a.isLt
  have b21 : d.val < 32 := d.isLt
  generalize t.code = c4 at hw b4 v4
  obtain ⟨h26, h21, h16, h11, h0, hlt⟩ := dab (by decide) (Fin.isLt _) (Fin.isLt _) (Fin.isLt _) (by omega) hw
  have f4_4 : fld w 4 4 = c4 := (fld_low11 h0 (by decide)).trans (by unfold fld; omega)
  have f0_4 : fld w 0 4 = 2 := (fld_low11 h0 (by decide)).trans (by unfold fld; omega)
  have e8 : r8 w 8 = m := r8_eq ((fld_low11 (k := 3) h0 (by decide)).trans (by unfold fld; omega))
  have e11 : rg w 11 = b := rg_eq h11
  have e16 : rg w 16 = a := rg_eq h16
  have e21 : rg w 21 = d := rg_eq h21
  refine ⟨hlt, ?_⟩
  simp [decodeWord, decVperm, decVec, need, fieldOr, h26, f4_4, f0_4, e8, e11, e16, e21, v4]

theorem vslide (d : Reg) (a : Reg) (b : Reg) (m : KReg) (t : VT) : Statement (.vslide d a b m t) := fun _ _ =>
  word_vslide d a b m t (by show put 4 t.code (put 8 m.val (put 11 b.val (put 16 a.val (put 21 d.val 3019898882)))) = _; unfold put; omega)

theorem word_vzip (d : Reg) (a : Reg) (b : Reg) (t : VT) {w : Nat} (hw : w = 45 * 67108864 + d.val * 2097152 + a.val * 65536 + b.val * 2048 + (t.code * 16 + 3)) (wf : (d.val % 2 == 0) = true) :
    w < 4294967296 ∧ decodeWord w = .ok (.vzip d a b t) := by
  have v4 := vtOf_code t
  have b4 : t.code < 14 := VT.code_lt t
  have b11 : b.val < 32 := b.isLt
  have b16 : a.val < 32 := a.isLt
  have b21 : d.val < 32 := d.isLt
  generalize t.code = c4 at hw b4 v4
  obtain ⟨h26, h21, h16, h11, h0, hlt⟩ := dab (by decide) (Fin.isLt _) (Fin.isLt _) (Fin.isLt _) (by omega) hw
  have f8_3 : fld w 8 3 = 0 := (fld_low11 h0 (by decide)).trans (by unfold fld; omega)
  have f4_4 : fld w 4 4 = c4 := (fld_low11 h0 (by decide)).trans (by unfold fld; omega)
  have f0_4 : fld w 0 4 = 3 := (fld_low11 h0 (by decide)).trans (by unfold fld; omega)
  have e11 : rg w 11 = b := rg_eq h11
  have e16 : rg w 16 = a := rg_eq h16
  have e21 : rg w 21 = d := rg_eq h21
  have f21_1 : fld w 21 1 = 0 := by have := eq_of_beq wf; unfold fld; omega
  refine ⟨hlt, ?_⟩
  simp [decodeWord, decVperm, decVec0, need, fieldOr, h26, f8_3, f4_4, f0_4, e11, e16, e21, f21_1, v4, wf]

theorem vzip (d : Reg) (a : Reg) (b : Reg) (t : VT) : Statement (.vzip d a b t) := fun _ wf =>
  word_vzip d a b t (by show put 4 t.code (put 11 b.val (put 16 a.val (put 21 d.val 3019898883))) = _; unfold put; omega) wf

theorem word_vunzip (d : Reg) (a : Reg) (b : Reg) (t : VT) {w : Nat} (hw : w = 45 * 67108864 + d.val * 2097152 + a.val * 65536 + b.val * 2048 + (t.code * 16 + 4)) (wf : (d.val % 2 == 0) = true) :
    w < 4294967296 ∧ decodeWord w = .ok (.vunzip d a b t) := by
  have v4 := vtOf_code t
  have b4 : t.code < 14 := VT.code_lt t
  have b11 : b.val < 32 := b.isLt
  have b16 : a.val < 32 := a.isLt
  have b21 : d.val < 32 := d.isLt
  generalize t.code = c4 at hw b4 v4
  obtain ⟨h26, h21, h16, h11, h0, hlt⟩ := dab (by decide) (Fin.isLt _) (Fin.isLt _) (Fin.isLt _) (by omega) hw
  have f8_3 : fld w 8 3 = 0 := (fld_low11 h0 (by decide)).trans (by unfold fld; omega)
  have f4_4 : fld w 4 4 = c4 := (fld_low11 h0 (by decide)).trans (by unfold fld; omega)
  have f0_4 : fld w 0 4 = 4 := (fld_low11 h0 (by decide)).trans (by unfold fld; omega)
  have e11 : rg w 11 = b := rg_eq h11
  have e16 : rg w 16 = a := rg_eq h16
  have e21 : rg w 21 = d := rg_eq h21
  have f21_1 : fld w 21 1 = 0 := by have := eq_of_beq wf; unfold fld; omega
  refine ⟨hlt, ?_⟩
  simp [decodeWord, decVperm, decVec0, need, fieldOr, h26, f8_3, f4_4, f0_4, e11, e16, e21, f21_1, v4, wf]

theorem vunzip (d : Reg) (a : Reg) (b : Reg) (t : VT) : Statement (.vunzip d a b t) := fun _ wf =>
  word_vunzip d a b t (by show put 4 t.code (put 11 b.val (put 16 a.val (put 21 d.val 3019898884))) = _; unfold put; omega) wf

theorem word_vmovx (d : Reg) (a : Reg) (b : Reg) (t : VT) {w : Nat} (hw : w = 45 * 67108864 + d.val * 2097152 + a.val * 65536 + b.val * 2048 + (t.code * 16 + 5)) :
    w < 4294967296 ∧ decodeWord w = .ok (.vmovx d a b t) := by
  have v4 := vtOf_code t
  have b4 : t.code < 14 := VT.code_lt t
  have b11 : b.val < 32 := b.isLt
  have b16 : a.val < 32 := a.isLt
  have b21 : d.val < 32 := d.isLt
  generalize t.code = c4 at hw b4 v4
  obtain ⟨h26, h21, h16, h11, h0, hlt⟩ := dab (by decide) (Fin.isLt _) (Fin.isLt _) (Fin.isLt _) (by omega) hw
  have f8_3 : fld w 8 3 = 0 := (fld_low11 h0 (by decide)).trans (by unfold fld; omega)
  have f4_4 : fld w 4 4 = c4 := (fld_low11 h0 (by decide)).trans (by unfold fld; omega)
  have f0_4 : fld w 0 4 = 5 := (fld_low11 h0 (by decide)).trans (by unfold fld; omega)
  have e11 : rg w 11 = b := rg_eq h11
  have e16 : rg w 16 = a := rg_eq h16
  have e21 : rg w 21 = d := rg_eq h21
  refine ⟨hlt, ?_⟩
  simp [decodeWord, decVperm, decVec0, need, fieldOr, h26, f8_3, f4_4, f0_4, e11, e16, e21, v4]

theorem vmovx (d : Reg) (a : Reg) (b : Reg) (t : VT) : Statement (.vmovx d a b t) := fun _ _ =>
  word_vmovx d a b t (by show put 4 t.code (put 11 b.val (put 16 a.val (put 21 d.val 3019898885))) = _; unfold put; omega)

theorem word_vmovv (d : Reg) (a : Reg) (b : Reg) (t : VT) {w : Nat} (hw : w = 45 * 67108864 + d.val * 2097152 + a.val * 65536 + b.val * 2048 + (t.code * 16 + 6)) :
    w < 4294967296 ∧ decodeWord w = .ok (.vmovv d a b t) := by
  have v4 := vtOf_code t
  have b4 : t.code < 14 := VT.code_lt t
  have b11 : b.val < 32 := b.isLt
  have b16 : a.val < 32 := a.isLt
  have b21 : d.val < 32 := d.isLt
  generalize t.code = c4 at hw b4 v4
  obtain ⟨h26, h21, h16, h11, h0, hlt⟩ := dab (by decide) (Fin.isLt _) (Fin.isLt _) (Fin.isLt _) (by omega) hw
  have f8_3 : fld w 8 3 = 0 := (fld_low11 h0 (by decide)).trans (by unfold fld; omega)
  have f4_4 : fld w 4 4 = c4 := (fld_low11 h0 (by decide)).trans (by unfold fld; omega)
  have f0_4 : fld w 0 4 = 6 := (fld_low11 h0 (by decide)).trans (by unfold fld; omega)
  have e11 : rg w 11 = b := rg_eq h11
  have e16 : rg w 16 = a := rg_eq h16
  have e21 : rg w 21 = d := rg_eq h21
  refine ⟨hlt, ?_⟩
  simp [decodeWord, decVperm, decVec0, need, fieldOr, h26, f8_3, f4_4, f0_4, e11, e16, e21, v4]

theorem vmovv (d : Reg) (a : Reg) (b : Reg) (t : VT) : Statement (.vmovv d a b t) := fun _ _ =>
  word_vmovv d a b t (by show put 4 t.code (put 11 b.val (put 16 a.val (put 21 d.val 3019898886))) = _; unfold put; omega)

theorem word_vaddx (d : Reg) (a : Reg) (b : Reg) (m : KReg) (t : VT) {w : Nat} (hw : w = 46 * 67108864 + d.val * 2097152 + a.val * 65536 + b.val * 2048 + (m.val * 256 + t.code * 16)) (wf : (t.isFI) = true) :
    w < 4294967296 ∧ decodeWord w = .ok (.vaddx d a b m t) := by
  have v4 := vtOf_code t
  have b4 : t.code < 14 := VT.code_lt t
  have b8 : m.val < 8 := m.isLt
  have b11 : b.val < 32 := b.isLt
  have b16 : a.val < 32 := a.isLt
  have b21 : d.val < 32 := d.isLt
  generalize t.code = c4 at hw b4 v4
  obtain ⟨h26, h21, h16, h11, h0, hlt⟩ := dab (by decide) (Fin.isLt _) (Fin.isLt _) (Fin.isLt _) (by omega) hw
  have f4_4 : fld w 4 4 = c4 := (fld_low11 h0 (by decide)).trans (by unfold fld; omega)
  have f0_4 : fld w 0 4 = 0 := (fld_low11 h0 (by decide)).trans (by unfold fld; omega)
  have e8 : r8 w 8 = m := r8_eq ((fld_low11 (k := 3) h0 (by decide)).trans (by unfold fld; omega))
  have e11 : rg w 11 = b := rg_eq h11
  have e16 : rg w 16 = a := rg_eq h16
  have e21 : rg w 21 = d := rg_eq h21
  refine ⟨hlt, ?_⟩
  simp [decodeWord, decVx, decVec, need, fieldOr, h26, f4_4, f0_4, e8, e11, e16, e21, v4, wf]

theorem vaddx (d : Reg) (a : Reg) (b : Reg) (m : KReg) (t : VT) : Statement (.vaddx d a b m t) := fun _ wf =>
  word_vaddx d a b m t (by show put 4 t.code (put 8 m.val (put 11 b.val (put 16 a.val (put 21 d.val 3087007744)))) = _; unfold put; omega) wf

theorem word_vsubx (d : Reg) (a : Reg) (b : Reg) (m : KReg) (t : VT) {w : Nat} (hw : w = 46 * 67108864 + d.val * 2097152 + a.val * 65536 + b.val * 2048 + (m.val * 256 + t.code * 16 + 1)) (wf : (t.isFI) = true) :
    w < 4294967296 ∧ decodeWord w = .ok (.vsubx d a b m t) := by
  have v4 := vtOf_code t
  have b4 : t.code < 14 := VT.code_lt t
  have b8 : m.val < 8 := m.isLt
  have b11 : b.val < 32 := b.isLt
  have b16 : a.val < 32 := a.isLt
  have b21 : d.val < 32 := d.isLt
  generalize t.code = c4 at hw b4 v4
  obtain ⟨h26, h21, h16, h11, h0, hlt⟩ := dab (by decide) (Fin.isLt _) (Fin.isLt _) (Fin.isLt _) (by omega) hw
  have f4_4 : fld w 4 4 = c4 := (fld_low11 h0 (by decide)).trans (by unfold fld; omega)
  have f0_4 : fld w 0 4 = 1 := (fld_low11 h0 (by decide)).trans (by unfold fld; omega)
  have e8 : r8 w 8 = m := r8_eq ((fld_low11 (k := 3) h0 (by decide)).trans (by unfold fld; omega))
  have e11 : rg w 11 = b := rg_eq h11
  have e16 : rg w 16 = a := rg_eq h16
  have e21 : rg w 21 = d := rg_eq h21
  refine ⟨hlt, ?_⟩
  simp [decodeWord, decVx, decVec, need, fieldOr, h26, f4_4, f0_4, e8, e11, e16, e21, v4, wf]

theorem vsubx (d : Reg) (a : Reg) (b : Reg) (m : KReg) (t : VT) : Statement (.vsubx d a b m t) := fun _ wf =>
  word_vsubx d a b m t (by show put 4 t.code (put 8 m.val (put 11 b.val (put 16 a.val (put 21 d.val 3087007745)))) = _; unfold put; omega) wf

theorem word_vmulx (d : Reg) (a : Reg) (b : Reg) (m : KReg) (t : VT) {w : Nat} (hw : w = 46 * 67108864 + d.val * 2097152 + a.val * 65536 + b.val * 2048 + (m.val * 256 + t.code * 16 + 2)) (wf : (t.isFI) = true) :
    w < 4294967296 ∧ decodeWord w = .ok (.vmulx d a b m t) := by
  have v4 := vtOf_code t
  have b4 : t.code < 14 := VT.code_lt t
  have b8 : m.val < 8 := m.isLt
  have b11 : b.val < 32 := b.isLt
  have b16 : a.val < 32 := a.isLt
  have b21 : d.val < 32 := d.isLt
  generalize t.code = c4 at hw b4 v4
  obtain ⟨h26, h21, h16, h11, h0, hlt⟩ := dab (by decide) (Fin.isLt _) (Fin.isLt _) (Fin.isLt _) (by omega) hw
  have f4_4 : fld w 4 4 = c4 := (fld_low11 h0 (by decide)).trans (by unfold fld; omega)
  have f0_4 : fld w 0 4 = 2 := (fld_low11 h0 (by decide)).trans (by unfold fld; omega)
  have e8 : r8 w 8 = m := r8_eq ((fld_low11 (k := 3) h0 (by decide)).trans (by unfold fld; omega))
  have e11 : rg w 11 = b := rg_eq h11
  have e16 : rg w 16 = a := rg_eq h16
  have e21 : rg w 21 = d := rg_eq h21
  refine ⟨hlt, ?_⟩
  simp [decodeWord, decVx, decVec, need, fieldOr, h26, f4_4, f0_4, e8, e11, e16, e21, v4, wf]

theorem vmulx (d : Reg) (a : Reg) (b : Reg) (m : KReg) (t : VT) : Statement (.vmulx d a b m t) := fun _ wf =>
  word_vmulx d a b m t (by show put 4 t.code (put 8 m.val (put 11 b.val (put 16 a.val (put 21 d.val 3087007746)))) = _; unfold put; omega) wf

theorem word_vfmax (d : Reg) (a : Reg) (b : Reg) (m : KReg) (t : VT) {w : Nat} (hw : w = 46 * 67108864 + d.val * 2097152 + a.val * 65536 + b.val * 2048 + (m.val * 256 + t.code * 16 + 3)) (wf : (t.isF) = true) :
    w < 4294967296 ∧ decodeWord w = .ok (.vfmax d a b m t) := by
  have v4 := vtOf_code t
  have b4 : t.code < 14 := VT.code_lt t
  have b8 : m.val < 8 := m.isLt
  have b11 : b.val < 32 := b.isLt
  have b16 : a.val < 32 := a.isLt
  have b21 : d.val < 32 := d.isLt
  generalize t.code = c4 at hw b4 v4
  obtain ⟨h26, h21, h16, h11, h0, hlt⟩ := dab (by decide) (Fin.isLt _) (Fin.isLt _) (Fin.isLt _) (by omega) hw
  have f4_4 : fld w 4 4 = c4 := (fld_low11 h0 (by decide)).trans (by unfold fld; omega)
  have f0_4 : fld w 0 4 = 3 := (fld_low11 h0 (by decide)).trans (by unfold fld; omega)
  have e8 : r8 w 8 = m := r8_eq ((fld_low11 (k := 3) h0 (by decide)).trans (by unfold fld; omega))
  have e11 : rg w 11 = b := rg_eq h11
  have e16 : rg w 16 = a := rg_eq h16
  have e21 : rg w 21 = d := rg_eq h21
  refine ⟨hlt, ?_⟩
  simp [decodeWord, decVx, decVec, need, fieldOr, h26, f4_4, f0_4, e8, e11, e16, e21, v4, wf]

theorem vfmax (d : Reg) (a : Reg) (b : Reg) (m : KReg) (t : VT) : Statement (.vfmax d a b m t) := fun _ wf =>
  word_vfmax d a b m t (by show put 4 t.code (put 8 m.val (put 11 b.val (put 16 a.val (put 21 d.val 3087007747)))) = _; unfold put; omega) wf

theorem word_vminx (d : Reg) (a : Reg) (b : Reg) (m : KReg) (t : VT) {w : Nat} (hw : w = 46 * 67108864 + d.val * 2097152 + a.val * 65536 + b.val * 2048 + (m.val * 256 + t.code * 16 + 4)) (wf : (t.isFI) = true) :
    w < 4294967296 ∧ decodeWord w = .ok (.vminx d a b m t) := by
  have v4 := vtOf_code t
  have b4 : t.code < 14 := VT.code_lt t
  have b8 : m.val < 8 := m.isLt
  have b11 : b.val < 32 := b.isLt
  have b16 : a.val < 32 := a.isLt
  have b21 : d.val < 32 := d.isLt
  generalize t.code = c4 at hw b4 v4
  obtain ⟨h26, h21, h16, h11, h0, hlt⟩ := dab (by decide) (Fin.isLt _) (Fin.isLt _) (Fin.isLt _) (by omega) hw
  have f4_4 : fld w 4 4 = c4 := (fld_low11 h0 (by decide)).trans (by unfold fld; omega)
  have f0_4 : fld w 0 4 = 4 := (fld_low11 h0 (by decide)).trans (by unfold fld; omega)
  have e8 : r8 w 8 = m := r8_eq ((fld_low11 (k := 3) h0 (by decide)).trans (by unfold fld; omega))
  have e11 : rg w 11 = b := rg_eq h11
  have e16 : rg w 16 = a := rg_eq h16
  have e21 : rg w 21 = d := rg_eq h21
  refine ⟨hlt, ?_⟩
  simp [decodeWord, decVx, decVec, need, fieldOr, h26, f4_4, f0_4, e8, e11, e16, e21, v4, wf]

theorem vminx (d : Reg) (a : Reg) (b : Reg) (m : KReg) (t : VT) : Statement (.vminx d a b m t) := fun _ wf =>
  word_vminx d a b m t (by show put 4 t.code (put 8 m.val (put 11 b.val (put 16 a.val (put 21 d.val 3087007748)))) = _; unfold put; omega) wf

theorem word_vmaxx (d : Reg) (a : Reg) (b : Reg) (m : KReg) (t : VT) {w : Nat} (hw : w = 46 * 67108864 + d.val * 2097152 + a.val * 65536 + b.val * 2048 + (m.val * 256 + t.code * 16 + 5)) (wf : (t.isFI) = true) :
    w < 4294967296 ∧ decodeWord w = .ok (.vmaxx d a b m t) := by
  have v4 := vtOf_code t
  have b4 : t.code < 14 := VT.code_lt t
  have b8 : m.val < 8 := m.isLt
  have b11 : b.val < 32 := b.isLt
  have b16 : a.val < 32 := a.isLt
  have b21 : d.val < 32 := d.isLt
  generalize t.code = c4 at hw b4 v4
  obtain ⟨h26, h21, h16, h11, h0, hlt⟩ := dab (by decide) (Fin.isLt _) (Fin.isLt _) (Fin.isLt _) (by omega) hw
  have f4_4 : fld w 4 4 = c4 := (fld_low11 h0 (by decide)).trans (by unfold fld; omega)
  have f0_4 : fld w 0 4 = 5 := (fld_low11 h0 (by decide)).trans (by unfold fld; omega)
  have e8 : r8 w 8 = m := r8_eq ((fld_low11 (k := 3) h0 (by decide)).trans (by unfold fld; omega))
  have e11 : rg w 11 = b := rg_eq h11
  have e16 : rg w 16 = a := rg_eq h16
  have e21 : rg w 21 = d := rg_eq h21
  refine ⟨hlt, ?_⟩
  simp [decodeWord, decVx, decVec, need, fieldOr, h26, f4_4, f0_4, e8, e11, e16, e21, v4, wf]

theorem vmaxx (d : Reg) (a : Reg) (b : Reg) (m : KReg) (t : VT) : Statement (.vmaxx d a b m t) := fun _ wf =>
  word_vmaxx d a b m t (by show put 4 t.code (put 8 m.val (put 11 b.val (put 16 a.val (put 21 d.val 3087007749)))) = _; unfold put; omega) wf

theorem word_mgw (a : Reg) (n : R16) {w : Nat} (hw : w = 48 * 67108864 + 0 * 2097152 + 1 * 65536 + a.val * 2048 + (n.val)) :
    w < 4294967296 ∧ decodeWord w = .ok (.mgw a n) := by
  have b0 : n.val < 16 := n.isLt
  have b11 : a.val < 32 := a.isLt
  obtain ⟨h26, h21, h16, h11, h0, hlt⟩ := dab (by decide) (by decide) (by decide) (Fin.isLt _) (by omega) hw
  have f22_4 : fld w 22 4 = 0 := by unfold fld; omega
  have f16_6 : fld w 16 6 = 1 := by unfold fld; omega
  have f6_5 : fld w 6 5 = 0 := (fld_low11 h0 (by decide)).trans (by unfold fld; omega)
  have f4_2 : fld w 4 2 = 0 := (fld_low11 h0 (by decide)).trans (by unfold fld; omega)
  have e0 : r16 w 0 = n := r16_eq ((fld_low11 (k := 4) h0 (by decide)).trans (by unfold fld; omega))
  have e11 : rg w 11 = a := rg_eq h11
  refine ⟨hlt, ?_⟩
  simp [decodeWord, decEng, need, h26, f22_4, f16_6, f6_5, f4_2, e0, e11]

theorem mgw (a : Reg) (n : R16) : Statement (.mgw a n) := fun _ _ =>
  word_mgw a n (by show put 0 n.val (put 11 a.val 3221291008) = _; unfold put; omega)

theorem word_mgr (d : Reg) (n : R16) {w : Nat} (hw : w = 48 * 67108864 + 0 * 2097152 + 2 * 65536 + d.val * 2048 + (n.val)) :
    w < 4294967296 ∧ decodeWord w = .ok (.mgr d n) := by
  have b0 : n.val < 16 := n.isLt
  have b11 : d.val < 32 := d.isLt
  obtain ⟨h26, h21, h16, h11, h0, hlt⟩ := dab (by decide) (by decide) (by decide) (Fin.isLt _) (by omega) hw
  have f22_4 : fld w 22 4 = 0 := by unfold fld; omega
  have f16_6 : fld w 16 6 = 2 := by unfold fld; omega
  have f6_5 : fld w 6 5 = 0 := (fld_low11 h0 (by decide)).trans (by unfold fld; omega)
  have f4_2 : fld w 4 2 = 0 := (fld_low11 h0 (by decide)).trans (by unfold fld; omega)
  have e0 : r16 w 0 = n := r16_eq ((fld_low11 (k := 4) h0 (by decide)).trans (by unfold fld; omega))
  have e11 : rg w 11 = d := rg_eq h11
  refine ⟨hlt, ?_⟩
  simp [decodeWord, decEng, need, h26, f22_4, f16_6, f6_5, f4_2, e0, e11]

theorem mgr (d : Reg) (n : R16) : Statement (.mgr d n) := fun _ _ =>
  word_mgr d n (by show put 0 n.val (put 11 d.val 3221356544) = _; unfold put; omega)

theorem word_mclaim (a : Reg) {w : Nat} (hw : w = 48 * 67108864 + 0 * 2097152 + 3 * 65536 + a.val * 2048 + (0)) :
    w < 4294967296 ∧ decodeWord w = .ok (.mclaim a) := by
  have b11 : a.val < 32 := a.isLt
  obtain ⟨h26, h21, h16, h11, h0, hlt⟩ := dab (by decide) (by decide) (by decide) (Fin.isLt _) (by decide) hw
  have f22_4 : fld w 22 4 = 0 := by unfold fld; omega
  have f16_6 : fld w 16 6 = 3 := by unfold fld; omega
  have f6_5 : fld w 6 5 = 0 := (fld_low11 h0 (by decide)).trans (by decide)
  have f0_6 : fld w 0 6 = 0 := (fld_low11 h0 (by decide)).trans (by decide)
  have e11 : rg w 11 = a := rg_eq h11
  refine ⟨hlt, ?_⟩
  simp [decodeWord, decEng, need, h26, f22_4, f16_6, f6_5, f0_6, e11]

theorem mclaim (a : Reg) : Statement (.mclaim a) := fun _ _ =>
  word_mclaim a (by show put 11 a.val 3221422080 = _; unfold put; omega)

theorem word_mrel (a : Reg) {w : Nat} (hw : w = 48 * 67108864 + 0 * 2097152 + 4 * 65536 + a.val * 2048 + (0)) :
    w < 4294967296 ∧ decodeWord w = .ok (.mrel a) := by
  have b11 : a.val < 32 := a.isLt
  obtain ⟨h26, h21, h16, h11, h0, hlt⟩ := dab (by decide) (by decide) (by decide) (Fin.isLt _) (by decide) hw
  have f22_4 : fld w 22 4 = 0 := by unfold fld; omega
  have f16_6 : fld w 16 6 = 4 := by unfold fld; omega
  have f6_5 : fld w 6 5 = 0 := (fld_low11 h0 (by decide)).trans (by decide)
  have f0_6 : fld w 0 6 = 0 := (fld_low11 h0 (by decide)).trans (by decide)
  have e11 : rg w 11 = a := rg_eq h11
  refine ⟨hlt, ?_⟩
  simp [decodeWord, decEng, need, h26, f22_4, f16_6, f6_5, f0_6, e11]

theorem mrel (a : Reg) : Statement (.mrel a) := fun _ _ =>
  word_mrel a (by show put 11 a.val 3221487616 = _; unfold put; omega)

theorem word_mmac (a : Reg) (b : Reg) (g : Fin 8) {w : Nat} (hw : w = 48 * 67108864 + 0 * 2097152 + 5 * 65536 + a.val * 2048 + (b.val * 64 + g.val)) :
    w < 4294967296 ∧ decodeWord w = .ok (.mmac a b g) := by
  have b0 : g.val < 8 := g.isLt
  have b6 : b.val < 32 := b.isLt
  have b11 : a.val < 32 := a.isLt
  obtain ⟨h26, h21, h16, h11, h0, hlt⟩ := dab (by decide) (by decide) (by decide) (Fin.isLt _) (by omega) hw
  have f22_4 : fld w 22 4 = 0 := by unfold fld; omega
  have f16_6 : fld w 16 6 = 5 := by unfold fld; omega
  have f3_3 : fld w 3 3 = 0 := (fld_low11 h0 (by decide)).trans (by unfold fld; omega)
  have e0 : r8 w 0 = g := r8_eq ((fld_low11 (k := 3) h0 (by decide)).trans (by unfold fld; omega))
  have e6 : rg w 6 = b := rg_eq ((fld_low11 (k := 5) h0 (by decide)).trans (by unfold fld; omega))
  have e11 : rg w 11 = a := rg_eq h11
  refine ⟨hlt, ?_⟩
  simp [decodeWord, decEng, need, h26, f22_4, f16_6, f3_3, e0, e6, e11]

theorem mmac (a : Reg) (b : Reg) (g : Fin 8) : Statement (.mmac a b g) := fun _ _ =>
  word_mmac a b g (by show put 0 g.val (put 6 b.val (put 11 a.val 3221553152)) = _; unfold put; omega)

theorem word_mcommit {w : Nat} (hw : w = 48 * 67108864 + 0 * 2097152 + 6 * 65536 + 0 * 2048 + (0)) :
    w < 4294967296 ∧ decodeWord w = .ok (.mcommit) := by
  obtain ⟨h26, h21, h16, h11, h0, hlt⟩ := dab (by decide) (by decide) (by decide) (by decide) (by decide) hw
  have f22_4 : fld w 22 4 = 0 := by unfold fld; omega
  have f16_6 : fld w 16 6 = 6 := by unfold fld; omega
  have f11_5 : fld w 11 5 = 0 := h11
  have f6_5 : fld w 6 5 = 0 := (fld_low11 h0 (by decide)).trans (by decide)
  have f0_6 : fld w 0 6 = 0 := (fld_low11 h0 (by decide)).trans (by decide)
  refine ⟨hlt, ?_⟩
  simp [decodeWord, decEng, need, h26, f22_4, f16_6, f11_5, f6_5, f0_6]

theorem mcommit : Statement (.mcommit) := fun _ _ =>
  word_mcommit  (by show 3221618688 = _; rfl)

theorem word_mwaitb (a : Reg) {w : Nat} (hw : w = 48 * 67108864 + 0 * 2097152 + 7 * 65536 + a.val * 2048 + (0)) :
    w < 4294967296 ∧ decodeWord w = .ok (.mwaitb a) := by
  have b11 : a.val < 32 := a.isLt
  obtain ⟨h26, h21, h16, h11, h0, hlt⟩ := dab (by decide) (by decide) (by decide) (Fin.isLt _) (by decide) hw
  have f22_4 : fld w 22 4 = 0 := by unfold fld; omega
  have f16_6 : fld w 16 6 = 7 := by unfold fld; omega
  have f6_5 : fld w 6 5 = 0 := (fld_low11 h0 (by decide)).trans (by decide)
  have f0_6 : fld w 0 6 = 0 := (fld_low11 h0 (by decide)).trans (by decide)
  have e11 : rg w 11 = a := rg_eq h11
  refine ⟨hlt, ?_⟩
  simp [decodeWord, decEng, need, h26, f22_4, f16_6, f6_5, f0_6, e11]

theorem mwaitb (a : Reg) : Statement (.mwaitb a) := fun _ _ =>
  word_mwaitb a (by show put 11 a.val 3221684224 = _; unfold put; omega)

theorem word_mread (a : Reg) (v : Reg) (c : Fin 8) {w : Nat} (hw : w = 48 * 67108864 + 0 * 2097152 + 8 * 65536 + a.val * 2048 + (v.val * 64 + c.val)) :
    w < 4294967296 ∧ decodeWord w = .ok (.mread a v c) := by
  have b0 : c.val < 8 := c.isLt
  have b6 : v.val < 32 := v.isLt
  have b11 : a.val < 32 := a.isLt
  obtain ⟨h26, h21, h16, h11, h0, hlt⟩ := dab (by decide) (by decide) (by decide) (Fin.isLt _) (by omega) hw
  have f22_4 : fld w 22 4 = 0 := by unfold fld; omega
  have f16_6 : fld w 16 6 = 8 := by unfold fld; omega
  have f3_3 : fld w 3 3 = 0 := (fld_low11 h0 (by decide)).trans (by unfold fld; omega)
  have e0 : r8 w 0 = c := r8_eq ((fld_low11 (k := 3) h0 (by decide)).trans (by unfold fld; omega))
  have e6 : rg w 6 = v := rg_eq ((fld_low11 (k := 5) h0 (by decide)).trans (by unfold fld; omega))
  have e11 : rg w 11 = a := rg_eq h11
  refine ⟨hlt, ?_⟩
  simp [decodeWord, decEng, need, h26, f22_4, f16_6, f3_3, e0, e6, e11]

theorem mread (a : Reg) (v : Reg) (c : Fin 8) : Statement (.mread a v c) := fun _ _ =>
  word_mread a v c (by show put 0 c.val (put 6 v.val (put 11 a.val 3221749760)) = _; unfold put; omega)

theorem word_mwrite (a : Reg) (v : Reg) (c : Fin 8) {w : Nat} (hw : w = 48 * 67108864 + 0 * 2097152 + 9 * 65536 + a.val * 2048 + (v.val * 64 + c.val)) :
    w < 4294967296 ∧ decodeWord w = .ok (.mwrite a v c) := by
  have b0 : c.val < 8 := c.isLt
  have b6 : v.val < 32 := v.isLt
  have b11 : a.val < 32 := a.isLt
  obtain ⟨h26, h21, h16, h11, h0, hlt⟩ := dab (by decide) (by decide) (by decide) (Fin.isLt _) (by omega) hw
  have f22_4 : fld w 22 4 = 0 := by unfold fld; omega
  have f16_6 : fld w 16 6 = 9 := by unfold fld; omega
  have f3_3 : fld w 3 3 = 0 := (fld_low11 h0 (by decide)).trans (by unfold fld; omega)
  have e0 : r8 w 0 = c := r8_eq ((fld_low11 (k := 3) h0 (by decide)).trans (by unfold fld; omega))
  have e6 : rg w 6 = v := rg_eq ((fld_low11 (k := 5) h0 (by decide)).trans (by unfold fld; omega))
  have e11 : rg w 11 = a := rg_eq h11
  refine ⟨hlt, ?_⟩
  simp [decodeWord, decEng, need, h26, f22_4, f16_6, f3_3, e0, e6, e11]

theorem mwrite (a : Reg) (v : Reg) (c : Fin 8) : Statement (.mwrite a v c) := fun _ _ =>
  word_mwrite a v c (by show put 0 c.val (put 6 v.val (put 11 a.val 3221815296)) = _; unfold put; omega)

theorem word_mzero (a : Reg) (b : Reg) {w : Nat} (hw : w = 48 * 67108864 + 0 * 2097152 + 10 * 65536 + a.val * 2048 + (b.val * 64)) :
    w < 4294967296 ∧ decodeWord w = .ok (.mzero a b) := by
  have b6 : b.val < 32 := b.isLt
  have b11 : a.val < 32 := a.isLt
  obtain ⟨h26, h21, h16, h11, h0, hlt⟩ := dab (by decide) (by decide) (by decide) (Fin.isLt _) (by omega) hw
  have f22_4 : fld w 22 4 = 0 := by unfold fld; omega
  have f16_6 : fld w 16 6 = 10 := by unfold fld; omega
  have f0_6 : fld w 0 6 = 0 := (fld_low11 h0 (by decide)).trans (by unfold fld; omega)
  have e6 : rg w 6 = b := rg_eq ((fld_low11 (k := 5) h0 (by decide)).trans (by unfold fld; omega))
  have e11 : rg w 11 = a := rg_eq h11
  refine ⟨hlt, ?_⟩
  simp [decodeWord, decEng, need, h26, f22_4, f16_6, f0_6, e6, e11]

theorem mzero (a : Reg) (b : Reg) : Statement (.mzero a b) := fun _ _ =>
  word_mzero a b (by show put 6 b.val (put 11 a.val 3221880832) = _; unfold put; omega)

theorem word_mcmdMmac (a : Reg) (b : Reg) {w : Nat} (hw : w = 48 * 67108864 + 0 * 2097152 + 11 * 65536 + a.val * 2048 + (b.val * 64)) :
    w < 4294967296 ∧ decodeWord w = .ok (.mcmdMmac a b) := by
  have b6 : b.val < 32 := b.isLt
  have b11 : a.val < 32 := a.isLt
  obtain ⟨h26, h21, h16, h11, h0, hlt⟩ := dab (by decide) (by decide) (by decide) (Fin.isLt _) (by omega) hw
  have f22_4 : fld w 22 4 = 0 := by unfold fld; omega
  have f16_6 : fld w 16 6 = 11 := by unfold fld; omega
  have f0_6 : fld w 0 6 = 0 := (fld_low11 h0 (by decide)).trans (by unfold fld; omega)
  have e6 : rg w 6 = b := rg_eq ((fld_low11 (k := 5) h0 (by decide)).trans (by unfold fld; omega))
  have e11 : rg w 11 = a := rg_eq h11
  refine ⟨hlt, ?_⟩
  simp [decodeWord, decEng, h26, f22_4, f16_6, f0_6, e6, e11]

theorem mcmdMmac (a : Reg) (b : Reg) : Statement (.mcmdMmac a b) := fun _ _ =>
  word_mcmdMmac a b (by show put 6 b.val (put 11 a.val 3221946368) = _; unfold put; omega)

theorem word_mcmdCommit (a : Reg) (b : Reg) {w : Nat} (hw : w = 48 * 67108864 + 0 * 2097152 + 11 * 65536 + a.val * 2048 + (b.val * 64 + 1)) :
    w < 4294967296 ∧ decodeWord w = .ok (.mcmdCommit a b) := by
  have b6 : b.val < 32 := b.isLt
  have b11 : a.val < 32 := a.isLt
  obtain ⟨h26, h21, h16, h11, h0, hlt⟩ := dab (by decide) (by decide) (by decide) (Fin.isLt _) (by omega) hw
  have f22_4 : fld w 22 4 = 0 := by unfold fld; omega
  have f16_6 : fld w 16 6 = 11 := by unfold fld; omega
  have f0_6 : fld w 0 6 = 1 := (fld_low11 h0 (by decide)).trans (by unfold fld; omega)
  have e6 : rg w 6 = b := rg_eq ((fld_low11 (k := 5) h0 (by decide)).trans (by unfold fld; omega))
  have e11 : rg w 11 = a := rg_eq h11
  refine ⟨hlt, ?_⟩
  simp [decodeWord, decEng, h26, f22_4, f16_6, f0_6, e6, e11]

theorem mcmdCommit (a : Reg) (b : Reg) : Statement (.mcmdCommit a b) := fun _ _ =>
  word_mcmdCommit a b (by show put 6 b.val (put 11 a.val 3221946369) = _; unfold put; omega)

theorem word_mcmdZero (a : Reg) (b : Reg) {w : Nat} (hw : w = 48 * 67108864 + 0 * 2097152 + 11 * 65536 + a.val * 2048 + (b.val * 64 + 2)) :
    w < 4294967296 ∧ decodeWord w = .ok (.mcmdZero a b) := by
  have b6 : b.val < 32 := b.isLt
  have b11 : a.val < 32 := a.isLt
  obtain ⟨h26, h21, h16, h11, h0, hlt⟩ := dab (by decide) (by decide) (by decide) (Fin.isLt _) (by omega) hw
  have f22_4 : fld w 22 4 = 0 := by unfold fld; omega
  have f16_6 : fld w 16 6 = 11 := by unfold fld; omega
  have f0_6 : fld w 0 6 = 2 := (fld_low11 h0 (by decide)).trans (by unfold fld; omega)
  have e6 : rg w 6 = b := rg_eq ((fld_low11 (k := 5) h0 (by decide)).trans (by unfold fld; omega))
  have e11 : rg w 11 = a := rg_eq h11
  refine ⟨hlt, ?_⟩
  simp [decodeWord, decEng, h26, f22_4, f16_6, f0_6, e6, e11]

theorem mcmdZero (a : Reg) (b : Reg) : Statement (.mcmdZero a b) := fun _ _ =>
  word_mcmdZero a b (by show put 6 b.val (put 11 a.val 3221946370) = _; unfold put; omega)

theorem word_mcapw (a : Reg) (b : Reg) (e : Fin 8) {w : Nat} (hw : w = 48 * 67108864 + 0 * 2097152 + 12 * 65536 + a.val * 2048 + (b.val * 64 + e.val)) :
    w < 4294967296 ∧ decodeWord w = .ok (.mcapw a b e) := by
  have b0 : e.val < 8 := e.isLt
  have b6 : b.val < 32 := b.isLt
  have b11 : a.val < 32 := a.isLt
  obtain ⟨h26, h21, h16, h11, h0, hlt⟩ := dab (by decide) (by decide) (by decide) (Fin.isLt _) (by omega) hw
  have f22_4 : fld w 22 4 = 0 := by unfold fld; omega
  have f16_6 : fld w 16 6 = 12 := by unfold fld; omega
  have f3_3 : fld w 3 3 = 0 := (fld_low11 h0 (by decide)).trans (by unfold fld; omega)
  have e0 : r8 w 0 = e := r8_eq ((fld_low11 (k := 3) h0 (by decide)).trans (by unfold fld; omega))
  have e6 : rg w 6 = b := rg_eq ((fld_low11 (k := 5) h0 (by decide)).trans (by unfold fld; omega))
  have e11 : rg w 11 = a := rg_eq h11
  refine ⟨hlt, ?_⟩
  simp [decodeWord, decEng, need, h26, f22_4, f16_6, f3_3, e0, e6, e11]

theorem mcapw (a : Reg) (b : Reg) (e : Fin 8) : Statement (.mcapw a b e) := fun _ _ =>
  word_mcapw a b e (by show put 0 e.val (put 6 b.val (put 11 a.val 3222011904)) = _; unfold put; omega)

theorem word_shw (a : Reg) (b : Reg) (n : R16) {w : Nat} (hw : w = 48 * 67108864 + 2 * 2097152 + 1 * 65536 + a.val * 2048 + (b.val * 64 + n.val)) :
    w < 4294967296 ∧ decodeWord w = .ok (.shw a b n) := by
  have b0 : n.val < 16 := n.isLt
  have b6 : b.val < 32 := b.isLt
  have b11 : a.val < 32 := a.isLt
  obtain ⟨h26, h21, h16, h11, h0, hlt⟩ := dab (by decide) (by decide) (by decide) (Fin.isLt _) (by omega) hw
  have f22_4 : fld w 22 4 = 1 := by unfold fld; omega
  have f16_6 : fld w 16 6 = 1 := by unfold fld; omega
  have f4_2 : fld w 4 2 = 0 := (fld_low11 h0 (by decide)).trans (by unfold fld; omega)
  have e0 : r16 w 0 = n := r16_eq ((fld_low11 (k := 4) h0 (by decide)).trans (by unfold fld; omega))
  have e6 : rg w 6 = b := rg_eq ((fld_low11 (k := 5) h0 (by decide)).trans (by unfold fld; omega))
  have e11 : rg w 11 = a := rg_eq h11
  refine ⟨hlt, ?_⟩
  simp [decodeWord, decEng, need, h26, f22_4, f16_6, f4_2, e0, e6, e11]

theorem shw (a : Reg) (b : Reg) (n : R16) : Statement (.shw a b n) := fun _ _ =>
  word_shw a b n (by show put 0 n.val (put 6 b.val (put 11 a.val 3225485312)) = _; unfold put; omega)

theorem word_shseal (n : R16) {w : Nat} (hw : w = 48 * 67108864 + 2 * 2097152 + 2 * 65536 + 0 * 2048 + (n.val)) :
    w < 4294967296 ∧ decodeWord w = .ok (.shseal n) := by
  have b0 : n.val < 16 := n.isLt
  obtain ⟨h26, h21, h16, h11, h0, hlt⟩ := dab (by decide) (by decide) (by decide) (by decide) (by omega) hw
  have f22_4 : fld w 22 4 = 1 := by unfold fld; omega
  have f16_6 : fld w 16 6 = 2 := by unfold fld; omega
  have f11_5 : fld w 11 5 = 0 := h11
  have f6_5 : fld w 6 5 = 0 := (fld_low11 h0 (by decide)).trans (by unfold fld; omega)
  have f4_2 : fld w 4 2 = 0 := (fld_low11 h0 (by decide)).trans (by unfold fld; omega)
  have e0 : r16 w 0 = n := r16_eq ((fld_low11 (k := 4) h0 (by decide)).trans (by unfold fld; omega))
  refine ⟨hlt, ?_⟩
  simp [decodeWord, decEng, need, h26, f22_4, f16_6, f11_5, f6_5, f4_2, e0]

theorem shseal (n : R16) : Statement (.shseal n) := fun _ _ =>
  word_shseal n (by show put 0 n.val 3225550848 = _; unfold put; omega)

theorem word_shld (a : Reg) (n : R16) {w : Nat} (hw : w = 48 * 67108864 + 2 * 2097152 + 3 * 65536 + a.val * 2048 + (n.val)) :
    w < 4294967296 ∧ decodeWord w = .ok (.shld a n) := by
  have b0 : n.val < 16 := n.isLt
  have b11 : a.val < 32 := a.isLt
  obtain ⟨h26, h21, h16, h11, h0, hlt⟩ := dab (by decide) (by decide) (by decide) (Fin.isLt _) (by omega) hw
  have f22_4 : fld w 22 4 = 1 := by unfold fld; omega
  have f16_6 : fld w 16 6 = 3 := by unfold fld; omega
  have f6_5 : fld w 6 5 = 0 := (fld_low11 h0 (by decide)).trans (by unfold fld; omega)
  have f4_2 : fld w 4 2 = 0 := (fld_low11 h0 (by decide)).trans (by unfold fld; omega)
  have e0 : r16 w 0 = n := r16_eq ((fld_low11 (k := 4) h0 (by decide)).trans (by unfold fld; omega))
  have e11 : rg w 11 = a := rg_eq h11
  refine ⟨hlt, ?_⟩
  simp [decodeWord, decEng, need, h26, f22_4, f16_6, f6_5, f4_2, e0, e11]

theorem shld (a : Reg) (n : R16) : Statement (.shld a n) := fun _ _ =>
  word_shld a n (by show put 0 n.val (put 11 a.val 3225616384) = _; unfold put; omega)

theorem word_cpin (a : Reg) (b : Reg) (int : Bool) (n : R16) {w : Nat} (hw : w = 48 * 67108864 + 2 * 2097152 + 4 * 65536 + a.val * 2048 + (b.val * 64 + (boolCode int) * 16 + n.val)) :
    w < 4294967296 ∧ decodeWord w = .ok (.cpin a b int n) := by
  have v4 := boolCode_beq int
  have b0 : n.val < 16 := n.isLt
  have b4 : (boolCode int) < 2 := boolCode_lt int
  have b6 : b.val < 32 := b.isLt
  have b11 : a.val < 32 := a.isLt
  generalize (boolCode int) = c4 at hw b4 v4
  obtain ⟨h26, h21, h16, h11, h0, hlt⟩ := dab (by decide) (by decide) (by decide) (Fin.isLt _) (by omega) hw
  have f22_4 : fld w 22 4 = 1 := by unfold fld; omega
  have f16_6 : fld w 16 6 = 4 := by unfold fld; omega
  have f5_1 : fld w 5 1 = 0 := (fld_low11 h0 (by decide)).trans (by unfold fld; omega)
  have f4_1 : fld w 4 1 = c4 := (fld_low11 h0 (by decide)).trans (by unfold fld; omega)
  have e0 : r16 w 0 = n := r16_eq ((fld_low11 (k := 4) h0 (by decide)).trans (by unfold fld; omega))
  have e6 : rg w 6 = b := rg_eq ((fld_low11 (k := 5) h0 (by decide)).trans (by unfold fld; omega))
  have e11 : rg w 11 = a := rg_eq h11
  refine ⟨hlt, ?_⟩
  simp [decodeWord, decEng, need, h26, f22_4, f16_6, f5_1, f4_1, e0, e6, e11, v4]

theorem cpin (a : Reg) (b : Reg) (int : Bool) (n : R16) : Statement (.cpin a b int n) := fun _ _ =>
  word_cpin a b int n (by show put 0 n.val (put 4 (boolCode int) (put 6 b.val (put 11 a.val 3225681920))) = _; unfold put; omega)

theorem word_cpoutGet (a : Reg) (b : Reg) (int : Bool) (n : R16) {w : Nat} (hw : w = 48 * 67108864 + 2 * 2097152 + 5 * 65536 + a.val * 2048 + (b.val * 64 + (boolCode int) * 16 + n.val)) :
    w < 4294967296 ∧ decodeWord w = .ok (.cpoutGet a b int n) := by
  have v4 := boolCode_beq int
  have b0 : n.val < 16 := n.isLt
  have b4 : (boolCode int) < 2 := boolCode_lt int
  have b6 : b.val < 32 := b.isLt
  have b11 : a.val < 32 := a.isLt
  generalize (boolCode int) = c4 at hw b4 v4
  obtain ⟨h26, h21, h16, h11, h0, hlt⟩ := dab (by decide) (by decide) (by decide) (Fin.isLt _) (by omega) hw
  have f22_4 : fld w 22 4 = 1 := by unfold fld; omega
  have f16_6 : fld w 16 6 = 5 := by unfold fld; omega
  have f5_1 : fld w 5 1 = 0 := (fld_low11 h0 (by decide)).trans (by unfold fld; omega)
  have f4_1 : fld w 4 1 = c4 := (fld_low11 h0 (by decide)).trans (by unfold fld; omega)
  have e0 : r16 w 0 = n := r16_eq ((fld_low11 (k := 4) h0 (by decide)).trans (by unfold fld; omega))
  have e6 : rg w 6 = b := rg_eq ((fld_low11 (k := 5) h0 (by decide)).trans (by unfold fld; omega))
  have e11 : rg w 11 = a := rg_eq h11
  refine ⟨hlt, ?_⟩
  simp [decodeWord, decEng, h26, f22_4, f16_6, f5_1, f4_1, e0, e6, e11, v4]

theorem cpoutGet (a : Reg) (b : Reg) (int : Bool) (n : R16) : Statement (.cpoutGet a b int n) := fun _ _ =>
  word_cpoutGet a b int n (by show put 0 n.val (put 4 (boolCode int) (put 6 b.val (put 11 a.val 3225747456))) = _; unfold put; omega)

theorem word_cpoutPut (a : Reg) (b : Reg) (int : Bool) (n : R16) {w : Nat} (hw : w = 48 * 67108864 + 2 * 2097152 + 5 * 65536 + a.val * 2048 + (b.val * 64 + (boolCode int) * 16 + n.val + 32)) :
    w < 4294967296 ∧ decodeWord w = .ok (.cpoutPut a b int n) := by
  have v4 := boolCode_beq int
  have b0 : n.val < 16 := n.isLt
  have b4 : (boolCode int) < 2 := boolCode_lt int
  have b6 : b.val < 32 := b.isLt
  have b11 : a.val < 32 := a.isLt
  generalize (boolCode int) = c4 at hw b4 v4
  obtain ⟨h26, h21, h16, h11, h0, hlt⟩ := dab (by decide) (by decide) (by decide) (Fin.isLt _) (by omega) hw
  have f22_4 : fld w 22 4 = 1 := by unfold fld; omega
  have f16_6 : fld w 16 6 = 5 := by unfold fld; omega
  have f5_1 : fld w 5 1 = 1 := (fld_low11 h0 (by decide)).trans (by unfold fld; omega)
  have f4_1 : fld w 4 1 = c4 := (fld_low11 h0 (by decide)).trans (by unfold fld; omega)
  have e0 : r16 w 0 = n := r16_eq ((fld_low11 (k := 4) h0 (by decide)).trans (by unfold fld; omega))
  have e6 : rg w 6 = b := rg_eq ((fld_low11 (k := 5) h0 (by decide)).trans (by unfold fld; omega))
  have e11 : rg w 11 = a := rg_eq h11
  refine ⟨hlt, ?_⟩
  simp [decodeWord, decEng, h26, f22_4, f16_6, f5_1, f4_1, e0, e6, e11, v4]

theorem cpoutPut (a : Reg) (b : Reg) (int : Bool) (n : R16) : Statement (.cpoutPut a b int n) := fun _ _ =>
  word_cpoutPut a b int n (by show put 0 n.val (put 4 (boolCode int) (put 6 b.val (put 11 a.val 3225747488))) = _; unfold put; omega)

theorem word_cpush (a : Reg) (b : Reg) (int : Bool) (n : R16) {w : Nat} (hw : w = 48 * 67108864 + 2 * 2097152 + 6 * 65536 + a.val * 2048 + (b.val * 64 + (boolCode int) * 16 + n.val)) :
    w < 4294967296 ∧ decodeWord w = .ok (.cpush a b int n) := by
  have v4 := boolCode_beq int
  have b0 : n.val < 16 := n.isLt
  have b4 : (boolCode int) < 2 := boolCode_lt int
  have b6 : b.val < 32 := b.isLt
  have b11 : a.val < 32 := a.isLt
  generalize (boolCode int) = c4 at hw b4 v4
  obtain ⟨h26, h21, h16, h11, h0, hlt⟩ := dab (by decide) (by decide) (by decide) (Fin.isLt _) (by omega) hw
  have f22_4 : fld w 22 4 = 1 := by unfold fld; omega
  have f16_6 : fld w 16 6 = 6 := by unfold fld; omega
  have f5_1 : fld w 5 1 = 0 := (fld_low11 h0 (by decide)).trans (by unfold fld; omega)
  have f4_1 : fld w 4 1 = c4 := (fld_low11 h0 (by decide)).trans (by unfold fld; omega)
  have e0 : r16 w 0 = n := r16_eq ((fld_low11 (k := 4) h0 (by decide)).trans (by unfold fld; omega))
  have e6 : rg w 6 = b := rg_eq ((fld_low11 (k := 5) h0 (by decide)).trans (by unfold fld; omega))
  have e11 : rg w 11 = a := rg_eq h11
  refine ⟨hlt, ?_⟩
  simp [decodeWord, decEng, h26, f22_4, f16_6, f5_1, f4_1, e0, e6, e11, v4]

theorem cpush (a : Reg) (b : Reg) (int : Bool) (n : R16) : Statement (.cpush a b int n) := fun _ _ =>
  word_cpush a b int n (by show put 0 n.val (put 4 (boolCode int) (put 6 b.val (put 11 a.val 3225812992))) = _; unfold put; omega)

theorem word_cpushRelease (a : Reg) {w : Nat} (hw : w = 48 * 67108864 + 2 * 2097152 + 6 * 65536 + a.val * 2048 + (32)) :
    w < 4294967296 ∧ decodeWord w = .ok (.cpushRelease a) := by
  have b11 : a.val < 32 := a.isLt
  obtain ⟨h26, h21, h16, h11, h0, hlt⟩ := dab (by decide) (by decide) (by decide) (Fin.isLt _) (by decide) hw
  have f22_4 : fld w 22 4 = 1 := by unfold fld; omega
  have f16_6 : fld w 16 6 = 6 := by unfold fld; omega
  have f6_5 : fld w 6 5 = 0 := (fld_low11 h0 (by decide)).trans (by decide)
  have f5_1 : fld w 5 1 = 1 := (fld_low11 h0 (by decide)).trans (by decide)
  have f0_5 : fld w 0 5 = 0 := (fld_low11 h0 (by decide)).trans (by decide)
  have e11 : rg w 11 = a := rg_eq h11
  refine ⟨hlt, ?_⟩
  simp [decodeWord, decEng, need, h26, f22_4, f16_6, f6_5, f5_1, f0_5, e11]

theorem cpushRelease (a : Reg) : Statement (.cpushRelease a) := fun _ _ =>
  word_cpushRelease a (by show put 11 a.val 3225813024 = _; unfold put; omega)

theorem word_chsub (d : Reg) (b : Reg) (int : Bool) (k : R16) {w : Nat} (hw : w = 48 * 67108864 + 4 * 2097152 + 1 * 65536 + d.val * 2048 + (b.val * 64 + (boolCode int) * 16 + k.val)) :
    w < 4294967296 ∧ decodeWord w = .ok (.chsub d b int k) := by
  have v4 := boolCode_beq int
  have b0 : k.val < 16 := k.isLt
  have b4 : (boolCode int) < 2 := boolCode_lt int
  have b6 : b.val < 32 := b.isLt
  have b11 : d.val < 32 := d.isLt
  generalize (boolCode int) = c4 at hw b4 v4
  obtain ⟨h26, h21, h16, h11, h0, hlt⟩ := dab (by decide) (by decide) (by decide) (Fin.isLt _) (by omega) hw
  have f22_4 : fld w 22 4 = 2 := by unfold fld; omega
  have f16_6 : fld w 16 6 = 1 := by unfold fld; omega
  have f5_1 : fld w 5 1 = 0 := (fld_low11 h0 (by decide)).trans (by unfold fld; omega)
  have f4_1 : fld w 4 1 = c4 := (fld_low11 h0 (by decide)).trans (by unfold fld; omega)
  have e0 : r16 w 0 = k := r16_eq ((fld_low11 (k := 4) h0 (by decide)).trans (by unfold fld; omega))
  have e6 : rg w 6 = b := rg_eq ((fld_low11 (k := 5) h0 (by decide)).trans (by unfold fld; omega))
  have e11 : rg w 11 = d := rg_eq h11
  refine ⟨hlt, ?_⟩
  simp [decodeWord, decEng, need, h26, f22_4, f16_6, f5_1, f4_1, e0, e6, e11, v4]

theorem chsub (d : Reg) (b : Reg) (int : Bool) (k : R16) : Statement (.chsub d b int k) := fun _ _ =>
  word_chsub d b int k (by show put 0 k.val (put 4 (boolCode int) (put 6 b.val (put 11 d.val 3229679616))) = _; unfold put; omega)

theorem word_chpoll (d : Reg) (b : Reg) {w : Nat} (hw : w = 48 * 67108864 + 4 * 2097152 + 2 * 65536 + d.val * 2048 + (b.val * 64)) :
    w < 4294967296 ∧ decodeWord w = .ok (.chpoll d b) := by
  have b6 : b.val < 32 := b.isLt
  have b11 : d.val < 32 := d.isLt
  obtain ⟨h26, h21, h16, h11, h0, hlt⟩ := dab (by decide) (by decide) (by decide) (Fin.isLt _) (by omega) hw
  have f22_4 : fld w 22 4 = 2 := by unfold fld; omega
  have f16_6 : fld w 16 6 = 2 := by unfold fld; omega
  have f0_6 : fld w 0 6 = 0 := (fld_low11 h0 (by decide)).trans (by unfold fld; omega)
  have e6 : rg w 6 = b := rg_eq ((fld_low11 (k := 5) h0 (by decide)).trans (by unfold fld; omega))
  have e11 : rg w 11 = d := rg_eq h11
  refine ⟨hlt, ?_⟩
  simp [decodeWord, decEng, need, h26, f22_4, f16_6, f0_6, e6, e11]

theorem chpoll (d : Reg) (b : Reg) : Statement (.chpoll d b) := fun _ _ =>
  word_chpoll d b (by show put 6 b.val (put 11 d.val 3229745152) = _; unfold put; omega)

theorem word_xsched (a : Reg) (b : Reg) (k : R16) {w : Nat} (hw : w = 48 * 67108864 + 6 * 2097152 + 1 * 65536 + a.val * 2048 + (b.val * 64 + k.val)) :
    w < 4294967296 ∧ decodeWord w = .ok (.xsched a b k) := by
  have b0 : k.val < 16 := k.isLt
  have b6 : b.val < 32 := b.isLt
  have b11 : a.val < 32 := a.isLt
  obtain ⟨h26, h21, h16, h11, h0, hlt⟩ := dab (by decide) (by decide) (by decide) (Fin.isLt _) (by omega) hw
  have f22_4 : fld w 22 4 = 3 := by unfold fld; omega
  have f16_6 : fld w 16 6 = 1 := by unfold fld; omega
  have f4_2 : fld w 4 2 = 0 := (fld_low11 h0 (by decide)).trans (by unfold fld; omega)
  have e0 : r16 w 0 = k := r16_eq ((fld_low11 (k := 4) h0 (by decide)).trans (by unfold fld; omega))
  have e6 : rg w 6 = b := rg_eq ((fld_low11 (k := 5) h0 (by decide)).trans (by unfold fld; omega))
  have e11 : rg w 11 = a := rg_eq h11
  refine ⟨hlt, ?_⟩
  simp [decodeWord, decEng, need, h26, f22_4, f16_6, f4_2, e0, e6, e11]

theorem xsched (a : Reg) (b : Reg) (k : R16) : Statement (.xsched a b k) := fun _ _ =>
  word_xsched a b k (by show put 0 k.val (put 6 b.val (put 11 a.val 3233873920)) = _; unfold put; omega)

theorem word_xsend (a : Reg) (b : Reg) {w : Nat} (hw : w = 48 * 67108864 + 6 * 2097152 + 2 * 65536 + a.val * 2048 + (b.val * 64)) :
    w < 4294967296 ∧ decodeWord w = .ok (.xsend a b) := by
  have b6 : b.val < 32 := b.isLt
  have b11 : a.val < 32 := a.isLt
  obtain ⟨h26, h21, h16, h11, h0, hlt⟩ := dab (by decide) (by decide) (by decide) (Fin.isLt _) (by omega) hw
  have f22_4 : fld w 22 4 = 3 := by unfold fld; omega
  have f16_6 : fld w 16 6 = 2 := by unfold fld; omega
  have f0_6 : fld w 0 6 = 0 := (fld_low11 h0 (by decide)).trans (by unfold fld; omega)
  have e6 : rg w 6 = b := rg_eq ((fld_low11 (k := 5) h0 (by decide)).trans (by unfold fld; omega))
  have e11 : rg w 11 = a := rg_eq h11
  refine ⟨hlt, ?_⟩
  simp [decodeWord, decEng, need, h26, f22_4, f16_6, f0_6, e6, e11]

theorem xsend (a : Reg) (b : Reg) : Statement (.xsend a b) := fun _ _ =>
  word_xsend a b (by show put 6 b.val (put 11 a.val 3233939456) = _; unfold put; omega)

theorem word_kick (a : Reg) (b : Reg) {w : Nat} (hw : w = 48 * 67108864 + 8 * 2097152 + 1 * 65536 + a.val * 2048 + (b.val * 64)) :
    w < 4294967296 ∧ decodeWord w = .ok (.kick a b) := by
  have b6 : b.val < 32 := b.isLt
  have b11 : a.val < 32 := a.isLt
  obtain ⟨h26, h21, h16, h11, h0, hlt⟩ := dab (by decide) (by decide) (by decide) (Fin.isLt _) (by omega) hw
  have f22_4 : fld w 22 4 = 4 := by unfold fld; omega
  have f16_6 : fld w 16 6 = 1 := by unfold fld; omega
  have f0_6 : fld w 0 6 = 0 := (fld_low11 h0 (by decide)).trans (by unfold fld; omega)
  have e6 : rg w 6 = b := rg_eq ((fld_low11 (k := 5) h0 (by decide)).trans (by unfold fld; omega))
  have e11 : rg w 11 = a := rg_eq h11
  refine ⟨hlt, ?_⟩
  simp [decodeWord, decEng, need, h26, f22_4, f16_6, f0_6, e6, e11]

theorem kick (a : Reg) (b : Reg) : Statement (.kick a b) := fun _ _ =>
  word_kick a b (by show put 6 b.val (put 11 a.val 3238068224) = _; unfold put; omega)

theorem word_cancel (a : Reg) {w : Nat} (hw : w = 48 * 67108864 + 8 * 2097152 + 2 * 65536 + a.val * 2048 + (0)) :
    w < 4294967296 ∧ decodeWord w = .ok (.cancel a) := by
  have b11 : a.val < 32 := a.isLt
  obtain ⟨h26, h21, h16, h11, h0, hlt⟩ := dab (by decide) (by decide) (by decide) (Fin.isLt _) (by decide) hw
  have f22_4 : fld w 22 4 = 4 := by unfold fld; omega
  have f16_6 : fld w 16 6 = 2 := by unfold fld; omega
  have f6_5 : fld w 6 5 = 0 := (fld_low11 h0 (by decide)).trans (by decide)
  have f0_6 : fld w 0 6 = 0 := (fld_low11 h0 (by decide)).trans (by decide)
  have e11 : rg w 11 = a := rg_eq h11
  refine ⟨hlt, ?_⟩
  simp [decodeWord, decEng, need, h26, f22_4, f16_6, f6_5, f0_6, e11]

theorem cancel (a : Reg) : Statement (.cancel a) := fun _ _ =>
  word_cancel a (by show put 11 a.val 3238133760 = _; unfold put; omega)

theorem word_waitl (a : Reg) (d : Reg) {w : Nat} (hw : w = 48 * 67108864 + 8 * 2097152 + 3 * 65536 + a.val * 2048 + (d.val * 64)) :
    w < 4294967296 ∧ decodeWord w = .ok (.waitl a d) := by
  have b6 : d.val < 32 := d.isLt
  have b11 : a.val < 32 := a.isLt
  obtain ⟨h26, h21, h16, h11, h0, hlt⟩ := dab (by decide) (by decide) (by decide) (Fin.isLt _) (by omega) hw
  have f22_4 : fld w 22 4 = 4 := by unfold fld; omega
  have f16_6 : fld w 16 6 = 3 := by unfold fld; omega
  have f0_6 : fld w 0 6 = 0 := (fld_low11 h0 (by decide)).trans (by unfold fld; omega)
  have e6 : rg w 6 = d := rg_eq ((fld_low11 (k := 5) h0 (by decide)).trans (by unfold fld; omega))
  have e11 : rg w 11 = a := rg_eq h11
  refine ⟨hlt, ?_⟩
  simp [decodeWord, decEng, need, h26, f22_4, f16_6, f0_6, e6, e11]

theorem waitl (a : Reg) (d : Reg) : Statement (.waitl a d) := fun _ _ =>
  word_waitl a d (by show put 6 d.val (put 11 a.val 3238199296) = _; unfold put; omega)

theorem causalityRelease (n : Nat) : Statement (.causalityRelease n) := fun h => nomatch h

theorem strataBackoff (c : CoreId) : Statement (.strataBackoff c) := fun h => nomatch h

theorem leaseExpiry (c : CoreId) : Statement (.leaseExpiry c) := fun h => nomatch h

theorem copyCompletion (c : CoreId) (n : Nat) : Statement (.copyCompletion c n) := fun h => nomatch h

theorem copyFault (c : CoreId) (n : Nat) : Statement (.copyFault c n) := fun h => nomatch h

theorem stepStart (c : CoreId) : Statement (.stepStart c) := fun h => nomatch h

theorem stepCompletion (c : CoreId) : Statement (.stepCompletion c) := fun h => nomatch h

theorem remoteCommand (n : Nat) : Statement (.remoteCommand n) := fun h => nomatch h

theorem pushWrite (q : CoreId) (rec : Nat) (pos : Nat) : Statement (.pushWrite q rec pos) := fun h => nomatch h

theorem pushRetry (q : CoreId) (rec : Nat) (pos : Nat) : Statement (.pushRetry q rec pos) := fun h => nomatch h

theorem chiselCompletion (b : BenchId) (slot : Nat) : Statement (.chiselCompletion b slot) := fun h => nomatch h

theorem chiselPageResume (b : BenchId) (slot : Nat) : Statement (.chiselPageResume b slot) := fun h => nomatch h

theorem exchangeSlotOpen (c : CoreId) : Statement (.exchangeSlotOpen c) := fun h => nomatch h

theorem exchangeLine (n : Nat) : Statement (.exchangeLine n) := fun h => nomatch h

theorem remoteScratchpadAccess (n : Nat) : Statement (.remoteScratchpadAccess n) := fun h => nomatch h

theorem mergeStep (l : Line) : Statement (.mergeStep l) := fun h => nomatch h

theorem spanArrivalMessage (n : Nat) : Statement (.spanArrivalMessage n) := fun h => nomatch h

theorem spanFireMessage (n : Nat) : Statement (.spanFireMessage n) := fun h => nomatch h

theorem completionInterrupt (c : CoreId) : Statement (.completionInterrupt c) := fun h => nomatch h

theorem asyncCause (c : CoreId) : Statement (.asyncCause c) := fun h => nomatch h

theorem pageNotice (c : CoreId) (page : Nat) (leaf : Word) (tables : Nat) : Statement (.pageNotice c page leaf tables) := fun h => nomatch h

theorem pageRefusal (c : CoreId) (page : Nat) : Statement (.pageRefusal c page) := fun h => nomatch h

theorem tileGrant (c : CoreId) : Statement (.tileGrant c) := fun h => nomatch h

theorem deputyAck (launch : Nat) : Statement (.deputyAck launch) := fun h => nomatch h

theorem bindingComplete (c : CoreId) : Statement (.bindingComplete c) := fun h => nomatch h

theorem completionReport (c : CoreId) : Statement (.completionReport c) := fun h => nomatch h

theorem replayStart (graph : Nat) : Statement (.replayStart graph) := fun h => nomatch h

theorem aging (launch : Nat) : Statement (.aging launch) := fun h => nomatch h

theorem quantumExpiry (c : CoreId) : Statement (.quantumExpiry c) := fun h => nomatch h

theorem tsliceExpiry (c : CoreId) : Statement (.tsliceExpiry c) := fun h => nomatch h

theorem contextSave (c : CoreId) : Statement (.contextSave c) := fun h => nomatch h

theorem copyDrainTimeout (c : CoreId) : Statement (.copyDrainTimeout c) := fun h => nomatch h

theorem contextRestore (c : CoreId) : Statement (.contextRestore c) := fun h => nomatch h

theorem trapEnd (c : CoreId) : Statement (.trapEnd c) := fun h => nomatch h

theorem trapResume (c : CoreId) (resume : Word) (regs : List (SavedReg × Word)) : Statement (.trapResume c resume regs) := fun h => nomatch h

theorem terminationToken (launch : Nat) : Statement (.terminationToken launch) := fun h => nomatch h

theorem heartbeatTimer (launch : Nat) (pkg : Nat) (die : Nat) : Statement (.heartbeatTimer launch pkg die) := fun h => nomatch h

theorem heartbeat (n : Nat) : Statement (.heartbeat n) := fun h => nomatch h

theorem heartbeatAck (n : Nat) : Statement (.heartbeatAck n) := fun h => nomatch h

theorem fenceTimeout (launch : Nat) (pkg : Nat) (die : Nat) : Statement (.fenceTimeout launch pkg die) := fun h => nomatch h

theorem dieFailed (pkg : Nat) (die : Nat) : Statement (.dieFailed pkg die) := fun h => nomatch h

theorem benchReplacement (launch : Nat) (bench : Nat) (p : Place) : Statement (.benchReplacement launch bench p) := fun h => nomatch h

theorem startMessage (n : Nat) : Statement (.startMessage n) := fun h => nomatch h

theorem startAnswer (n : Nat) : Statement (.startAnswer n) := fun h => nomatch h

theorem startTimeout (launch : Nat) : Statement (.startTimeout launch) := fun h => nomatch h

theorem transientRead (n : Nat) : Statement (.transientRead n) := fun h => nomatch h

theorem transientWrite (n : Nat) : Statement (.transientWrite n) := fun h => nomatch h

theorem tokenMessage (n : Nat) : Statement (.tokenMessage n) := fun h => nomatch h

theorem attemptTimeout (pkg : Nat) (die : Nat) (l : Line) : Statement (.attemptTimeout pkg die l) := fun h => nomatch h

theorem persistentRequest (n : Nat) : Statement (.persistentRequest n) := fun h => nomatch h

theorem persistentRetry (pkg : Nat) (die : Nat) (l : Line) : Statement (.persistentRetry pkg die l) := fun h => nomatch h

theorem active (n : Nat) : Statement (.active n) := fun h => nomatch h

theorem done (n : Nat) : Statement (.done n) := fun h => nomatch h

theorem inactive (n : Nat) : Statement (.inactive n) := fun h => nomatch h

theorem linkDown (link : Nat) : Statement (.linkDown link) := fun h => nomatch h

theorem lossLogEntry (n : Nat) : Statement (.lossLogEntry n) := fun h => nomatch h

theorem collect (n : Nat) : Statement (.collect n) := fun h => nomatch h

theorem lineRecreation (l : Line) : Statement (.lineRecreation l) := fun h => nomatch h

theorem l1LineTimeout (c : CoreId) (tag : Nat) : Statement (.l1LineTimeout c tag) := fun h => nomatch h

theorem migRewalk (c : CoreId) : Statement (.migRewalk c) := fun h => nomatch h

theorem pageMigration (tenant : Nat) (page : Nat) (leaf : Word) (quarry : Nat) : Statement (.pageMigration tenant page leaf quarry) := fun h => nomatch h

theorem collapse (tables : Nat) : Statement (.collapse tables) := fun h => nomatch h

theorem regionRelease (rid : Nat) : Statement (.regionRelease rid) := fun h => nomatch h

theorem streamBind (pkg : Nat) (port : Nat) (stream : Nat) (rid : Nat) (key : Nat) (bnd : Binding) : Statement (.streamBind pkg port stream rid key bnd) := fun h => nomatch h

theorem streamUnbind (pkg : Nat) (port : Nat) (stream : Nat) : Statement (.streamUnbind pkg port stream) := fun h => nomatch h

theorem ingressFrame (pkg : Nat) (port : Nat) (frame : List Byte) (fcsOk : Bool) (stamp : Stamp) : Statement (.ingressFrame pkg port frame fcsOk stamp) := fun h => nomatch h

theorem hello (conn : Nat) (tenant : Nat) (pkg : Nat) (versions : List (Nat × Nat)) (tenancy : Tenancy) : Statement (.hello conn tenant pkg versions tenancy) := fun h => nomatch h

theorem region (conn : Nat) (req : RegionReq) (g : Grant) : Statement (.region conn req g) := fun h => nomatch h

theorem job (conn : Nat) : Statement (.job conn) := fun h => nomatch h

theorem upload (conn : Nat) (job : Word) (object : List Byte) (area : Grant) (regions : List (Nat × Grant)) (sections : List Section) : Statement (.upload conn job object area regions sections) := fun h => nomatch h

theorem phase (conn : Nat) (job : Word) (graphs : List Word) : Statement (.phase conn job graphs) := fun h => nomatch h

theorem close (conn : Nat) (handle : Word) : Statement (.close conn handle) := fun h => nomatch h

theorem clientKick (conn : Nat) (graph : Word) (patch : Word) : Statement (.clientKick conn graph patch) := fun h => nomatch h

theorem clientCancel (conn : Nat) (handle : Word) : Statement (.clientCancel conn handle) := fun h => nomatch h

theorem wait (conn : Nat) (handle : Word) : Statement (.wait conn handle) := fun h => nomatch h

theorem attest (conn : Nat) (nonce : List Byte) : Statement (.attest conn nonce) := fun h => nomatch h

theorem update (conn : Nat) (img : Image) : Statement (.update conn img) := fun h => nomatch h

theorem switchover (pkg : Nat) : Statement (.switchover pkg) := fun h => nomatch h

theorem switchoverTimeout (pkg : Nat) : Statement (.switchoverTimeout pkg) := fun h => nomatch h

theorem boot (pkg : Nat) (first : Image) (firmware : Image) (service : Image) (linkUp : Bool) (sramOk : Bool) (serviceUp : Bool) (peers : List (Nat × List (Nat × Nat))) : Statement (.boot pkg first firmware service linkUp sramOk serviceUp peers) := fun h => nomatch h

theorem sensorPoll (pkg : Nat) (readings : List Sensors) : Statement (.sensorPoll pkg readings) := fun h => nomatch h

theorem droopEvent (pkg : Nat) (die : Nat) : Statement (.droopEvent pkg die) := fun h => nomatch h

theorem healthRecord (pkg : Nat) (power : Nat) : Statement (.healthRecord pkg power) := fun h => nomatch h

theorem throttleStep (k : Nat) : Statement (.throttleStep k) := fun h => nomatch h

theorem illegalInstruction : Statement (.illegalInstruction) := fun h => nomatch h

theorem fetchFault : Statement (.fetchFault) := fun h => nomatch h

theorem copyPageResume (c : CoreId) (n : Nat) : Statement (.copyPageResume c n) := fun h => nomatch h

theorem pushReadFault (q : CoreId) (rec : Nat) : Statement (.pushReadFault q rec) := fun h => nomatch h

theorem exchangePhaseEnd (c : CoreId) : Statement (.exchangePhaseEnd c) := fun h => nomatch h

theorem taskEndBySupervisor (c : CoreId) : Statement (.taskEndBySupervisor c) := fun h => nomatch h

theorem streamQueueReset (pkg : Nat) (port : Nat) (stream : Nat) (ring : Nat) (size : Nat) (slot : Nat) : Statement (.streamQueueReset pkg port stream ring size slot) := fun h => nomatch h

theorem classifierRuleWrite (pkg : Nat) (port : Nat) (index : Nat) (rule : Rule) : Statement (.classifierRuleWrite pkg port index rule) := fun h => nomatch h

end Sys2Proof.Laws.F
end

