-- ==== Sys2Proof/Laws/Strata.lean ====
section
/-!
SUPPORT. A strata key changed, and the instructions on a key that their pointer names.
-/
namespace Sys2Proof.Claims

open Sys2Proof.Machine

/-- Of the regions of two states, everything but their keys. -/
def SameRegions (a b : Map Region) : Prop :=
  ∀ rid : Nat, (mapFind rid a).map (fun q => { q with keys := [] }) = (mapFind rid b).map fun q => { q with keys := [] }

/-- The regions after a key is changed. -/
theorem setKey_eq {s : State} {key : KeyId} {r : Region} {k : Key} (h : s.keyAt key = some (r, k)) (f : Key → Key) :
    s.setKey key f = { s with regions := mapPut key.rid (r.setKey key.k (f k)) s.regions } := by
  unfold State.keyAt at h
  unfold State.setKey
  cases hr : mapFind key.rid s.regions with
  | none => rw [hr] at h; cases h
  | some r' => rw [hr] at h; cases h; rfl

/-- A key changed, with its control line in memory. -/
theorem putKey_eq {s : State} {key : KeyId} {r : Region} {k : Key} (h : s.keyAt key = some (r, k)) (n : Option Nat) (f : Key → Key) :
    s.putKey key n f = { s with regions := mapPut key.rid (r.setKey key.k (f k)) s.regions, mem := s.slotMem r key.k (f k) n } := by
  have e := setKey_eq h f
  unfold State.keyAt at h
  unfold State.putKey
  cases hr : mapFind key.rid s.regions with
  | none => rw [hr] at h; cases h
  | some r' => rw [hr] at h; cases h; dsimp only; rw [e]

/-- Every key after one is changed, and all else of the regions. -/
theorem keyAt_set {s : State} {key : KeyId} {r : Region} {k : Key} (h : s.keyAt key = some (r, k)) (k' : Key) (u : State)
    (hu : u.regions = mapPut key.rid (r.setKey key.k k') s.regions) :
    u.keyAt key = some (r.setKey key.k k', k') ∧
      (∀ j : KeyId, (u.keyAt j).map (·.2) = if j = key then some k' else (s.keyAt j).map (·.2)) ∧ SameRegions u.regions s.regions := by
  unfold State.keyAt at h
  cases hr : mapFind key.rid s.regions with
  | none => rw [hr] at h; cases h
  | some r' =>
    rw [hr] at h
    have h1 : r' = r := by cases h; rfl
    have h2 : r'.key key.k = k := by cases h; rfl
    subst h1
    have at_ : ∀ j : KeyId, u.keyAt j = if j.rid = key.rid then some (r'.setKey key.k k', if j = key then k' else r'.key j.k) else s.keyAt j := by
      intro j
      unfold State.keyAt
      rw [hu, mapFind_put]
      by_cases hj : j.rid = key.rid
      · rw [if_pos hj, if_pos hj]
        dsimp only
        congr 2
        unfold Region.key Region.setKey
        dsimp only
        rw [mapGet_set]
        by_cases hk : j.k = key.k
        · have : j = key := by cases j; cases key; simp_all
          rw [if_pos hk, if_pos this]
        · have : j ≠ key := fun e => hk (by rw [e])
          rw [if_neg hk, if_neg this]
      · rw [if_neg hj, if_neg hj]
    refine ⟨by rw [at_]; simp, ?_, ?_⟩
    · intro j
      rw [at_]
      by_cases hj : j.rid = key.rid
      · rw [if_pos hj]
        by_cases hk : j = key
        · simp [hk]
        · unfold State.keyAt
          rw [hj, hr]
          simp [hk]
      · rw [if_neg hj, if_neg fun e => hj (by rw [e])]
    · intro rid
      rw [hu, mapFind_put]
      by_cases hj : rid = key.rid
      · rw [if_pos hj, hj, hr]; rfl
      · rw [if_neg hj]

/-- A strata instruction on a key that its pointer names. -/
theorem onKey_ok {s : State} {a : Reg} {key : KeyId} {r : Region} {k : Key} (f) (h : s.keyAt key = some (r, k)) (hr : r.released = false) (hk : k.st ≠ .retiring)
    (hl : s.homeLate r key.k s.core.id.lid = false) (hx : s.slotLacks r key.k = none) (hu : s.slotUe r key.k = false)
    (hs : strataKey s (s.rx a) = .ok key) : onKey a f s = settle (f key r k (s.noteHome r key.k s.core.id.lid)) s := by
  unfold onKey
  dsimp only
  rw [hs]
  dsimp only [Try.bind]
  rw [h]
  dsimp only
  simp [hl, hx, hu, hr, hk]

/-- A key used by a task that keeps no stamps. -/
theorem stampKey_ok {s : State} (hd : s.task.determinate = false) (p : Word) (id : KeyId) (k : Key) (u : StampUse) :
   stampKey p id k u s = .ok (s.setKey id fun q => { q with stamp := k.stamp }) := by
  unfold stampKey
  simp [stampUses, hd, Try.bind]

/-- Wait records do not depend on the regions. -/
theorem waitRecs_regions (s : State) (rs : Map Region) (key : KeyId) : ({ s with regions := rs } : State).waitRecs key = s.waitRecs key := rfl

end Sys2Proof.Claims
end

