-- ==== Sys2Proof/Tests/Slice0.lean ====
section
/-!
SUPPORT. Tests of the model: words of the encoding tables, checks of WellFormed, single steps on small states with the values that the manual gives, and
for each statement a state and operands that meet its hypotheses.
-/
namespace Sys2Proof.Tests

open Sys2Proof Sys2Proof.Machine Sys2Proof.Claims

set_option Elab.async false

/-! ## Words -/

/-- The decoder reads each word as the instruction beside it. -/
abbrev Reads (l : List (Nat × Instr)) : Prop := ∀ e ∈ l, decodeTableWord 32 e.1 = some e.2

/-- R150, R151. -/
theorem test_decodes_alu : Reads [
      (0x07B23800, .add 29 18 7), (0x06475001, .sub 18 7 10), (0x04EAA802, .and 7 10 21), (0x05557003, .or 10 21 14), (0x06AE1804, .xor 21 14 3),
      (0x05C3C805, .sll 14 3 25), (0x0479E806, .srl 3 25 29), (0x073D9007, .sra 25 29 18), (0x07B23808, .slt 29 18 7), (0x06475009, .sltu 18 7 10),
      (0x04EAA80A, .mul 7 10 21), (0x0555700B, .mulh 10 21 14), (0x06AE180C, .mulhu 21 14 3), (0x05C3C80D, .div 14 3 25), (0x0479E80E, .divu 3 25 29),
      (0x073D900F, .rem 25 29 18), (0x07B23810, .remu 29 18 7), (0x06475011, .min 18 7 10), (0x04EAA812, .max 7 10 21), (0x05557013, .minu 10 21 14),
      (0x06AE1814, .maxu 21 14 3), (0x05C30015, .clz 14 3), (0x04790016, .ctz 3 25), (0x073D0017, .popc 25 29)] := by
  decide +kernel

/-- R152, R153, R154, R155. -/
theorem test_decodes_imm : Reads [
      (0x0BB2F0ED, .addi 29 18 61677), (0x0E47C3B7, .andi 18 7 50103), (0x10EAE1DB, .ori 7 10 57819), (0x1555DC3B, .xori 10 21 56379),
      (0x1AAE0036, .slli 21 14 54), (0x19C30077, .srli 14 3 55), (0x187900BB, .srai 3 25 59), (0x1F3D7876, .slti 25 29 30838),
      (0x1FB2F0ED, .sltiu 29 18 28909), (0x2247C3B7, .lui 18 7 50103)] := by
  decide +kernel

/-- R157. -/
theorem test_decodes_ptr : Reads [
      (0x24EAA801, .pmk 7 10 21), (0x25550042, .pget 10 21 .addr), (0x26AE1803, .pset 21 14 3 .fmt), (0x25C3C804, .addp 14 3 25),
      (0x2479E805, .subp 3 25 29)] := by
  decide +kernel

/-- R158, R159, R160. -/
theorem test_decodes_branch : Reads [
      (0x2B3D1876, .beq 25 29 6262), (0x2BB230ED, .bne 29 18 4333), (0x2A4753B7, .blt 18 7 5047), (0x28EA71DB, .bge 7 10 4571),
      (0x29559C3B, .bltu 10 21 7227), (0x2AAEB876, .bgeu 21 14 6262), (0x2DD4B876, .jal 14 1357942), (0x3079DC3B, .jalr 3 25 56379)] := by
  decide +kernel

/-- R39, R43, R162, R166, R167, R168, R169, R221. -/
theorem test_decodes_ctl : Reads [
      (0x365D3D58, .rep 12 29 18 7 10), (0x34000021, .fuse .g4), (0x34000002, .split), (0x34000003, .yield), (0x340DA804, .await 13 21),
      (0x34000005, .exit), (0x35C00006, .termwait 14), (0x34000107, .fence .die)] := by
  decide +kernel

/-- R175, R176, R177. -/
theorem test_decodes_sys : Reads [
      (0x3B2001C1, .sysr 25 (.win 3)), (0x381D0072, .sysw 29 .upvec), (0x38120013, .dtld 18 .b), (0x38000033, .dtldInt8 .b),
      (0x38000053, .dtldE4m3 .b), (0x38000073, .dtldE5m2 .b), (0x38000004, .upret), (0x38000005, .uiret)] := by
  decide +kernel

/-- R179, R180, R181, R182. -/
theorem test_decodes_sup : Reads [
      (0x3F200011, .svr 25 .coretype), (0x3C1D0012, .svw 29 .coretype), (0x3C123863, .tlbinv 18 7 .pkg), (0x3C003873, .tlbinvAll 7 .pkg),
      (0x3C0A0004, .cacheinvIcache 10), (0x3C150014, .cacheinvL2 21), (0x3C000005, .wfi)] := by
  decide +kernel

/-- R189, R195, R196. -/
theorem test_decodes_mem : Reads [
      (0x4079A6ED, .ldb 3 25 (.strong .die) .str 749), (0x473DBBB7, .ldbu 25 29 (.strong .pkg) .stk 951),
      (0x4BB2CBDB, .ldh 29 18 (.strong .dom) .stk 987), (0x4E47B63B, .ldhu 18 7 (.strong .pkg) .str 571),
      (0x50EAAE76, .ldw 7 10 (.strong .die) .byp 630), (0x5555B7B7, .ldwu 10 21 (.strong .pkg) .str 951),
      (0x5AAECA3B, .ldd 21 14 (.strong .dom) .stk 571), (0x5DC3AE76, .ldf 14 3 (.strong .die) .byp 630),
      (0x6079A6ED, .stb 3 25 (.strong .die) .str 749), (0x673DBBB7, .sth 25 29 (.strong .pkg) .stk 951),
      (0x6BB2CBDB, .stw 29 18 (.strong .dom) .stk 987), (0x6E47B63B, .std 18 7 (.strong .pkg) .str 571),
      (0x70EAAE76, .stf 7 10 (.strong .die) .byp 630), (0x7555B7B7, .vld 10 21 (.strong .pkg) .str 951),
      (0x7AAECA3B, .vst 21 14 (.strong .dom) .stk 571)] := by
  decide +kernel

/-- R198, R199. -/
theorem test_decodes_indexed : Reads [
      (0x7DC3CAC1, .ldx 14 3 25 (.strong .die) .s32), (0x7C79EBC2, .stx 3 25 29 (.strong .pkg) .s32),
      (0x7F3D94C3, .vgather 25 29 18 (.strong .dom) .s32), (0x7FB23BC4, .vscatter 29 18 7 (.strong .pkg) .s32)] := by
  decide +kernel

/-- R201. -/
theorem test_decodes_tensor : Reads [
      (0x8247D000, .tld 18 7 13), (0x80EA8800, .tst 7 10 8)] := by
  decide +kernel

/-- R205. -/
theorem test_decodes_amo : Reads [
      (0x855572C0, .amoadd 10 21 14 .die .d), (0x86AE1BC1, .amoand 21 14 3 .pkg .d), (0x85C3CCC2, .amoor 14 3 25 .dom .d),
      (0x8479EAC3, .amoxor 3 25 29 .die .d), (0x873D93C4, .amomin 25 29 18 .pkg .d), (0x87B23BC5, .amomax 29 18 7 .pkg .d),
      (0x864752C6, .amominu 18 7 10 .die .d), (0x84EAACC7, .amomaxu 7 10 21 .dom .d), (0x855572C8, .amoswap 10 21 14 .die .d),
      (0x86AE1BC9, .amocas 21 14 3 .pkg .d), (0x85C3CC8A, .amofadd 14 3 25 .dom)] := by
  decide +kernel

/-- R206. -/
theorem test_decodes_red : Reads [
      (0x8803CCC0, .redadd 3 25 .dom .d), (0x8819EAC1, .redand 25 29 .die .d), (0x881D93C2, .redor 29 18 .pkg .d), (0x88123BC3, .redxor 18 7 .pkg .d),
      (0x880752C4, .redmin 7 10 .die .d), (0x880AACC5, .redmax 10 21 .dom .d), (0x881572C6, .redminu 21 14 .die .d),
      (0x880E1BC7, .redmaxu 14 3 .pkg .d), (0x8803CC8A, .redfadd 3 25 .dom)] := by
  decide +kernel

/-- R115, R213, R214. -/
theorem test_decodes_ev : Reads [
      (0x8C19E801, .lease 25 29), (0x8C1D0002, .evsig 29), (0x8C123803, .evcfg 18 7)] := by
  decide +kernel

/-- R74, R75, R77. -/
theorem test_decodes_strata : Reads [
      (0x90070001, .town 7), (0x91557002, .stt 10 21 14), (0x92AE1E43, .ldt 21 14 3 25), (0x91C3CF44, .ldtn 14 3 25 29), (0x90030005, .tclose 3)] := by
  decide +kernel

/-- R218, R219. -/
theorem test_decodes_count : Reads [
      (0x940CE801, .waitc 12 29), (0x97A50002, .cget 29 5), (0x94053803, .cset 5 7), (0x940A5004, .cadd 10 10)] := by
  decide +kernel

/-- R170. -/
theorem test_decodes_rand : Reads [
      (0x99400005, .rand 10 5)] := by
  decide +kernel

/-- R253, R254, R255. -/
theorem test_decodes_varith : Reads [
      (0xA2AE1D20, .vadd 21 14 3 5 .bf16), (0xA1C3CA21, .vsub 14 3 25 2 .bf16), (0xA079ED22, .vmul 3 25 29 5 .bf16),
      (0xA33D9123, .vfma 25 29 18 1 .bf16), (0xA3B23C24, .vfms 29 18 7 4 .bf16), (0xA2475185, .vmin 18 7 10 1 .z16),
      (0xA0EAA926, .vmax 7 10 21 1 .bf16), (0xA1550127, .vabs 10 21 1 .bf16), (0xA2AE0428, .vneg 21 14 4 .bf16), (0xA1C3CA89, .vadds 14 3 25 2 .z16),
      (0xA079ED8A, .vsubs 3 25 29 5 .z16), (0xA33D918B, .vand 25 29 18 1 .z16), (0xA3B23C8C, .vor 29 18 7 4 .z16), (0xA247518D, .vxor 18 7 10 1 .z16),
      (0xA0EAA98E, .vshl 7 10 21 1 .z16), (0xA155748F, .vshr 10 21 14 4 .z16)] := by
  decide +kernel

/-- R256. -/
theorem test_decodes_vspec : Reads [
      (0xA6AE1D20, .vdiv 21 14 3 5 .bf16), (0xA5C30521, .vsqrt 14 3 5 .bf16), (0xA4790222, .vrsqrt 3 25 2 .bf16), (0xA73D0523, .vrcp 25 29 5 .bf16),
      (0xA7B20124, .vexp2 29 18 1 .bf16), (0xA6470425, .vlog2 18 7 4 .bf16), (0xA4EA0126, .vsin 7 10 1 .bf16), (0xA5550127, .vcos 10 21 1 .bf16),
      (0xA6AE0428, .vtanh 21 14 4 .bf16)] := by
  decide +kernel

/-- R258, R259. -/
theorem test_decodes_vmask : Reads [
      (0xA823CA20, .vcmpeq 1 3 25 2 .bf16), (0xA899ED21, .vcmpne 4 25 29 5 .bf16), (0xA8BD9122, .vcmplt 5 29 18 1 .bf16),
      (0xA8523C23, .vcmple 2 18 7 4 .bf16), (0xAA475124, .vsel 18 7 10 1 .bf16), (0xA8240805, .kand 1 4 1), (0xA8810806, .kor 4 1 1),
      (0xA8212007, .kxor 1 1 4), (0xA8240008, .knot 1 4), (0xA8850009, .kmov 4 5), (0xA8BD0809, .kmovFromX 5 29), (0xABA51009, .kmovToX 29 5)] := by
  decide +kernel

/-- R261, R264. -/
theorem test_decodes_vcvt : Reads [
      (0xAE472852, .vcvt 18 7 .rtz 1 .s32 .bf16), (0xACEA84D2, .vcvtEf 7 10 4 0 .e5m2 .bf16)] := by
  decide +kernel

/-- R266, R267. -/
theorem test_decodes_vred : Reads [
      (0xB1550120, .vredsum 10 21 1 .bf16), (0xB2AE0481, .vredmin 21 14 4 .z16), (0xB1C30522, .vredmax 14 3 5 .bf16),
      (0xB0790223, .vscanIncl 3 25 2 .bf16), (0xB33D0D83, .vscanExcl 25 29 5 .z16), (0xB3B21123, .vscanCompact 29 18 1 .bf16)] := by
  decide +kernel

/-- R268, R269. -/
theorem test_decodes_vperm : Reads [
      (0xB64751B0, .vperm 18 7 10 1 .c8b), (0xB4EA0121, .vbcast 7 10 1 .bf16), (0xB55574B2, .vslide 10 21 14 4 .c8b),
      (0xB68E1823, .vzip 20 14 3 .bf16), (0xB5C3C824, .vunzip 14 3 25 .bf16), (0xB479E8B5, .vmovx 3 25 29 .c8b), (0xB73D9026, .vmovv 25 29 18 .bf16)] := by
  decide +kernel

/-- R270. -/
theorem test_decodes_vx : Reads [
      (0xBBB23C80, .vaddx 29 18 7 4 .z16), (0xBA475121, .vsubx 18 7 10 1 .bf16), (0xB8EAA922, .vmulx 7 10 21 1 .bf16),
      (0xB9557423, .vfmax 10 21 14 4 .bf16), (0xBAAE1D24, .vminx 21 14 3 5 .bf16), (0xB9C3CA25, .vmaxx 14 3 25 2 .bf16)] := by
  decide +kernel

/-- R99, R102, R103, R104, R106, R275, R276, R280, R281. -/
theorem test_decodes_engine0 : Reads [
      (0xC001180C, .mgw 3 12), (0xC002C800, .mgr 25 0), (0xC003E800, .mclaim 29), (0xC0049000, .mrel 18), (0xC0053A85, .mmac 7 10 5),
      (0xC0060000, .mcommit), (0xC007A800, .mwaitb 21), (0xC00870C1, .mread 14 3 1), (0xC0091E45, .mwrite 3 25 5), (0xC00ACF40, .mzero 25 29),
      (0xC00BEC80, .mcmdMmac 29 18), (0xC00B91C1, .mcmdCommit 18 7), (0xC00B3A82, .mcmdZero 7 10), (0xC00C5546, .mcapw 10 21 6)] := by
  decide +kernel

/-- R95, R100, R284, R287, R289, R290. -/
theorem test_decodes_engine1 : Reads [
      (0xC041AB86, .shw 21 14 6), (0xC0420001, .shseal 1), (0xC043180C, .shld 3 12), (0xC044CF5A, .cpin 25 29 true 10),
      (0xC045EC9D, .cpoutGet 29 18 true 13), (0xC04591F8, .cpoutPut 18 7 true 8), (0xC0463A91, .cpush 7 10 true 1), (0xC0465020, .cpushRelease 10)] := by
  decide +kernel

/-- R291, R293. -/
theorem test_decodes_engine2 : Reads [
      (0xC081AB9C, .chsub 21 14 true 12), (0xC08270C0, .chpoll 14 3)] := by
  decide +kernel

/-- R294, R295. -/
theorem test_decodes_engine3 : Reads [
      (0xC0C11E40, .xsched 3 25 0), (0xC0C2CF40, .xsend 25 29)] := by
  decide +kernel

/-- R298. -/
theorem test_decodes_engine4 : Reads [
      (0xC101EC80, .kick 29 18), (0xC1029000, .cancel 18), (0xC1033A80, .waitl 7 10)] := by
  decide +kernel
/-- R127: the words of an unassigned major or function, and words with a bit in a field that must hold zero or a reserved code, decode to nothing. -/
theorem test_refused_words : ∀ w ∈ [0x00000000, 0x9C000000, 0xFC000000, 0x04000018, 0x04000400, 0x04000815, 0x18000400, 0x180000C0, 0x24000000, 0x24000052, 0x2800C000,
    0x34000008, 0x34000041, 0x34000001, 0x34000203, 0x34000287, 0x380001E1, 0x38000006, 0x3C000051, 0x3C000003, 0x40001000, 0x4000D000, 0x7C000005, 0x7C000014, 0x7C000012,
    0x84000040, 0x8400000B, 0x840000CA, 0x88000088, 0x8A000080, 0x8C000004, 0x94000000, 0x98000008, 0xA00000E0, 0xA0000030 + 3, 0xA4000009, 0xA8000000, 0xA8001809, 0xAC00A000,
    0xB0001803, 0xB4200003, 0xB8000030 + 3, 0xC0000000, 0xC00D0000, 0xC1040000, 0xC0460060], decodeTableWord 32 w = none := by decide +kernel

/-! ## WellFormed refuses -/

/-- R252: element types outside a form's class. -/
theorem test_wf_classes : ∀ i ∈ ([.vadd 1 2 3 0 .c8a, .vsub 1 2 3 0 .e4m3, .vmul 1 2 3 0 .c8b, .vmin 1 2 3 0 .e5m2, .vmax 1 2 3 0 .c8a, .vfma 1 2 3 0 .s32, .vfms 1 2 3 0 .z8,
    .vabs 1 2 0 .z8, .vneg 1 2 0 .z32, .vadds 1 2 3 0 .f32, .vsubs 1 2 3 0 .f16, .vand 1 2 3 0 .bf16, .vor 1 2 3 0 .f32, .vxor 1 2 3 0 .c8a, .vshl 1 2 3 0 .f32,
    .vshr 1 2 3 0 .f32, .vdiv 1 2 3 0 .s32, .vsqrt 1 2 0 .s32, .vrsqrt 1 2 0 .z8, .vrcp 1 2 0 .s8, .vexp2 1 2 0 .s64, .vlog2 1 2 0 .s16, .vsin 1 2 0 .e4m3, .vcos 1 2 0 .z16,
    .vtanh 1 2 0 .c8a, .vcmpeq 1 1 2 0 .c8a, .vredsum 1 2 0 .c8a, .vredmin 1 2 0 .c8b, .vredmax 1 2 0 .e4m3, .vscanIncl 1 2 0 .c8a, .vscanExcl 1 2 0 .e5m2, .vaddx 1 2 3 0 .c8a,
    .vsubx 1 2 3 0 .c8b, .vmulx 1 2 3 0 .e4m3, .vminx 1 2 3 0 .c8a, .vmaxx 1 2 3 0 .c8a, .vfmax 1 2 3 0 .s32] : List Instr), i.wf = false := by decide

/-- R130: k0 cannot be written. -/
theorem test_wf_mask_zero : ∀ i ∈ ([.vcmpeq 0 1 2 0 .f32, .vcmpne 0 1 2 0 .f32, .vcmplt 0 1 2 0 .s8, .vcmple 0 1 2 0 .s8, .kand 0 1 2, .kor 0 1 2, .kxor 0 1 2, .knot 0 1,
    .kmov 0 1, .kmovFromX 0 1] : List Instr), i.wf = false := by decide

/-- R261 to R264: a part outside its range, a mode with an exact conversion or between integers, and EF with an integer source, an exact conversion or an odd pair. -/
theorem test_wf_conversions : ∀ i ∈ ([.vcvt 1 2 .rne 2 .f32 .bf16, .vcvt 1 2 .rne 1 .bf16 .f32, .vcvt 1 2 .rtz 0 .f32 .s8, .vcvt 1 2 .rup 0 .s8 .s32, .vcvt 1 2 .rdn 0 .f32 .f32,
    .vcvtEf 1 2 0 0 .c8a .s32, .vcvtEf 1 2 0 0 .f32 .f16, .vcvtEf 1 2 1 0 .c8a .bf16, .vcvtEf 1 2 0 2 .s32 .bf16] : List Instr), i.wf = false := by decide

/-- R178, R197 and R269: an odd pair, sizes that do not store or gather, and scopes that TLBINV does not have. -/
theorem test_wf_operands : ∀ i ∈ ([.vzip 3 1 2 .f32, .vunzip 1 2 3 .s8, .stx 1 2 3 .weak .z8, .stx 1 2 3 .weak .z16, .stx 1 2 3 .weak .z32, .vgather 1 2 3 .weak .z8,
    .vgather 1 2 3 .weak .f32, .vscatter 1 2 3 .weak .s8, .tlbinv 1 2 .core, .tlbinv 1 2 .bench, .tlbinvAll 1 .core, .tlbinvAll 1 .bench] : List Instr), i.wf = false := by decide

/-! ## Small states -/

/-- A tenant of 4 × 8 cores: four logical benches on package 0, die 0, and its quarry core 0. -/
def tenancy : Tenancy :=
  { wl := 4, hl := 8, asid := 7, quantum := 16384, tslice := 4096, spares := 2, memory := 2 ^ 30, seats := []
    places := [(0, { pkg := 0, die := 0, bench := 0 }), (1, { pkg := 0, die := 0, bench := 1 }), (2, { pkg := 0, die := 0, bench := 16 }), (3, { pkg := 0, die := 0, bench := 17 })]
    rects := [(0, { col := 0, row := 0, cols := 4, rows := 4 })], quarries := [0]
    areas := (List.range 35).map fun i => (0, 0x10000000 + 0x70000 * i) }

/-- A running launch of 8 indices on the tenant's cores 0 to 7, served by die 0 alone. -/
def run5 : Launch :=
  { tenant := 1, graph := 2, st := .running, status := 0, counter := 0, entry := 0x10000, gx := 8, gy := 1, gz := 1, noreissue := false, determinate := false
    termdetect := false, prio := 0, f := 0, n := 8, paramOff := 0, stackBase := 0, stackSize := 0, upvec := 0, uivec := 0, regions := [], lines := [], bindings := [], preds := []
    level := 0, since := 0, order := 0, nextIdx := 1, lostIdx := [], grants := [{ index := 0, lid := 0, rank := 0, done := false, lost := false }], pending := []
    stopped := false, taken := true, dies := [{ rank := 0, fenced := false, failed := false, beat := 0, heard := [], seen := [], acked := [] }], keystone := some 0, deputy := none
    waitingPkgs := [], startedAt := 0, sentBy := [], token := none, finished := false }

/-- The task of index 0. -/
def task5 : Task := { st := .running, launch := 5, pc := 0x10000, dta := Vector.replicate 256 0, dtb := Vector.replicate 256 0 }

/-- Core `lid` of tenant 1 with a task. -/
def coreOf (lid : Nat) (t : Task) : Core :=
  { id := { tenant := 1, lid := lid }, kind := .compute, place := Place.core ((mapFind (benchOf 4 lid) tenancy.places).getD default) (Tenancy.seat tenancy lid), task := t }

/-- Pages of the tenant as the bench's TLB holds them: code at 0x10000, a SHARED page at 0x20000, a PRIVATE page at 0x30000, and a STRATA page at 0x40000. -/
def pages : List TlbEntry :=
  [{ asid := 7, va := 0x10000, leaf := { kind := .readonly, tier := false, x := true, w := false, pkg := 0, addr := 0x100000, size := 0x10000 } },
   { asid := 7, va := 0x20000, leaf := { kind := .shared, tier := false, x := false, w := true, pkg := 0, addr := 0x200000, size := 0x10000 } },
   { asid := 7, va := 0x30000, leaf := { kind := .priv, tier := false, x := false, w := true, pkg := 0, addr := 0x300000, size := 0x10000 } },
   { asid := 7, va := 0x40000, leaf := { kind := .strata, tier := false, x := false, w := false, pkg := 0, addr := 0x400000, size := 0x10000 } }]

/-- A line all of whose tokens die 0 holds. -/
def ours : LineState := { homeCount := 0, homeOwner := false, others := [{ holder := .die 0 0, count := 16, owner := true, data := true, stamp := none }] }

/-- Core 0 of the tenant runs index 0 of launch 5; no other core is listed. Die 0 holds the tokens of the line of the tenant's root entry and of the first line of three pages. -/
def demo : State :=
  { State.reset with core := coreOf 0 task5, tenants := [(1, tenancy)], launches := [(5, run5)], pkgs := [(0, { up := true, asidTable := 0x8000 })]
                     tlbs := [((coreOf 0 task5).place.tlb, pages)], lines := [(0x200, ours), (0x4000, ours), (0x8000, ours), (0xC000, ours)] }

/-- The task changed. -/
def demoWith (f : Task → Task) : State := { demo with core := { demo.core with task := f task5 } }

/-- Scalar registers of the task set. -/
def regs (l : List (Reg × Word)) (s : State := demo) : State :=
  { s with core := { s.core with task := { s.task with x := l.foldl (fun x e => x.set e.1.val e.2) s.task.x } } }

/-- The instruction answers a next state of which `p` holds. -/
def after (i : Instr) (s : State) (p : State → Bool) : Bool :=
  match exec i s with
  | .next t => p t
  | _ => false

/-- What `X[1]` holds after the instruction. -/
def result (i : Instr) (s : State) : Option Word :=
  match exec i s with
  | .next t => some (t.rx 1)
  | _ => none

/-- The instruction makes the task FAULTED with this cause. -/
def trapsWith (i : Instr) (s : State) (c : Cause) : Bool := after i s fun t => t.task.st == .faulted && decide (t.task.trap.map (·.cause) = some c)

/-- A fat pointer: format, block code, span, space and address (R124). -/
def ptr (fmt blk span space addr : Nat) : Word := BitVec.ofNat 64 (fmt * 2 ^ 59 + blk * 2 ^ 55 + span * 2 ^ 52 + space * 2 ^ 48 + addr)

/-- The answer is a value of which `p` holds. -/
def got (r : Try α) (p : α → Bool) : Bool := match r with
  | .ok a => p a
  | _ => false

/-- The answer is this cause. -/
def caused (r : Try α) (c : Cause) : Bool := match r with
  | .cause e => decide (e = c)
  | _ => false

/-- The place of an access. -/
def at_ (r : Try Loc) (l : Loc) : Bool := got r fun m => decide (m = l)

/-- The leaf of the SHARED page. -/
def sharedLeaf : Leaf := { kind := .shared, tier := false, x := false, w := true, pkg := 0, addr := 0x200000, size := 0x10000 }
/-- The leaf of the PRIVATE page. -/
def privLeaf : Leaf := { kind := .priv, tier := false, x := false, w := true, pkg := 0, addr := 0x300000, size := 0x10000 }
/-- The leaf of the code page. -/
def codeLeaf : Leaf := { kind := .readonly, tier := false, x := true, w := false, pkg := 0, addr := 0x100000, size := 0x10000 }

/-- No line is pinned where no listed line is. -/
theorem no_pins {s : State} (h : ∀ e ∈ s.lines, e.2.pins = []) (m : Line) : (s.line m).pins = [] := by
  unfold State.line mapGet
  cases hm : mapFind (lineKey m) s.lines with
  | none => rfl
  | some x => exact h _ (mem_of_mapFind hm)

/-- A supervisor core with a task, with or without a notification. -/
def super (ns : List Notif) (l : List (Reg × Word) := []) : State :=
  regs l { demo with
    core := { Core.idle { tenant := 0, lid := 0 } .supervisor with place := { unit := 12, col := 9 }, task := task5, asid := 7 }
    pkgs := [(0, { up := true, active := 1, notifs := ns })] }

/-! ## Scalar instructions -/

/-- R150 to R155: `X[2]` is −3 and `X[3]` is 70. -/
theorem test_alu : ∀ e ∈ ([(.add 1 2 3, 67), (.sub 1 3 2, 73), (.and 1 2 3, 68), (.or 1 2 3, -1), (.xor 1 2 3, -69), (.sll 1 2 3, -192), (.srl 1 2 3, 0x3FFFFFFFFFFFFFF),
    (.sra 1 2 3, -1), (.slt 1 2 3, 1), (.sltu 1 2 3, 0), (.mul 1 2 3, -210), (.mulh 1 2 3, -1), (.mulhu 1 2 3, 69), (.div 1 3 2, -23), (.divu 1 2 3, 0x3A83A83A83A83A8),
    (.rem 1 3 2, 1), (.remu 1 2 3, 13), (.min 1 2 3, -3), (.max 1 2 3, 70), (.minu 1 2 3, 70), (.maxu 1 2 3, -3), (.clz 1 3, 57), (.ctz 1 3, 1), (.popc 1 2, 63)] : List (Instr × Word)),
    result e.1 (regs [(2, -3), (3, 70)]) = some e.2 := by decide +kernel

/-- R152 to R155: immediates are signed; LUI adds its immediate × 65,536. -/
theorem test_immediates : ∀ e ∈ ([(.addi 1 2 0x8000, -32771), (.andi 1 2 0xFFF0, -16), (.ori 1 0 0x8001, -32767), (.xori 1 2 0xFFFF, 2), (.slli 1 2 63, 2 ^ 63), (.srli 1 2 63, 1),
    (.srai 1 2 1, -2), (.slti 1 2 0x7FFE, 1), (.sltiu 1 0 0x4000, 1), (.lui 1 2 0xFFFF, -65539)] : List (Instr × Word)), result e.1 (regs [(2, -3)]) = some e.2 := by decide +kernel

/-- R151: division by zero and the overflow. -/
theorem test_division_edges : ∀ e ∈ ([(.div 1 2 0, -1), (.divu 1 2 0, -1), (.rem 1 2 0, 2 ^ 63), (.remu 1 2 0, 2 ^ 63), (.div 1 2 3, 2 ^ 63), (.rem 1 2 3, 0)] : List (Instr × Word)),
    result e.1 (regs [(2, 2 ^ 63), (3, -1)]) = some e.2 := by decide +kernel

/-- R130: x0 discards what is written and reads as 0; the program counter moves on. -/
theorem test_x0 : after (.addi 0 0 5) demo (fun t => t.rx 0 == 0 && t.task.pc == 0x10004) = true := by decide +kernel

theorem test_meets_IntegerArithmetic : Alone demo := rfl

theorem test_meets_Division : Alone (regs [(2, 2 ^ 63), (3, -1)]) ∧ (regs [(2, 2 ^ 63), (3, -1)]).rx 3 ≠ 0 ∧ demo.rx 3 = 0 ∧
    ((regs [(2, 2 ^ 63), (3, -1)]).rx 2).toInt = -2 ^ 63 ∧ ((regs [(2, 2 ^ 63), (3, -1)]).rx 3).toInt = -1 := by decide +kernel

/-- R157: PMK, PGET and PSET on the format FP32 (code 1), block code 2, span 3 and space 1. -/
theorem test_fat_pointers : ∀ e ∈ ([(.pmk 1 2 3, ptr 1 2 3 1 0x1234), (.pget 1 4 .fmt, 9), (.pget 1 4 .blk, 5), (.pget 1 4 .span, 6), (.pget 1 4 .space, 2), (.pget 1 4 .addr, 2 ^ 48 - 8),
    (.pset 1 4 2 .addr, ptr 9 5 6 2 0x1234), (.pset 1 4 5 .span, ptr 9 5 3 2 (2 ^ 48 - 8)), (.addp 1 4 5, ptr 9 5 6 2 (2 ^ 48 - 5)), (.subp 1 4 2, ptr 9 5 6 2 (2 ^ 48 - 8 - 0x1234))] :
    List (Instr × Word)), result e.1 (regs [(2, 0x1234), (3, 1 * 2 ^ 11 + 2 * 2 ^ 7 + 3 * 2 ^ 4 + 1), (4, ptr 9 5 6 2 (2 ^ 48 - 8)), (5, 3)]) = some e.2 := by decide +kernel

/-- Where each cause of R157 arises. -/
theorem test_meets_FatPointers : ∀ e ∈ ([(.pmk 1 2 3, protect 0, 0, 2 ^ 16), (.pmk 1 2 3, { code := .addressWrap }, 2 ^ 48, 2 ^ 16 - 1), (.pmk 1 2 3, protect 0, 2 ^ 48 - 1, 21 * 2 ^ 11),
    (.pmk 1 2 3, protect 0, 0, 7 * 2 ^ 4), (.pmk 1 2 3, protect 0, 0, 4), (.pset 1 2 3 .addr, { code := .addressWrap }, 0, 2 ^ 48), (.pset 1 2 3 .fmt, protect 0, 0, 32),
    (.pset 1 2 3 .fmt, protect 0, 0, 21), (.pset 1 2 3 .span, protect 0, 0, 7), (.pset 1 2 3 .space, protect 0, 0, 4), (.addp 1 2 3, { code := .addressWrap }, 2 ^ 48 - 1, 1),
    (.addp 1 2 3, { code := .addressWrap }, 0, -1), (.subp 1 2 3, { code := .addressWrap }, 5, 6)] : List (Instr × Cause × Word × Word)),
    let s := regs [(2, e.2.2.1), (3, e.2.2.2)]
    Alone s ∧ trapsWith e.1 s e.2.1 = true := by decide +kernel

/-- Where each clause of the branches applies, with JALR beyond the canonical addresses and to the end-of-task address. -/
theorem test_meets_BranchesAndJumps : ∀ e ∈ ([(.beq 2 2 0x1000, 0x10000 - 16384), (.beq 2 3 1, 0x10004), (.bne 2 3 0xFFF, 0x10000 + 16380), (.blt 2 3 4, 0x10010), (.bge 3 2 4, 0x10010),
    (.bltu 2 3 4, 0x10004), (.bgeu 2 3 4, 0x10010), (.jal 1 0x100000, 0x10000 - 4194304), (.jalr 1 4 0xFFFF, 0x8000)] : List (Instr × Word)),
    after e.1 (regs [(2, -1), (3, 1), (4, 0x8004)]) (fun t => t.task.pc == e.2) = true := by decide +kernel

theorem test_jalr : after (.jalr 1 4 3) (regs [(4, 0x8004)]) (fun t => t.rx 1 == 0x10004 && t.task.pc == 0x8004) = true ∧
    trapsWith (.jalr 1 4 0) (regs [(4, 2 ^ 48)]) (protect 3 (2 ^ 48)) = true ∧
    after (.jalr 1 1 0) (regs [(1, 0x0000FFFFFFFF0000)]) (fun t => t.task.st == .ended) = true := by decide +kernel

/-! ## Causes and handlers -/

/-- A task in an upcall handler. -/
def handler (h : Handling) : State := demoWith fun t => { t with handling := h, upepc := 0x10100, uiepc := 0x10200, upvec := 0x10040 }

theorem test_meets_RegisterFiles : task5.inBody = false ∧ task5.handling = .none ∧ (handler .upcall).task.handling ≠ .none ∧ 24 ≤ (24 : Reg).val := by decide +kernel

/-- R376: in a handler x24 is the shadow bank's. -/
theorem test_shadow_bank : after (.addi 24 0 9) (handler .upcall) (fun t => t.task.xs[0] == 9 && t.task.x[24] == 0 && t.rx 24 == 9) = true := by decide +kernel

/-- A task with a handler that enables ADDRESS_WRAP alone. -/
def upcalls : State := demoWith fun t => { t with upvec := 0x10040, upmask := 16 }

theorem test_meets_CausesAreDelivered :
    (let c : Cause := { code := .addressWrap, sub := 3, addr := 5 }
     Alone upcalls ∧ upcalls.task.traps c = false ∧ upcalls.task.traps { code := .pageFault } = false ∧ upcalls.task.requests.length < 16 ∧ demo.task.traps c = true ∧
     demo.task.traps { code := .pageFault } = true ∧ upcalls.task.traps { code := .privilege } = true ∧ upcalls.task.traps (protect 8) = true ∧ (handler .upcall).task.traps c = true ∧
     (deliver c 0x10004 upcalls).task.pc = 0x10040 ∧ (deliver c 0x10004 upcalls).rx 27 = 0x10004 ∧ (deliver c 0x10004 upcalls).task.handling = .upcall ∧
     (deliver c 0x10004 demo).task.st = .faulted) ∧
    (let c : Cause := { code := .addressWrap, sub := 3, addr := 5 }
     let s := demoWith fun t => { t with inBody := true, wait := .idle, rep := { t.rep with running := true, wait := .remote }, area := some (0, 0x10000000) }
     Alone s ∧ s.task.traps c = true ∧ s.task.inBody = true ∧ s.task.rep.wait.reissues = false ∧ demo.task.inBody = false ∧ demo.task.area = none ∧
     (deliver c 0x10004 s).task.asyncs = [{ c with body := true }] ∧ (deliver c 0x10004 s).task.st = .running ∧
     (let u := demoWith fun t => { t with area := some (0, 0x10000000) }
      let v : State := { u with lines := [(0x400000, ours)] }
      u.task.traps c = true ∧ u.task.area = some (0, 0x10000000) ∧ (u.line { pkg := 0, idx := 0x400000 }).restful = true ∧
      (v.line { pkg := 0, idx := 0x400000 }).homeCount ≠ 16 ∧ ((deliver c 0x10004 v).line { pkg := 0, idx := 0x400000 }).queue.length = 1 ∧ memBytes (deliver c 0x10004 u).mem (memKey 0 0x10000000) 4 = [4, 3, 0, 0]) ∧
     (let full := demoWith fun t => { t with upvec := 0x10040, requests := List.replicate 16 0 }
      full.task.traps { code := .pageFault } = false ∧ 16 ≤ full.task.requests.length ∧ (deliver { code := .pageFault } 0 full).task.wait = .notice)) := by decide +kernel

/-- A completion interrupt is due. -/
def interrupted : State := demoWith fun t => { t with uictr := 5, uivec := 0x10080 }

theorem test_meets_CompletionInterruptEntry : interrupted.core.id = { tenant := 1, lid := 0 } ∧ Alone interrupted ∧ interrupted.task.st = .running ∧
    interrupted.task.draining = none ∧ interrupted.task.wait = .none ∧ interrupted.task.uipend ≠ 0 ∧ interrupted.task.uivec ≠ 0 ∧ interrupted.task.handling = .none ∧
    interrupted.task.asyncs = [] ∧ interrupted.task.gangDone = false ∧ interrupted.task.xphase = none ∧ (∀ w ∈ [Wait.idle, .term 3, .level 9 1 none],
      after (.completionInterrupt { tenant := 1, lid := 0 }) { interrupted with core := { interrupted.core with task := { interrupted.task with wait := w } } }
        (fun t => t.task.pc == 0x10080 && t.task.wait == .none && t.task.uiepc == 0x10000) = true) ∧
    after (.completionInterrupt { tenant := 1, lid := 0 }) interrupted (fun t => t.task.pc == 0x10080 && t.rx 24 == 5) = true := by decide +kernel

theorem test_meets_Returns : Alone (handler .upcall) ∧ demo.task.handling ≠ .upcall ∧ demo.task.handling ≠ .interrupt ∧ (handler .upcall).task.handling = .upcall ∧
    (handler .interrupt).task.handling = .interrupt ∧ after .upret (handler .upcall) (fun t => t.task.pc == 0x10100) = true ∧
    after .uiret (handler .interrupt) (fun t => t.task.pc == 0x10200 && t.task.handling == .none) = true := by decide +kernel

/-! ## Supervisor cores -/

/-- R179: PHYSCOORD, CORETYPE, ASID and HALF of a supervisor core in column 9, whose half is active or is not. -/
theorem test_svr : ∀ e ∈ ([(.svr 1 .physcoord, 0xC0009), (.svr 1 .coretype, 2), (.svr 1 .asid, 7), (.svr 1 .half, 0)] : List (Instr × Word)),
    result e.1 (super []) = some e.2 ∧ result (.svr 1 .half) { super [] with pkgs := [(0, { up := true })] } = some 1 := by decide +kernel

/-- R127: a compute core may not run them. -/
theorem test_privilege : ∀ i ∈ ([.svr 1 .asid, .svw 1 .ptbase, .tlbinv 1 2 .die, .tlbinvAll 1 .dom, .cacheinvIcache 1, .cacheinvL2 1, .wfi] : List Instr),
    trapsWith i demo { code := .privilege } = true := by decide +kernel

theorem test_meets_SupervisorInstructions : demo.core.kind ≠ .supervisor ∧ (super []).core.kind = .supervisor ∧ Alone (super []) ∧ ((super [.health]).pkg 0).notifs = [.health] ∧
    ((super []).pkg 0).notifs = [] ∧ ((super [] [(2, 255), (3, 256)]).rx 2).toNat < 256 ∧ 256 ≤ ((super [] [(2, 255), (3, 256)]).rx 3).toNat ∧
    ((super [] [(2, 0x200040)]).rx 2).toNat % 64 = 0 ∧ ((super [] [(2, 0x200040)]).rx 2).toNat < 2 ^ 52 ∧ ¬ ((super [] [(2, 0x200041)]).rx 2).toNat % 64 = 0 ∧
    65536 ≤ ((super [] [(2, 65536), (3, 65535)]).rx 2).toNat ∧ ((super [] [(2, 65536), (3, 65535)]).rx 3).toNat < 65536 ∧ (∀ e ∈ (super []).lines, ∀ r ∈ e.2.queue, r.op = .access) ∧
    (super [.health]).core.place.col / 8 % 2 = 1 ∧ after .wfi (super [.health]) (fun t => (t.pkg 0).notifs == [] && t.task.wait == .none) = true ∧
    after .wfi { super [.health] with pkgs := [(0, { up := true, notifs := [.health] })] } (fun t => t.task.wait == .idle) = true ∧ after .wfi (super []) (fun t => t.task.wait == .idle) = true := by decide +kernel

/-- R178: TLBINV drops the entry of ASID 7 that covers 0x20044 from the TLBs of its die, and no other. -/
theorem test_tlbinv : after (.tlbinv 2 3 .dom) (super [] [(2, 0x20044), (3, 7)]) (fun t => (t.tlbs.map fun e => e.2.map (·.va)) == [[0x10000, 0x30000, 0x40000]]) = true ∧
    after (.tlbinvAll 3 .dom) (super [] [(3, 7)]) (fun t => (t.tlbs.map fun e => e.2.length) == [] || (t.tlbs.map fun e => e.2.length) == [0]) = true := by decide +kernel

/-! ## System registers and control -/

theorem test_meets_RandomNumbers : Alone demo ∧ after (.rand 1 3) demo (fun t => t.task.rngc[3] == 1) = true := by decide +kernel

theorem test_meets_SystemRegisterReads : Alone demo ∧ demo.task.determinate = false ∧ (demoWith fun t => { t with determinate := true }).task.determinate = true ∧
    result (.sysr 1 .lcid) demo = some 0 ∧ result (.sysr 1 .uipend) (demoWith fun t => { t with uictr := 5, notices := [9] }) = some 0x10005 ∧
    after (.sysr 1 .pgnote) (demoWith fun t => { t with notices := [9, 8] }) (fun t => t.rx 1 == 9 && t.task.notices == [8]) = true := by decide +kernel

/-- R172: UPMASK keeps its implemented bits, UPVEC its bits above 1; R16: UIPEND bits are cleared by ones. -/
theorem test_meets_SystemRegisterWrites : Alone (regs [(2, -1)]) ∧ (regs [(2, -1)]).task.wlast ≠ some (regs [(2, -1)]).now ∧
    after (.sysw 2 (.win 1)) (demoWith fun t => { t with wlast := some 0 }) (fun t => t.task.pc == 0x10000 && t.task.wait == .stall) = true ∧ after (.sysw 2 .upmask) (regs [(2, -1)]) (fun t => t.task.upmask == 0xFF1DA) = true ∧
    after (.sysw 2 .upvec) (regs [(2, 0x10043)]) (fun t => t.task.upvec == 0x10040) = true ∧
    after (.sysw 2 .uipend) (regs [(2, 4)] interrupted) (fun t => t.task.uictr == 1) = true := by decide +kernel

theorem test_meets_DecodeTables :
    (let s := regs [(2, ptr 0 0 0 1 0), (3, ptr 1 0 0 1 0), (4, ptr 0 0 0 2 0), (5, ptr 0 0 0 1 32)]
     Alone s ∧ s.task.steps = [] ∧ pFmt (s.rx 2) = 0 ∧ pSpace (s.rx 2) ≤ 1 ∧ pAddr (s.rx 2) % 64 = 0 ∧ pFmt (s.rx 3) ≠ 0 ∧ 1 < pSpace (s.rx 4) ∧ pAddr (s.rx 5) % 64 ≠ 0 ∧
     (match tableBytes (s.rx 2) 16 s with | .ok r => (List.range 256).all fun c => decide (tableWord r.2 c < 2 ^ 19) | _ => false) = true ∧
     after (.dtldInt8 .a) s (fun t => t.task.dta[1] == 0x1FC00 && t.task.dta[255] == 0x5FC00) = true ∧
     (let wide : State := { s with core := { s.core with task := { s.task with scratch := spWrite 0 1020 (bytesOf (2 ^ 19) 4) s.task.scratch } } }
      (match tableBytes (wide.rx 2) 16 wide with | .ok r => decide (2 ^ 19 ≤ tableWord r.2 255) | _ => false) = true)) := by decide +kernel

/-- Counter 2 holds 7, `X[2]` 7 and `X[3]` 8. -/
def counted : State := regs [(2, 7), (3, 8)] (demoWith fun t => { t with c := t.c.set 2 7 })

/-- R166, R218 and R219. -/
theorem test_meets_CountersAndWaits : Alone counted ∧ counted.task.determinate = false ∧ counted.task.lease = none ∧
    (counted.task.c[(2 : R16)] - BitVec.ofNat 32 (counted.rx 2).toNat).toNat < 2 ^ 31 ∧ 2 ^ 31 ≤ (counted.task.c[(2 : R16)] - BitVec.ofNat 32 (counted.rx 3).toNat).toNat ∧
    counted.otherReady = false ∧ result (.cget 1 2) counted = some 7 ∧ after (.cadd 2 3) counted (fun t => t.task.c[2] == 15) = true ∧
    after (.waitc 2 2) counted (fun t => t.task.wait == .none && t.task.pc == 0x10004) = true ∧ after (.waitc 2 3) counted (fun t => t.task.wait == .idle) = true ∧
    after (.await 2 3) counted (fun t => t.task.wait == .await 2 8 && t.task.draining == some .suspended) = true := by decide +kernel

/-- Another task of the physical core is ready: the same place, SUSPENDED with no condition. -/
def shared : State := { demo with others := [(coreKey { tenant := 1, lid := 9 }, { coreOf 0 { task5 with st := .suspended } with id := { tenant := 1, lid := 9 } })] }

theorem test_yield : shared.otherReady = true ∧ Alone shared ∧ after .yield shared (fun t => t.task.draining == some .suspended && t.task.pc == 0x10004) = true := by decide +kernel

/-- Two words at 0x10004: `vadd.f32 v0, v8, v16`, and VSUB or ADD, which no body may hold. -/
def body (bad : Bool) : State :=
  regs [(2, 40)] { demo with mem := memStore [] (memKey 0 0x100004) (leBytes 4 0xA0088000 ++ leBytes 4 (if bad then 0x04000000 else 0xA0000001)) }

/-- R162 and R163: a REP of two words that repeats 40 times, one with a body word that may not issue, one without a repetition, and one while a body is frozen. -/
theorem test_meets_Repetition : Alone (body false) ∧ (body false).task.rep.frozen = false ∧ (body false).rx 2 ≠ 0 ∧ (body false).rx 0 = 0 ∧
    (match fetchBody (body false) 0x10004 2 with | .ok r => decide (r.2 = [0xA0088000, 0xA0000001]) | _ => false) = true ∧
    (match fetchBody (body true) 0x10004 2 with | .ok r => decide (r.2 = [0xA0088000, 0x04000000]) | _ => false) = true ∧ bodyWordOk 0x04000000 = false ∧
    after (.rep 1 2 1 0 0) (body false) (fun t => t.task.pc == 0x1000C && t.task.rep.running && t.task.rep.total == 40) = true ∧
    after (.rep 1 2 1 0 0) (body true) (fun t => t.task.st == .faulted) = true ∧
    (demoWith fun t => { t with rep := { frozen := true } }).task.rep.frozen = true := by decide +kernel

/-- No core has begun to FUSE where no other core is listed. -/
theorem fusing_alone {s : State} (h : s.others = []) (hs : s.task.fusing = 0) (c : CoreId) : s.fusingOf c = 0 := by
  unfold State.fusingOf State.findCore
  by_cases hc : s.core.id = c
  · simpa [hc, State.task] using hs
  · simp [hc, h, mapFind]

theorem test_meets_ExitEndsTask : demo.task.replay = [] ∧ demo.storesWait = false ∧ demo.task.held = [] ∧ demo.working = false ∧ demo.task.steps = [] ∧ demo.task.lease = none ∧
    Alone demo ∧ demo.task.termdetect = false ∧ demo.others = [] ∧ demo.task.fusing = 0 ∧
    (let s : State := { demoWith (fun t => { t with termdetect := true }) with launches := [(5, { run5 with finished := true })] }
     s.task.termdetect = true ∧ (s.launch? s.task.launch).map (·.finished) = some true ∧ result (.termwait 1) s = some 1) ∧
    after .exit demo (fun t => t.task.st == .ended && decide ((t.launch? 5).map (·.counter) = some 1)) = true ∧ after (.fence .dom) demo (fun t => t.task.pc == 0x10004) = true := by decide +kernel

/-- Cores 0 and 1 of a bench; core 1 has begun to FUSE to a gang of `n`. -/
def two (n : Nat) (f : Task → Task := id) : State :=
  { demoWith f with others := [(coreKey { tenant := 1, lid := 1 }, coreOf 1 (f { task5 with index := 1, fusing := n, wait := if n = 0 then .none else .stall }))] }

theorem test_meets_GangsMoveTogether :
    (let s := two 2
     s.core.kind = .compute ∧ Alone s ∧ (∀ c ∈ s.group 2, s.inCoreSet c.lid = true) ∧ s.core.id ∈ s.group 2 ∧ (s.group 2).Nodup ∧ (super []).core.kind ≠ .compute ∧
     s.group 2 = [{ tenant := 1, lid := 0 }, { tenant := 1, lid := 1 }] ∧ s.fusingOf { tenant := 1, lid := 1 } = 2 ∧ (two 0).fusingOf { tenant := 1, lid := 1 } = 0 ∧
     after (.fuse .g2) s (fun t => t.task.gang == 1 && t.task.pc == 0x10004 && (t.findCore { tenant := 1, lid := 1 }).any fun k => k.task.gang == 1 && k.task.pc == 0x10004) = true ∧
     after (.fuse .g2) (two 0) (fun t => t.task.fusing == 2 && t.task.wait == .stall) = true) ∧
    (let s := two 0 fun t => { t with gang := 1 }
     let u : State := { s with others := s.others.map fun e => (e.1, { e.2 with task := { e.2.task with gangDone := true } }) }
     s.task.gang ≠ 0 ∧ s.task.inBody = false ∧ s.core.saved = [] ∧ s.memberDone { tenant := 1, lid := 1 } = false ∧ u.memberDone { tenant := 1, lid := 1 } = true ∧
     s.gangMembers.Nodup ∧ s.core.id ∈ s.gangMembers ∧ after (.addi 1 0 4) s (fun t => t.task.gangDone && t.rx 1 == 4) = true ∧
     after (.addi 1 0 4) u (fun t => !t.task.gangDone && t.others.all fun e => !e.2.task.gangDone) = true) := by decide +kernel

/-- The premise of the gang statements: the cores of `two` are keyed. -/
theorem keyed_two : (two 2).Keyed := keyed_of_entries (by decide +kernel) (by decide +kernel)
/-- The forms of R40 and R41 that diverge: FUSE outside the core set, beside a core that waits with another size or waits for another group, in a gang; EXIT while a member
waits; and a branch on which members differ. -/
theorem test_meets_GangsMoveTogether_diverge :
    (let s : State := { two 2 with launches := [(5, { run5 with n := 1 })] }
     (∃ c ∈ s.group 2, s.inCoreSet c.lid = false) ∧
     after (.fuse .g2) s (fun t => t.task.st == .faulted && (t.findCore { tenant := 1, lid := 1 }).any fun k => k.task.st == .faulted) = true) ∧
    ((∀ c ∈ (two 4).group 2, (two 4).inCoreSet c.lid = true) ∧ ({ tenant := 1, lid := 1 } : CoreId) ∈ (two 4).group 4 ∧ ((two 4).group 4).Nodup ∧
     after (.fuse .g2) (two 4) (fun t => t.task.st == .faulted && t.others.all fun e => e.2.task.st == .faulted) = true) ∧
    (let s : State := { demo with others := [(coreKey { tenant := 1, lid := 4 }, coreOf 4 { task5 with fusing := 2, wait := .stall })] }
     (∀ c ∈ s.group 4, s.inCoreSet c.lid = true) ∧ (s.group 4).Nodup ∧ { tenant := 1, lid := 4 } ∈ s.group 4 ∧ { tenant := 1, lid := 4 } ∉ s.group 2 ∧
     after (.fuse .g4) s (fun t => t.task.st == .faulted && t.others.all fun e => e.2.task.st == .running) = true) ∧
    (let s := two 0 fun t => { t with gang := 1 }
     after (.fuse .g2) s (fun t => t.task.st == .faulted && t.others.all fun e => e.2.task.st == .faulted && e.2.task.gang == 0) = true) ∧
    ((two 2).fusingOf { tenant := 1, lid := 1 } = 2 ∧ Drained (two 2) ∧ (two 2).working = false ∧ (two 2).task.lease = none ∧
     after .exit (two 2) (fun t => t.task.st == .ended && t.others.all fun e => e.2.task.st == .faulted) = true) ∧
    (let s : State := { two 0 fun t => { t with gang := 1 } with others := (two 0 fun t => { t with gang := 1, x := t.x.set 1 8 }).others }
     s.memberDone { tenant := 1, lid := 1 } = false ∧ ({ tenant := 1, lid := 1 } : CoreId) ∈ s.gangMembers ∧
     (∀ k, s.findCore { tenant := 1, lid := 1 } = some k → k.task.pc = s.task.pc ∧ k.task.rx 1 = 8) ∧
     ∀ i ∈ ([.beq 1 0 4, .bne 1 0 4, .jalr 2 1 0] : List Instr),
       after i s (fun t => t.task.st == .faulted && t.task.gang == 0 && t.others.all fun e => e.2.task.st == .faulted) = true) := by decide +kernel
/-! ## Memory -/

/-- Accesses of the first lines of the pages can be performed now. -/
theorem ready_demo : Ready demo sharedLeaf 0x20008 true ∧ Ready demo sharedLeaf 0x20008 false ∧ Ready demo privLeaf 0x30000 false ∧ Ready demo codeLeaf 0x10000 false := by
  refine ⟨⟨?_, ?_, ?_, rfl, no_pins (by decide)⟩, ⟨?_, ?_, ?_, rfl, no_pins (by decide)⟩, ⟨?_, ?_, ?_, rfl, no_pins (by decide)⟩, ⟨?_, ?_, ?_, rfl, no_pins (by decide)⟩⟩ <;>
    decide +kernel

/-- R183: the last and first addresses of the space, and one past each. -/
theorem test_meets_MemoryAddresses :
    (let s := regs [(2, ptr 3 0 0 0 (2 ^ 48 - 8)), (3, ptr 3 0 0 0 8), (4, -1)]
     got (memPtr s 3 (-1) 8) (fun p => p == ptr 3 0 0 0 0) = true ∧ caused (memPtr s 3 (-2) 8) { code := .addressWrap, addr := s.rx 3 } = true ∧
     got (memPtr s 2 0 8) (fun p => p == s.rx 2) = true ∧ caused (memPtr s 2 1 8) { code := .addressWrap, addr := s.rx 2 } = true ∧
     got (idxPtr s 3 4 8) (fun p => p == ptr 3 0 0 0 0) = true ∧ ((gatherPtrs (s.rx 3) (BitVec.ofNat 512 (2 ^ 32 - 2)) 4).length = 16) ∧
     got ((gatherPtrs (s.rx 3) (BitVec.ofNat 512 (2 ^ 32 - 2)) 4).getD 0 (.wait .none)) (fun p => p == ptr 3 0 0 0 0) = true) := by decide +kernel

/-- R184 to R187 and R360: a place or a cause of each kind. -/
theorem test_meets_AccessChecks :
    caused (locate demo .load (ptr 21 0 0 0 0) 8 false) (protect 0 (ptr 21 0 0 0 0)) = true ∧ caused (locate demo .load (ptr 0 0 7 0 0) 8 false) (protect 0 (ptr 0 0 7 0 0)) = true ∧
    caused (locate demo .load (ptr 0 0 0 4 0) 8 false) (protect 0 (ptr 0 0 0 4 0)) = true ∧
    caused (locate demo .store (ptr 18 0 0 0 1) 8 false) { code := .seamWrite, addr := ptr 18 0 0 0 1 } = true ∧
    caused (locate demo .lease (ptr 0 0 0 1 0) 1 false) (protect 0 (ptr 0 0 0 1 0)) = true ∧ caused (locate demo .load (ptr 0 0 0 1 (2 ^ 17)) 8 false) (protect 0 (ptr 0 0 0 1 (2 ^ 17))) = true ∧
    caused (locate demo .load (ptr 0 0 0 2 (2 ^ 33)) 8 false) (protect 0 (ptr 0 0 0 2 (2 ^ 33))) = true ∧ caused (locate demo .load (ptr 0 0 0 0 0x20008) 4 true) (protect 0 (ptr 0 0 0 0 0x20008)) = true ∧
    caused (locate demo .load (ptr 0 0 0 1 4) 8 false) (protect 1 (ptr 0 0 0 1 4)) = true ∧ at_ (locate demo .load (ptr 0 0 5 1 0x1FFF8) 8 false) (.scratch 0x1FFF8 5) = true ∧
    at_ (locate demo .store (ptr 0 0 0 2 (3 * 2 ^ 17 + 8)) 8 false) (.remote 3 8 0) = true ∧ at_ (locate demo .load (ptr 1 0 0 0 0x20008) 4 true) (.phys sharedLeaf 0x20008) = true ∧
    caused (locate demo .load (ptr 0 0 0 0 0x50000) 8 false) { code := .pageFault, addr := 0x50000 } = true ∧ caused (locate demo .load (ptr 0 0 0 0 0x40000) 8 false) (protect 2 0x40000) = true ∧
    caused (locate demo .store (ptr 0 0 0 0 0x10000) 8 false) (protect 2 0x10000) = true ∧ caused (locate demo .lease (ptr 0 0 0 0 0x30000) 1 false) (protect 2 0x30000) = true ∧
    (0 : Nat) < 8 := by decide +kernel

/-- Core 4, not the current one, holds a lease of the line of this key until cycle 9. -/
def leasedTo (key : Nat) : State :=
  { demo with others := [(coreKey { tenant := 1, lid := 4 }, coreOf 4 { task5 with lease := some (lineOf 0 (64 * key), 9) })]
              lines := [(key, { ours with lease := some { tenant := 1, lid := 4 } })] }

/-- The state with another root entry of the ASID. -/
def rooted (w : Nat) : State := { demo with mem := memStore [] 0x8038 (leBytes 8 w) }

/-- A table of the ASID's root at 0x8000 + 8 × 7 and three tables below it, all at home in die 0: VA 0x60000 has a 64 KiB leaf, VA 0x70000 one under migration, VA 0x200000 a leaf of level 2,
VA 0x400000 a malformed entry. -/
def walked : State :=
  { demo with mem := entries.foldl (fun m e => memStore m e.1 (leBytes 8 e.2)) []
              lines := [(0x200, ours), (0x280, ours), (0x2C0, ours), (0x4000, ours), (0x8000, ours), (0xC000, ours), (0x20000, ours)] }
where
  entries : List (Nat × Nat) :=
    [(0x8038, 2 ^ 63 + 0x800000), (0x800000, 2 ^ 63 + 0xA000), (0xA000, 2 ^ 63 + 0xB000), (0xB030, 2 ^ 63 + 2 * 2 ^ 60 + 2 ^ 58 + 2 ^ 56 + 0x500000),
      (0xB038, 2 ^ 63 + 2 * 2 ^ 60 + 2 ^ 58 + 2 ^ 56 + 2 ^ 53 + 0x500000), (0xA008, 2 ^ 63 + 2 ^ 60 + 2 ^ 58 + 0x600000), (0xA010, 2 ^ 63 + 2 ^ 52)]

theorem test_meets_Translation : tlbFind walked 0x20008 = some sharedLeaf ∧ tlbFind walked 0x60000 = none ∧ walked.rootEntry.testBit 63 = true ∧ demo.rootEntry.testBit 63 = false ∧
    Machine.translate walked 0x20008 = .leaf sharedLeaf ∧ Machine.translate walked 0x60010 = .leaf { sharedLeaf with addr := 0x500000 } ∧ Machine.translate walked 0x70000 = .mig ∧
    Machine.translate walked 0x3FFFFF = .leaf { codeLeaf with x := false, addr := 0x600000, size := 2 ^ 21 } ∧ Machine.translate walked 0x400000 = .ptFormat 2 ∧ Machine.translate walked 0x600000 = .fault ∧
    entryAt 3 (2 ^ 63 + 0x9000) = .bad ∧ entryAt 1 0 = .absent ∧ entryAt 1 (2 ^ 63 + 2 ^ 52) = .bad ∧
    Machine.translate demo 0x60000 = .fault ∧ (∀ w ∈ [2 ^ 63 + 0x9000, 2 ^ 63 + 2 ^ 56 + 0x800000, 2 ^ 63 + 2 ^ 52 + 0x800000], Machine.translate (rooted w) 0x60000 = .ptFormat 1) ∧
    Machine.translate { walked with lines := [(0x200, ours), (0x20000, { ours with poison := true })] } 0x60000 = .ue ∧
    Machine.translate { walked with lines := [(0x200, ours)] } 0x60000 = .wait (.home (lineOf 0 0x800000) walked.holder false) ∧
    (tlbEntry walked 0x20008).map (·.bad) = some false ∧ tlbEntry walked 0x60000 = none ∧
    Machine.translate { walked with tlbs := [(demo.core.place.tlb, pages.map fun e => { e with bad := true })] } 0x20008 = .ue ∧
    Machine.translate (leasedTo 0x200) 0x60000 = .wait (.queued (lineOf 0 0x8038) demo.holder) := by decide +kernel

/-- R307: span 1 moves the double of offset 0x188 to bank 1 XOR bits [7:4] of the offset, which are 8. -/
theorem test_meets_ScratchpadLayout : swizzle 1 0x188 = 0x180 + 8 * (1 ^^^ 8) ∧ swizzle 6 0 = 0 ∧ (0 : Nat) < 1 ∧
    spRead { task5 with scratch := spWrite 3 0x1FF8 [1, 2, 3] [] } 3 0x1FF8 3 = [1, 2, 3] ∧ bytesOf 0x010203 2 = [3, 2] := by decide +kernel

/-- The state with bytes at an address of the SHARED page. -/
def holding (bs : List Byte) : State := { demo with mem := memStore [] (memKey 0 0x200000) bs }

/-- R189 and R197: loads of the bytes 0xFE, 0xFF, 3, 4, 5, 6, 7, 0x88 at 0x20000. -/
theorem test_loads : ∀ e ∈ ([(.ldb 1 2 .weak .dflt 0, -2), (.ldbu 1 2 .weak .dflt 1, 255), (.ldh 1 2 .weak .dflt 0, -2), (.ldhu 1 2 .weak .dflt 0, 0xFFFE), (.ldw 1 2 .weak .dflt 1, 0xFFFFFFFF88070605),
    (.ldwu 1 2 (.strong .dom) .dflt 1, 0x88070605), (.ldd 1 2 .weak .byp 0, 0x880706050403FFFE), (.ldx 1 2 3 .weak .z16, 0x0403)] : List (Instr × Word)),
    result e.1 (regs [(2, 0x20000), (3, 1)] (holding [0xFE, 0xFF, 3, 4, 5, 6, 7, 0x88])) = some e.2 := by decide +kernel

/-- Cores 0 and 9; core 9 opens 256 bytes of its scratchpad from 0x100 to every core (R309). -/
def windowed : State :=
  { demo with others := [(coreKey { tenant := 1, lid := 9 }, coreOf 9 { task5 with index := 3, win := (Vector.replicate 4 0).set 0 0xFFFF000300080004 })] }

theorem keyed_windowed : windowed.Keyed := keyed_of_entries (by decide +kernel) (by decide +kernel)

theorem test_meets_Loads :
    caused (locate demo .load 0x50000 8 false) { code := .pageFault, addr := 0x50000 } = true ∧ at_ (locate demo .load (ptr 0 0 0 1 0x1FFF8) 8 false) (.scratch 0x1FFF8 0) = true ∧
    demo.task.copies = [] ∧ at_ (locate demo .load (ptr 0 0 0 1 0x1FFF8) 8 false) (.scratch 0x1FFF8 0) = true ∧
    at_ (locate windowed .load (ptr 0 0 0 2 (9 * 2 ^ 17 + 0x108)) 8 false) (.remote 9 0x108 0) = true ∧ demo.findCore { tenant := 1, lid := 9 } = none ∧
    Passes demo 0x20008 ∧ demo.strongWaits = false ∧ windowed.others.all (fun e => !e.2.savedAway) = true ∧ at_ (locate demo .load 0x20008 8 false) (.phys sharedLeaf 0x20008) = true ∧
    at_ (locate demo .load 0x30008 8 false) (.phys privLeaf 0x30008) = true ∧ (l1Find demo.core demo.asid demo.now 0x30008).isNone = true ∧ Alone demo ∧ demo.task.replay = [] := by decide +kernel

theorem test_remote_window : (windowed.findCore { tenant := 1, lid := 9 }).any (fun c => c.task.admits 0 0x108 8 false && c.task.admits 0 0x108 8 true && !c.task.admits 0 0xF8 8 false &&
      c.task.st == .running && c.task.wait == .none) = true ∧
    after (.std 2 3 .weak .dflt 0) (regs [(2, 0x77), (3, ptr 0 0 0 2 (9 * 2 ^ 17 + 0x108))] windowed)
      (fun t => (t.findCore { tenant := 1, lid := 9 }).any fun c => spRead c.task 0 0x108 8 == [0x77, 0, 0, 0, 0, 0, 0, 0]) = true ∧
    trapsWith (.ldd 1 3 .weak .dflt 0) (regs [(3, ptr 0 0 0 2 (9 * 2 ^ 17 + 0xF8))] windowed) { code := .windowNack, addr := ptr 0 0 0 2 (9 * 2 ^ 17 + 0xF8), party := 9 } = true := by decide +kernel

/-- A load or store through this pointer answers this cause, or waits so. -/
def loadOf (s : State) (p : Word) : Try Unit := match loadAt s p 8 8 false .weak .dflt with
  | .ok _ => .ok ()
  | .cause c => .cause c
  | .wait w => .wait w

/-- The load waits so. -/
def waits (s : State) (p : Word) (w : Wait) : Bool := match loadOf s p with
  | .wait v => v == w
  | _ => false

/-- Core 9 as another state of its task, of its saved tasks or of its place. -/
def windowedAs (f : Core → Core) : State := { windowed with others := windowed.others.map fun e => (e.1, f e.2) }

/-- A PRIVATE line in the core's L1, with or without an error. -/
def cachedLine (bad : Bool) : State :=
  { demo with core := { demo.core with l1 := [(l1Key 0x30000, [{ tag := 0xC00, asid := 7, size := 0x10000, line := lineOf 0 0x300000, bytes := List.replicate 8 7 ++ List.replicate 56 0, filled := 0, sticky := false, priv := true, bad := bad }])] } }

/-- R288, R309, R313, R325, R412: errors in a scratchpad, windows of cores whose task is not running, cores no router of the tenant serves, and errors in the L1. -/
theorem test_meets_LoadCauses :
    (let p := ptr 0 0 0 1 0x108
     let q := ptr 0 0 0 2 (9 * 2 ^ 17 + 0x108)
     let nack : Cause := { code := .windowNack, addr := q, party := 9 }
     caused (loadOf (demoWith fun t => { t with scratchBad := [0x21] }) p) { code := .memUe, addr := p } = true ∧ got (loadOf (demoWith fun t => { t with scratchBad := [0x22] }) p) (fun _ => true) = true ∧
     caused (loadOf (windowedAs fun c => { c with task := { c.task with scratchBad := [0x21] } }) q) { code := .memUe, addr := q } = true ∧
     caused (loadOf (windowedAs fun c => { c with place := { c.place with unit := 3, col := 15, row := 31 } }) q) nack = true ∧ caused (loadOf (windowedAs fun c => { c with task := Task.empty }) q) nack = true ∧
     waits (windowedAs fun c => { c with task := { c.task with launch := 6 }, saved := [{ c.task with st := .preempted }] }) q .remote = true ∧
     waits { demo with core := { demo.core with moved := [{ ptr := 0x20010, op := .add, z := 8, b := 4, since := 0 }] } } 0x20008 .stall = true ∧
     waits (windowedAs fun c => { c with task := { c.task with st := .suspended } }) q .remote = true ∧ waits (windowedAs fun c => { c with task := Task.empty, saved := [{ c.task with st := .preempted }] }) q .remote = true ∧
     waits (demoWith fun t => { t with replay := [{ page := 0x20000, ptr := 0x20000, data := { bytes := [1] }, hint := .dflt, strong := false, readdup := false }] }) 0x20008 .stall = true ∧
     result (.ldd 1 2 .weak .dflt 0) (regs [(2, 0x30000)] (cachedLine false)) = some 0x0707070707070707 ∧
     caused (loadOf (cachedLine true) 0x30000) { code := .memUe, addr := 0x30000 } = true) := by decide +kernel

/-- R189: stores of the low bytes of `X[1]`, in memory and in the scratchpad. -/
theorem test_stores : ∀ e ∈ ([(.stb 1 2 .weak .dflt 1, [0, 0x88]), (.sth 1 2 .weak .dflt 1, [0, 0, 0x88, 0x77]), (.stw 1 2 (.strong .die) .dflt 0, [0x88, 0x77, 0x66, 0x55]),
    (.std 1 2 .weak .dflt 0, [0x88, 0x77, 0x66, 0x55, 0x44, 0x33, 0x22, 0x11]), (.stx 1 2 3 .weak .s16, [0, 0, 0x88, 0x77])] : List (Instr × List Byte)),
    after e.1 (regs [(1, 0x1122334455667788), (2, 0x20000), (3, 1)]) (fun t => t.readPhys 0 0x200000 8 == e.2 ++ List.replicate (8 - e.2.length) 0) = true := by decide +kernel

theorem test_scratch_store : after (.std 1 2 .weak .dflt 0) (regs [(1, 0x1122334455667788), (2, ptr 0 0 2 1 0x108)])
    (fun t => t.task.scratch == spWrite 2 0x108 [0x88, 0x77, 0x66, 0x55, 0x44, 0x33, 0x22, 0x11] [] && t.mem == []) = true := by decide +kernel

/-- A state with parked stores for VA 0x50000 and a pointer into that page in `X[2]`. -/
def parked (n : Nat) : State :=
  regs [(1, 5), (2, 0x50008)] (demoWith fun t => { t with upvec := 0x10040, replay := List.replicate n { page := 0x60000, ptr := 0x60000, data := { bytes := [1] }, hint := .dflt, strong := false, readdup := false } })

/-- R191: a store to an absent page parks and upcalls, behind one of its page it parks alone, and with eight parked it faults. -/
theorem test_meets_Stores : Drained demo ∧ Alone demo ∧ got (memPtr (parked 7) 2 0 8) (fun p => p == 0x50008) = true ∧
    caused (locate (parked 7) .store 0x50008 8 false) { code := .pageFault, addr := 0x50008 } = true ∧ (parked 7).task.replay.length < 8 ∧ 8 ≤ (parked 8).task.replay.length ∧
    (¬ ∃ e ∈ (parked 7).task.replay, e.page = 0x50000) ∧ (parked 7).task.traps { code := .pageFault, addr := 0x50008 } = false ∧ (parked 7).task.requests.length < 16 ∧
    after (.std 1 2 .weak .dflt 0) (parked 7) (fun t => t.task.replay.length == 8 && t.task.pc == 0x10040 && t.task.upepc == 0x10004) = true ∧
    after (.std 1 2 .weak .dflt 0) (parked 8) (fun t => t.task.replay.length == 8 && t.task.pc == 0x10040 && t.task.upepc == 0x10000) = true ∧
    at_ (locate demo .store 0x20008 8 false) (.phys sharedLeaf 0x20008) = true ∧ at_ (locate demo .store (ptr 0 0 0 1 0x1FFF8) 8 false) (.scratch 0x1FFF8 0) = true := by decide +kernel

/-- R191, R340: behind a parked store of its page, and to a READDUP page. -/
theorem test_parks :
    (let s := demoWith fun t => { t with replay := [{ page := 0x20000, ptr := 0x20000, data := { bytes := [1] }, hint := .dflt, strong := false, readdup := false }] }
     (∃ e ∈ s.task.replay, e.page = 0x20000) ∧ after (.std 1 2 .weak .dflt 0) (regs [(2, 0x20008)] s) (fun t => t.task.replay.length == 2 && t.task.pc == 0x10004) = true) ∧
    (let s : State := regs [(2, 0x50008)] { demo with tlbs := [(demo.core.place.tlb, [{ asid := 7, va := 0x50000, leaf := { sharedLeaf with kind := .readdup, w := false } }])] }
     caused (locate s .store 0x50008 8 false) (protect 8 0x50008) = true ∧
     after (.std 1 2 .weak .dflt 0) s (fun t => t.task.st == .faulted && t.task.replay.length == 1 && decide (t.task.trap.map (·.resume) = some 0x10004)) = true) ∧
    (let s := leasedTo 0x8000
     s.lineFree (lineOf 0 0x200008) (homeHolder s .shared) = false ∧
     after (.std 1 2 .weak .dflt 0) (regs [(2, 0x20008)] s) (fun t => t.task.pc == 0x10004 && (t.line (lineOf 0 0x200008)).queue.length == 1) = true) := by decide +kernel

/-- R188, R309, R348, R412: a store over part of a bad scratchpad word, over one whole, into another core's window, and one whose line's tokens are elsewhere, which waits at home while the core
goes on. -/
theorem test_meets_StoreForms :
    (let bad := demoWith fun t => { t with scratchBad := [0x21] }
     let far : State := regs [(1, 5), (2, 0x20048)]
     let window := regs [(1, 5), (2, ptr 0 0 0 2 (9 * 2 ^ 17 + 0x108))] windowed
     swizzle 0 0x108 / 8 = 0x21 ∧ trapsWith (.stw 1 2 .weak .dflt 0) (regs [(2, ptr 0 0 0 1 0x108)] bad) { code := .memUe, addr := ptr 0 0 0 1 0x108 } = true ∧
     after (.std 1 2 .weak .dflt 0) (regs [(2, ptr 0 0 0 1 0x108)] bad) (fun t => t.task.scratchBad == [] && t.task.pc == 0x10004) = true ∧
     ((far.line (lineOf 0 0x200048)).gatherWrite (homeHolder far .shared)).isNone = true ∧
     after (.std 1 2 .weak .dflt 0) far (fun t => t.task.pc == 0x10004 && t.attempts.any (fun e => e.line == lineOf 0 0x200048) &&
       decide (((t.line (lineOf 0 0x200048)).queue.map fun e => (e.who, e.offset, e.ptr, e.op, e.came, e.behind)) = [(far.core.id, 8, 0x20048, .store { bytes := [5, 0, 0, 0, 0, 0, 0, 0] }, 0, false)])) = true ∧
     after (.std 1 2 (.strong .die) .dflt 0) far (fun t => t.task.pc == 0x10004 && (t.line (lineOf 0 0x200048)).queue.map (·.strong) == [true]) = true ∧
     after (.std 1 2 .weak .dflt 0) (regs [(2, ptr 0 0 0 1 0x108)] (demoWith fun t => { t with xlast := some (0, 4) })) (fun t => t.task.pc == 0x10000 && t.task.wait == .stall && t.task.scratch == []) = true ∧
     demo.task.xlast = none ∧ demo.ownLate = false ∧
     window.Keyed ∧ (9 : Nat) ≠ window.core.id.lid ∧ window.task.launch = 5 ∧
     (window.findCore { tenant := 1, lid := 9 }).any (fun c => Tenancy.holdsRouter (window.tenant 1) c.place && c.task.scratchBad == []) = true) := by
  refine ⟨by decide +kernel, by decide +kernel, by decide +kernel, by decide +kernel, by decide +kernel, by decide +kernel, by decide +kernel, by decide +kernel, by decide +kernel,
    keyed_windowed, by decide +kernel⟩

/-- R191: a store that could be performed parks behind one of its page. -/
theorem test_meets_Parking :
    (let s := regs [(1, 5), (2, 0x20008)] (demoWith fun t => { t with replay := [{ page := 0x60000, ptr := 0x20010, data := { bytes := [1] }, hint := .dflt, strong := false, readdup := false }] })
     at_ (locate s .store 0x20008 8 false) (.phys sharedLeaf 0x20008) = true ∧ Ready s sharedLeaf 0x20008 true ∧ s.task.replay.length < 8 ∧
     (∃ e ∈ s.task.replay, e.page = 0x20000 ∨ e.ptr.toNat % 2 ^ 48 / 65536 * 65536 = 0x20000)) := by
  refine ⟨by decide +kernel, ⟨by decide +kernel, by decide +kernel, by decide +kernel, rfl, no_pins (by decide)⟩, by decide +kernel⟩

/-- R193 to R196: BF16 (code 3) 0x4049 is 3.140625, and FP32 0x40490FDB stored as BF16 is 0x4049 with NX. -/
theorem test_meets_FormatElements :
    (let s := regs [(1, 0x40490FDB), (2, ptr 3 0 0 0 0x20000)] (holding [0x49, 0x40])
     isPlain 3 = true ∧ pFmt (s.rx 2) = 3 ∧ got (ptrTo (s.rx 2) ((pAddr (s.rx 2) : Int) + 1 * (elemBytes 3 : Int))) (fun p => p == ptr 3 0 0 0 0x20002) = true ∧
     result (.ldf 1 2 .weak .dflt 0) s = some 0x40490000 ∧ after (.stf 1 2 .weak .dflt 1) s (fun t => t.readPhys 0 0x200000 4 == [0x49, 0x40, 0x49, 0x40] && t.task.fstat == 1) = true ∧
     at_ (locate s .store (ptr 3 0 0 1 2) 2 true) (.scratch 2 0) = true ∧ at_ (locate s .store (ptr 3 0 0 0 0x20002) 2 true) (.phys sharedLeaf 0x20002) = true ∧
     got (loadAt s (ptr 3 0 0 0 0x20000) 2 2 true .weak .dflt) (fun r => r.2 == [0x49, 0x40]) = true) := by decide +kernel

/-- Sixteen word lanes of a scratchpad, lane `i` at index 15 − i. -/
def lanes16 : State :=
  let s := demoWith fun t => { t with scratch := spWrite 0 0 (bytesOf 0x0102030405060708090A0B0C0D0E0F10 64) [], v := t.v.set 4 (vecOf 32 ((List.range 16).map fun i => 15 - i)) }
  regs [(2, ptr 0 0 0 1 0), (3, ptr 0 0 0 1 (2 ^ 48 - 4))] s

theorem test_meets_GatherAndScatter : Alone lanes16 ∧ Drained lanes16 ∧ lanes16.task.copies = [] ∧
    (∀ i : Nat, i < 16 → got ((gatherPtrs (lanes16.rx 2) lanes16.task.v[(4 : Reg)] 4).getD i (.wait .none)) (fun p => p == ptr 0 0 0 1 (4 * (15 - i)) &&
      at_ (locate lanes16 .load p 4 false) (.scratch (4 * (15 - i)) 0) && at_ (locate lanes16 .store p 4 false) (.scratch (4 * (15 - i)) 0)) = true) ∧
    caused ((gatherPtrs (lanes16.rx 3) lanes16.task.v[(4 : Reg)] 4).getD 0 (.wait .none)) { code := .addressWrap, addr := lanes16.rx 3 } = true ∧
    after (.vgather 5 2 4 .weak .s32) lanes16 (fun t => (t.task.v[(5 : Reg)]).toNat / 2 ^ 480 == 0x0D0E0F10) = true := by decide +kernel

/-- The same lanes of the first line of the SHARED page, whose line the die's L2 holds. -/
def lanesMem : State :=
  let s := { lanes16 with mem := memStore [] (memKey 0 0x200000) (bytesOf 0x0102030405060708090A0B0C0D0E0F10 64), l2 := [(l2Key 0 0 (lineOf 0 0x200000), [{ line := lineOf 0 0x200000, sticky := false }])] }
  regs [(2, 0x20000)] s

theorem test_meets_MemoryLanes : Alone lanesMem ∧ Drained lanesMem ∧
    (∀ i : Nat, i < 16 → got ((gatherPtrs (lanesMem.rx 2) lanesMem.task.v[(4 : Reg)] 4).getD i (.wait .none)) (fun p => p == ptr 0 0 0 0 (0x20000 + 4 * (15 - i)) &&
      at_ (locate lanesMem .load p 4 false) (.phys sharedLeaf (0x20000 + 4 * (15 - i))) && at_ (locate lanesMem .store p 4 false) (.phys sharedLeaf (0x20000 + 4 * (15 - i)))) = true) ∧
    (∀ i : Nat, i < 16 → ∀ w : Bool, Settled lanesMem sharedLeaf (0x20000 + 4 * (15 - i)) w (.die 0 0)) ∧ sharedLeaf.kind = .shared ∧
    after (.vgather 5 2 4 .weak .s32) lanesMem (fun t => (t.task.v[(5 : Reg)]).toNat / 2 ^ 480 == 0x0D0E0F10) = true ∧
    after (.vscatter 4 2 4 .weak .s32) lanesMem (fun t => t.readPhys 0 0x200000 8 == [0, 0, 0, 0, 1, 0, 0, 0]) = true := by
  have parts : ∀ i : Nat, i < 16 → ∀ w : Bool, (let l := lineOf sharedLeaf.pkg (sharedLeaf.pa (0x20000 + 4 * (15 - i)))
      let ls := (lanesMem.line l).served lanesMem.core.id
      lanesMem.lineFree l (.die 0 0) = true ∧ (if w then (ls.gatherWrite (.die 0 0)).isSome else (ls.gatherRead (.die 0 0)).isSome) = true ∧ (lanesMem.line l).poison = false ∧
      tlbFind lanesMem (0x20000 + 4 * (15 - i)) = some sharedLeaf ∧ (lanesMem.line l).queue = [] ∧ Passes lanesMem (0x20000 + 4 * (15 - i)) ∧
      ∃ e ∈ mapGet [] lanesMem.l2 (l2Key 0 0 l), e.line = l) := by decide +kernel
  refine ⟨rfl, by decide +kernel, by decide +kernel, fun i hi w => ?_, by decide +kernel⟩
  obtain ⟨a, b, c, d, e, f, g⟩ := parts i hi w
  exact ⟨⟨a, b, c, rfl, no_pins (by decide)⟩, d, e, f, rfl, fun p q h => by cases h; exact g⟩

/-- Record 3: FP32, rank 1, extent 16, the SHARED page as base, fill 7 or clamping; `X[9]` is the coordinate. -/
def shaped (edge : Bool) (c : Word) : State :=
  let r : ShapeRec := { d := ((Vector.replicate 8 0).set 0 (ptr 1 0 0 0 0x20000)).set 1 16 |>.set 7 (BitVec.ofNat 64 (7 * 2 ^ 32 + 2 ^ 28 + if edge then 2 ^ 31 else 0)), sealed := true }
  regs [(9, c)] { demoWith (fun t => { t with sh := t.sh.set 3 r, v := t.v.set 2 (vecOf 32 ((List.range 16).map fun i => 0x100 + i)) }) with
    mem := memStore [] (memKey 0 0x200000) (bytesOf ((List.range 16).foldl (fun n i => n + (i + 1) * 2 ^ (32 * i)) 0) 64) }

/-- The lanes of FP32 `V[4]` after the instruction. -/
def lanes4 (i : Instr) (s : State) : List Nat :=
  match exec i s with
  | .next t => (List.range 16).map fun j => (vlane .f32 t.task.v[(4 : Reg)] j).toNat
  | _ => []

/-- R201: positions 10 to 25 of 16 elements, filled and clamped; positions −3 to 12. -/
theorem test_tensor_loads : lanes4 (.tld 4 9 3) (shaped false 10) = [11, 12, 13, 14, 15, 16, 7, 7, 7, 7, 7, 7, 7, 7, 7, 7] ∧
    lanes4 (.tld 4 9 3) (shaped true 10) = [11, 12, 13, 14, 15, 16, 16, 16, 16, 16, 16, 16, 16, 16, 16, 16] ∧
    lanes4 (.tld 4 9 3) (shaped true (-3)) = [1, 1, 1, 1, 2, 3, 4, 5, 6, 7, 8, 9, 10, 11, 12, 13] := by decide +kernel

theorem test_meets_TensorAccesses : Alone (shaped false 10) ∧ (shaped false 10).task.sh[(3 : R16)].sealed = true ∧ isPlain (shaped false 10).task.sh[(3 : R16)].fmt = true ∧
    9 + (shaped false 10).task.sh[(3 : R16)].rank ≤ 32 ∧ 0 < (shaped false 10).task.sh[(3 : R16)].rank ∧ demo.task.sh[(3 : R16)].sealed = false ∧
    got (loadLanes 4 .weak 0 ((List.range 16).map fun i => if i < 6 then .inl (.ok (ptr 1 0 0 0 (0x20028 + 4 * i))) else .inr [7, 0, 0, 0]) (shaped false 10)) (fun r => r.2.length == 64) = true ∧
    got (storeLanes 4 .weak 0 ((List.range 16).map fun i => if i < 6 then some (.ok (ptr 1 0 0 0 (0x20028 + 4 * i)), bytesOf (0x100 + i) 4) else none) (shaped false 10)) (fun u => u.task.gang == 0) = true ∧
    after (.tst 2 9 3) (shaped false 10) (fun t => t.readPhys 0 0x200024 12 == [10, 0, 0, 0, 0, 1, 0, 0, 1, 1, 0, 0]) = true ∧
    trapsWith (.tld 4 9 3) demo { code := .shape } = true := by decide +kernel

/-- `X[1]` is 9 and compares equal in AMOCAS, `X[3]` is −2; `X[2]` points to a word or double that holds 9. -/
def amo (sp : Bool) : State :=
  let bs : List Byte := [9, 0, 0, 0, 0, 0, 0, 0]
  regs [(1, 9), (2, if sp then ptr 0 0 0 1 8 else 0x20008), (3, -2)]
    { demoWith (fun t => { t with scratch := spWrite 0 8 bs [] }) with mem := memStore [] (memKey 0 0x200008) bs }

/-- The old value in `X[1]` and the double at the pointer after the instruction. -/
def amoResult (i : Instr) (sp : Bool) : Option (Word × List Byte) :=
  match exec i (amo sp) with
  | .next t => some (t.rx 1, if sp then spRead t.task 0 8 8 else t.readPhys 0 0x200008 8)
  | _ => none

/-- R204 to R206: what each atomic and reduction writes over 9. -/
theorem test_atomics : ∀ sp ∈ [true, false], ∀ e ∈ ([(.amoadd 1 2 3 .die .d, 7), (.amoand 1 2 3 .core .w, 8), (.amoor 1 2 3 .pkg .w, 0xFFFFFFFF), (.amoxor 1 2 3 .die .w, 0xFFFFFFF7),
    (.amomin 1 2 3 .die .d, 2 ^ 64 - 2), (.amomax 1 2 3 .die .d, 9), (.amominu 1 2 3 .die .w, 9), (.amomaxu 1 2 3 .die .w, 0xFFFFFFFE), (.amoswap 1 2 3 .dom .w, 0xFFFFFFFE),
    (.amocas 1 2 3 .die .d, 2 ^ 64 - 2), (.amocas 1 2 1 .die .w, 9), (.redadd 2 3 .die .w, 7), (.redand 2 3 .core .d, 8), (.redor 2 3 .pkg .w, 0xFFFFFFFF), (.redxor 2 3 .die .w, 0xFFFFFFF7),
    (.redmin 2 3 .die .w, 0xFFFFFFFE), (.redmax 2 3 .die .w, 9), (.redminu 2 3 .die .d, 9), (.redmaxu 2 3 .die .d, 2 ^ 64 - 2)] : List (Instr × Nat)),
    amoResult e.1 sp = some (9, bytesOf e.2 8) := by decide +kernel

/-- R205: 1.0 + 2.5 in FP32. -/
theorem test_float_atomics : after (.amofadd 1 2 3 .die) (regs [(2, ptr 0 0 0 1 8), (3, 0x40200000)] (demoWith fun t => { t with scratch := spWrite 0 8 (bytesOf 0x3F800000 4) [] }))
      (fun t => t.rx 1 == 0x3F800000 && spRead t.task 0 8 4 == bytesOf 0x40600000 4) = true ∧
    after (.redfadd 2 3 .die) (regs [(2, ptr 0 0 0 1 8), (3, 0x40200000)] (demoWith fun t => { t with scratch := spWrite 0 8 (bytesOf 0x3F800000 4) [] }))
      (fun t => spRead t.task 0 8 4 == bytesOf 0x40600000 4) = true := by decide +kernel

theorem test_meets_Atomics : Alone (amo true) ∧ Drained (amo true) ∧ (amo true).task.copies = [] ∧ at_ (locate (amo true) .atomic ((amo true).rx 2) 8 false) (.scratch 8 0) = true ∧
    at_ (locate (amo false) .atomic ((amo false).rx 2) 4 false) (.phys sharedLeaf 0x20008) = true ∧ (amo false).task.parkedPage 0x20000 = false ∧ (amo false).movingLeaf sharedLeaf = false ∧
    (amo true).task.determinate = false ∧ (demoWith fun t => { t with determinate := true }).task.determinate = true ∧
    caused (locate demo .atomic 0x20004 8 false) (protect 1 0x20004) = true ∧ (amo true).ownLate = false := by decide +kernel

/-- The premises on memory of the statements about atomics, reductions and leases. -/
theorem test_meets_Reductions : Ready (amo false) sharedLeaf 0x20008 true ∧ Drained (amo false) ∧ Alone (amo false) :=
  ⟨⟨by decide +kernel, by decide +kernel, by decide +kernel, rfl, no_pins (by decide)⟩, by decide, rfl⟩

/-- R188, R206, R412: a reduction over a bad scratchpad word, and one whose line's tokens are elsewhere: the core goes on, and the operation waits at home. -/
theorem test_meets_ReductionForms :
    (let bad := regs [(2, ptr 0 0 0 1 0x108), (3, 4)] (demoWith fun t => { t with scratchBad := [0x21] })
     let far := regs [(2, 0x20048), (3, 4)]
     at_ (locate bad .atomic (bad.rx 2) 8 false) (.scratch 0x108 0) = true ∧ 0x21 ∈ bad.task.scratchBad ∧
     after (.redadd 2 3 .die .d) bad (fun t => decide (t.task.held = [{ code := .memUe, addr := ptr 0 0 0 1 0x108, async := true }]) && t.task.pc == 0x10004) = true ∧
     trapsWith (.amoadd 1 2 3 .die .d) bad { code := .memUe, addr := ptr 0 0 0 1 0x108 } = true ∧
     (let going : State := { far with moving := [(0, 0x200000, 0x10000)] }
      going.movingLeaf sharedLeaf = true ∧ at_ (locate going .atomic (going.rx 2) 8 false) (.phys sharedLeaf 0x20048) = true ∧ after (.amoadd 1 2 3 .die .d) going (fun t => t.task.wait == .stall) = true ∧
      after (.redadd 2 3 .die .d) going (fun t => t.task.pc == 0x10004 && decide (t.core.moved = [{ ptr := 0x20048, op := .add, z := 8, b := 4, since := 0 }])) = true) ∧
     at_ (locate far .atomic (far.rx 2) 8 false) (.phys sharedLeaf 0x20048) = true ∧ far.movingLeaf sharedLeaf = false ∧ far.task.determinate = false ∧
     ((far.line (lineOf 0 0x200048)).gatherWrite (homeHolder far .shared)).isNone = true ∧
     after (.redadd 2 3 .die .d) far (fun t => t.task.pc == 0x10004 && decide (((t.line (lineOf 0 0x200048)).queue.map (·.op)) = [.reduce .add 8 4])) = true) := by decide +kernel

/-- A task that holds a lease of the SHARED page's first line until cycle 5. -/
def leasing (now : Nat) : State :=
  { demoWith (fun t => { t with lease := some (lineOf 0 0x200000, 5) }) with lines := [(0x8000, { ours with lease := some { tenant := 1, lid := 0 } })], now := now }

theorem test_meets_LeasesAndReleases : at_ (locate demo .lease 0x20008 1 false) (.phys sharedLeaf 0x20008) = true ∧ demo.task.determinate = false ∧ demo.task.lease = none ∧
    (regs [(2, 0x20008), (3, 5000)]).rx 3 ≠ 0 ∧ demo.rx 3 = 0 ∧ Drained (leasing 0) ∧ (leasing 0).task.lease = some (lineOf 0 0x200008, 5) ∧ (leasing 4).now < 5 ∧ 5 ≤ (leasing 5).now ∧
    after (.lease 2 3) (regs [(2, 0x20008), (3, 5000)]) (fun t => decide (t.task.lease = some (lineOf 0 0x200008, 4096))) = true ∧
    after (.lease 2 3) (regs [(2, 0x20008)] (leasing 0)) (fun t => t.task.lease.isNone && (t.line (lineOf 0 0x200008)).lease.isNone) = true ∧
    after (.leaseExpiry { tenant := 1, lid := 0 }) (leasing 5) (fun t => t.task.lease.isNone) = true ∧ after (.leaseExpiry { tenant := 1, lid := 0 }) (leasing 4) (fun t => t.task.lease.isSome) = true ∧
    (let s := demoWith fun t => { t with held := [{ code := .memUe }] }
     s.task.replay = [] ∧ s.storesWait = false ∧ s.task.held = [{ code := .memUe }] ∧ trapsWith (.fence .die) s { code := .memUe } = true) ∧
    (parked 7).task.replay ≠ [] ∧ after (.fence .die) (parked 7) (fun t => t.task.wait == .stall) = true := by decide +kernel

/-- Event line 3 of the bench, held by launch 5, and a pointer to it in `X[2]`. -/
def line3 (l : EvLine) (v : Word := 0) : State :=
  regs [(2, ptr 0 0 0 3 24), (3, v)] { demo with benches := [(benchKey demo.bench, { lines := (Vector.replicate 32 {}).set 3 { l with held := some 5 } })] }

theorem test_meets_EventLines : Alone (line3 { kind := .event }) ∧ Drained (line3 {}) ∧ (line3 {}).task.determinate = false ∧
    (∀ l ∈ ([{ kind := .event }, { kind := .event, pending := true }, { kind := .mutex }, { kind := .mutex, holder := some 0 }, { kind := .mutex, holder := some 4 },
        { kind := .barrier, arrivals := 2 }, { kind := .barrier, arrivals := 1 }] : List EvLine),
      got (heldLine (line3 l) (ptr 0 0 0 3 24)) (fun q => q.1 == 3 && decide (q.2 = { l with held := some 5 })) = true) ∧
    got (memPtr (line3 {}) 2 0 8) (fun p => p == ptr 0 0 0 3 24) = true ∧
    after (.ldd 1 2 .weak .dflt 0) (line3 { kind := .event, pending := true }) (fun t => t.rx 1 == 0 && !(t.evLine t.bench 3).pending && t.task.wait == .none) = true ∧
    after (.ldd 1 2 .weak .dflt 0) (line3 { kind := .event }) (fun t => t.task.wait == .line 3 1 && (t.evLine t.bench 3).waiters == [0]) = true ∧
    after (.ldd 1 2 .weak .dflt 0) (line3 { kind := .mutex }) (fun t => (t.evLine t.bench 3).holder == some 0) = true ∧
    after (.ldd 1 2 .weak .dflt 0) (line3 { kind := .mutex, holder := some 4 }) (fun t => t.task.wait == .line 3 1) = true ∧
    after (.ldd 1 2 .weak .dflt 0) (line3 { kind := .barrier, arrivals := 2 }) (fun t => (t.evLine t.bench 3).count == 1 && t.task.wait == .line 3 1) = true ∧
    after (.ldd 1 2 .weak .dflt 0) (line3 { kind := .barrier, arrivals := 1 }) (fun t => (t.evLine t.bench 3).round == 1 && t.rx 1 == 1) = true ∧
    after (.evsig 2) (line3 { kind := .event }) (fun t => (t.evLine t.bench 3).pending) = true ∧
    after (.evsig 2) (line3 { kind := .mutex, holder := some 0 }) (fun t => (t.evLine t.bench 3).holder.isNone) = true ∧
    after (.evsig 2) (line3 { kind := .barrier, arrivals := 2 }) (fun t => (t.evLine t.bench 3).count == 1) = true ∧
    trapsWith (.evsig 2) (line3 { kind := .mutex, holder := some 4 }) (protect 5 (ptr 0 0 0 3 24)) = true ∧
    got (lineAt (line3 {}) (ptr 0 0 0 3 24)) (fun n => n == 3) = true ∧ ((line3 {}).benchAt (line3 {}).bench).spans 3 < 16 ∧ (lineConfig 0x802 4 (some 5)).isSome = true ∧
    (tenancy.wl / 2 * (tenancy.hl / 4)) = 4 ∧
    after (.evcfg 2 3) (line3 {} 0x802) (fun t => (t.evLine t.bench 3).kind == .barrier && (t.evLine t.bench 3).arrivals == 8) = true := by decide +kernel

/-- R27: of loads that reach a line in one cycle the lowest place in the bench stands first, behind those of earlier cycles. -/
theorem test_line_order : (({ kind := .event } : EvLine).join 5 4 9 |>.join 6 4 5 |>.join 6 4 1 |>.join 6 4 8).waiters = [9, 1, 5, 8] := by decide +kernel

/-- The premise on the domain of the barrier's firing. -/
theorem keyed_line (l : EvLine) (v : Word) : (line3 l v).Keyed := keyed_of_entries rfl (fun e h => by cases h)
/-! ## Vectors -/

/-- Vector registers set from lanes, and mask register 1. -/
def vecs (t : VT) (l : List (Reg × List Nat)) (k : Word := 0) : State :=
  demoWith fun u => { l.foldl (fun u e => u.wv e.1 (vecOf t.width e.2)) u with k := (Vector.replicate 8 0).set 1 k }

/-- The first lanes of `V[1]` after the instruction, and FSTAT. -/
def lanes1 (t : VT) (n : Nat) (i : Instr) (s : State) : List Nat × Nat :=
  match exec i s with
  | .next u => ((List.range n).map fun j => (vlane t u.task.v[(1 : Reg)] j).toNat, u.task.fstat.toNat)
  | _ => ([], 99)

/-- R253, R255 and R270: bytes 0x7F, 0x80, 0xFF and 3 with 1, 0xFF, 2 and 9, and with a scalar 2. -/
theorem test_vector_integers : ∀ e ∈ ([(.vadd 1 2 3 0 .s8, [0x80, 0x7F, 1, 12]), (.vsub 1 2 3 0 .z8, [0x7E, 0x81, 0xFD, 0xFA]), (.vmul 1 2 3 0 .s8, [0x7F, 0x80, 0xFE, 27]),
    (.vmin 1 2 3 0 .s8, [1, 0x80, 0xFF, 3]), (.vmax 1 2 3 0 .z8, [0x7F, 0xFF, 0xFF, 9]), (.vabs 1 2 0 .s8, [0x7F, 0x80, 1, 3]), (.vneg 1 2 0 .s8, [0x81, 0x80, 1, 0xFD]),
    (.vadds 1 2 3 0 .s8, [0x7F, 0x80, 1, 12]), (.vsubs 1 2 3 0 .z8, [0x7E, 0, 0xFD, 0]), (.vand 1 2 3 0 .z8, [1, 0x80, 2, 1]), (.vor 1 2 3 0 .z8, [0x7F, 0xFF, 0xFF, 11]),
    (.vxor 1 2 3 0 .z8, [0x7E, 0x7F, 0xFD, 10]), (.vshl 1 2 3 0 .z8, [0xFE, 0, 0xFC, 6]), (.vshr 1 2 3 0 .s8, [0x3F, 0xFF, 0xFF, 1]), (.vaddx 1 2 4 0 .s8, [0x81, 0x82, 1, 5]),
    (.vsubx 1 2 4 0 .z8, [0x7D, 0x7E, 0xFD, 1]), (.vmulx 1 2 4 0 .z8, [0xFE, 0, 0xFE, 6]), (.vminx 1 2 4 0 .s8, [2, 0x80, 0xFF, 2]), (.vmaxx 1 2 4 0 .z8, [0x7F, 0x80, 0xFF, 3])] :
    List (Instr × List Nat)), lanes1 .z8 4 e.1 (regs [(4, 2)] (vecs .z8 [(2, [0x7F, 0x80, 0xFF, 3]), (3, [1, 0xFF, 2, 9])])) = (e.2, 0) := by decide +kernel

theorem test_meets_VectorIntegers : Alone (vecs .z8 []) ∧ VT.isI .s64 = true ∧ VT.isI .z8 = true ∧ VT.isF .f32 = true ∧ VT.isF .bf16 = true := by decide +kernel

/-- R254: FP32 1.5 and −2.0 with 2.0 and 0.25, over the accumulators 1.0 and 0.0; a scalar 2.0; the reciprocal forms of 4.0. -/
theorem test_vector_floats : ∀ e ∈ ([(.vadd 1 2 3 0 .f32, [0x40600000, 0xBFE00000], 0), (.vsub 1 2 3 0 .f32, [0xBF000000, 0xC0100000], 0), (.vmul 1 2 3 0 .f32, [0x40400000, 0xBF000000], 0),
    (.vfma 1 2 3 0 .f32, [0x40800000, 0xBF000000], 0), (.vfms 1 2 3 0 .f32, [0xC0000000, 0x3F000000], 0), (.vmin 1 2 3 0 .f32, [0x3FC00000, 0xC0000000], 0),
    (.vmax 1 2 3 0 .f32, [0x40000000, 0x3E800000], 0), (.vabs 1 2 0 .f32, [0x3FC00000, 0x40000000], 0), (.vneg 1 2 0 .f32, [0xBFC00000, 0x40000000], 0),
    (.vdiv 1 2 3 0 .f32, [0x3F400000, 0xC1000000], 0), (.vrcp 1 3 0 .f32, [0x3F000000, 0x40800000], 0), (.vfmax 1 2 4 0 .f32, [0x40800000, 0xC0800000], 0)] : List (Instr × List Nat × Nat)),
    lanes1 .f32 2 e.1 (regs [(4, 0x40000000)] (vecs .f32 [(1, [0x3F800000, 0]), (2, [0x3FC00000, 0xC0000000]), (3, [0x40000000, 0x3E800000] ++ List.replicate 14 0x3F800000)])) = e.2 := by decide +kernel

/-- R256 and R257: 4.0 and 0.0. -/
theorem test_special_functions : lanes1 .f32 1 (.vsqrt 1 2 0 .f32) (vecs .f32 [(2, [0x40800000])]) = ([0x40000000], 0) ∧
    lanes1 .f32 1 (.vrsqrt 1 2 1 .f32) (vecs .f32 [(2, [0x40800000])] 1) = ([0x3F000000], 0) ∧ lanes1 .f32 1 (.vexp2 1 2 1 .f32) (vecs .f32 [(2, [0])] 1) = ([0x3F800000], 0) ∧
    lanes1 .f32 1 (.vlog2 1 2 1 .f32) (vecs .f32 [(2, [0])] 1) = ([0xFF800000], 8) ∧ lanes1 .f32 1 (.vsin 1 2 1 .f32) (vecs .f32 [(2, [0x7F800000])] 1) = ([0x7FC00000], 16) ∧
    lanes1 .f32 1 (.vcos 1 2 1 .f32) (vecs .f32 [(2, [0])] 1) = ([0x3F800000], 0) ∧ lanes1 .f32 1 (.vtanh 1 2 1 .f32) (vecs .f32 [(2, [0xFF800000])] 1) = ([0xBF800000], 0) := by decide +kernel

theorem test_meets_VectorFloats : Alone (vecs .f32 []) ∧ VT.isF .f16 = true := by decide +kernel

theorem test_meets_SpecialInputs : fmtF32 ∈ [fmtF32, fmtF16, fmtBF16] ∧ fmtBF16 ∈ [fmtF32, fmtF16, fmtBF16] ∧ 0 < 1 := by decide

/-- R258, R259, R268 and R269 on word lanes. -/
theorem test_masks_and_moves :
    (let s := regs [(4, 5), (5, 2)] (vecs .s32 [(2, [1, 2, 3, 4]), (3, [4, 2, 0, 0xFFFFFFFF])] 5)
     after (.vcmplt 2 2 3 0 .s32) s (fun t => t.task.rk 2 == 1) = true ∧ after (.vcmpeq 2 2 3 1 .s32) s (fun t => t.task.rk 2 == 0) = true ∧
     after (.vcmpne 2 2 3 1 .z32) s (fun t => t.task.rk 2 == 5) = true ∧ after (.vcmple 2 2 3 0 .z32) s (fun t => t.task.rk 2 == 0xFFFB) = true ∧
     lanes1 .s32 4 (.vsel 1 2 3 1 .s32) s = ([1, 2, 3, 0xFFFFFFFF], 0) ∧ after (.knot 2 1) s (fun t => t.task.rk 2 == ~~~5) = true ∧ after (.kmovFromX 2 4) s (fun t => t.task.rk 2 == 5) = true ∧
     result (.kmovToX 1 0) s = some (-1) ∧ after (.kand 2 1 0) s (fun t => t.task.rk 2 == 5) = true ∧ after (.kor 2 1 0) s (fun t => t.task.rk 2 == -1) = true ∧
     after (.kxor 2 1 1) s (fun t => t.task.rk 2 == 0) = true ∧ after (.kmov 2 1) s (fun t => t.task.rk 2 == 5) = true ∧ lanes1 .s32 4 (.vperm 1 2 3 0 .s32) s = ([0, 3, 1, 0], 0) ∧
     lanes1 .s32 2 (.vbcast 1 4 0 .s32) s = ([5, 5], 0) ∧ lanes1 .s32 3 (.vslide 1 2 5 0 .s32) s = ([3, 4, 0], 0) ∧ result (.vmovx 1 3 4 .s32) s = some 0 ∧
     lanes1 .s32 3 (.vmovv 1 4 5 .s32) s = ([0, 0, 5], 0) ∧
     after (.vzip 0 2 3 .s32) s (fun t => (List.range 4).map (fun j => (vlane .s32 t.task.v[(0 : Reg)] j).toNat) == [1, 4, 2, 2]) = true ∧
     after (.vunzip 0 2 3 .s32) s (fun t => (List.range 2).map (fun j => (vlane .s32 t.task.v[(1 : Reg)] j).toNat) == [2, 4]) = true) := by decide +kernel

theorem test_meets_MasksComparesAndMoves : Alone (vecs .s32 []) ∧ VT.isI .s32 = true ∧ VT.isF .f32 = true := by decide +kernel

/-- R239, R262 and R263: FP32 1.5 to S8 by RNE and RTZ with NX; S32 300 saturates in S8 with NV and NX; BF16 to FP32 from part 1; FP32 1.0 to C8A under EF. -/
theorem test_meets_Conversions : Alone (vecs .f32 []) ∧ 0 * 16 + min (VT.lanes .bf16) (VT.lanes .f32) ≤ VT.lanes .bf16 ∧ 1 * 16 + 16 ≤ VT.lanes .bf16 ∧ VT.isF .f32 = true ∧
    min (VT.lanes .bf16) (VT.lanes .c8a) ≤ 32 ∧ (2 : QReg).val % 2 = 0 ∧
    lanes1 .s8 2 (.vcvt 1 2 .rne 0 .s8 .f32) (vecs .f32 [(2, [0x3FC00000, 0x40200000])]) = ([2, 2], 1) ∧ lanes1 .s8 1 (.vcvt 1 2 .rtz 0 .s8 .f32) (vecs .f32 [(2, [0x3FC00000])]) = ([1], 1) ∧
    lanes1 .s8 1 (.vcvt 1 2 .rne 0 .s8 .s32) (vecs .s32 [(2, [300])]) = ([0x7F], 17) ∧
    lanes1 .f32 1 (.vcvt 1 2 .rne 1 .f32 .bf16) (vecs .bf16 [(2, List.replicate 16 0 ++ [0x3FC0])]) = ([0x3FC00000], 0) ∧
    after (.vcvtEf 1 2 0 0 .bf16 .f32) (vecs .f32 [(2, [0x3F800001])]) (fun t => (t.task.q[(0 : QReg)].extractLsb' 0 32) == 0x34000000 && (vlane .bf16 t.task.v[(1 : Reg)] 0) == 0x3F80) = true := by decide +kernel

/-- R249, R266 and R267. -/
theorem test_meets_ReductionsAndScans : Alone (vecs .s32 []) ∧ VT.isI .s32 = true ∧ VT.isF .f32 = true ∧
    (let s := vecs .s32 [(1, [9, 9, 9, 9]), (2, [1, 0xFFFFFFFE, 5, 7])] 0xB
     lanes1 .s32 2 (.vredsum 1 2 1 .s32) s = ([6, 0], 0) ∧ lanes1 .s32 2 (.vredmin 1 2 1 .s32) s = ([0xFFFFFFFE, 0], 0) ∧ lanes1 .s32 2 (.vredmax 1 2 1 .z32) s = ([0xFFFFFFFE, 0], 0) ∧
     lanes1 .s32 4 (.vscanIncl 1 2 1 .s32) s = ([1, 0xFFFFFFFF, 9, 6], 0) ∧ lanes1 .s32 4 (.vscanExcl 1 2 1 .s32) s = ([0, 1, 9, 0xFFFFFFFF], 0) ∧
     lanes1 .s32 4 (.vscanCompact 1 2 1 .s32) s = ([1, 0xFFFFFFFE, 7, 0], 0)) ∧
    lanes1 .f32 2 (.vredsum 1 2 1 .f32) (vecs .f32 [(2, [0x3F800000, 0x40000000, 0x40400000])] 7) = ([0x40C00000, 0], 0) := by decide +kernel

theorem test_meets_HeldValuesConvertExactly : fmtE2M1 ∈ [fmtF32, fmtF16, fmtBF16, fmtH19, fmtE4M3, fmtE5M2, fmtE2M1] ∧ (7 : Nat) < 2 ^ (1 + fmtE2M1.ebits + fmtE2M1.mbits) ∧
    (fdecode fmtE2M1 7).isNan = false ∧ (fdecode fmtE5M2 0x7C).isNan = false ∧ fround fmtE2M1 .rtz (fdecode fmtE2M1 7) = (7, 0) := by decide +kernel
/-! ## Strata -/

/-- Region 9: 16 strata keys of four FP32 values, four states retained, LINEAR, extrapolation 5, reach 100; its key 1 is as given. -/
def region (k : Key) : Region :=
  { tenant := 1, kind := .strata, base := 0x40000, size := 0x10000, page := 0x10000, tier := 0, format := .f32, payload := 16, retain := 4, mode := .linear, extrap := 5, reach := 100
    nkeys := 16, home := { tenant := 1, lid := 0xF000 }, homes := [], keys := [(1, k)], released := false }

/-- Key 1 holds 1.0 at time 10 and 3.0 at time 20. -/
def key1 (owner : KeyOwner) (st : KeySt := .open_) : Key :=
  { st := st, owner := owner, count := 2, newest := 1, recs := [(0, (10, 0x3F800000)), (1, (20, 0x40400000))] }

/-- The key with its slot's address in `X[2]`, a time in `X[3]`, and 5.0 in `V[4]`. -/
def strata (k : Key) (t : Word) : State :=
  regs [(2, 0x40100), (3, t)] { demoWith (fun u => { u with v := u.v.set 4 0x40A00000 }) with regions := [(9, region k)] }

/-- Status and first element of `V[5]` after LDT or LDTN. -/
def loaded (i : Instr) (s : State) : Option (Word × Nat) :=
  match exec i s with
  | .next t => some (t.rx 6, (vlane .f32 t.task.v[(5 : Reg)] 0).toNat)
  | _ => none

/-- R77 to R79: exact, between, extended, refused and waiting. -/
theorem test_strata_loads : loaded (.ldt 5 2 3 6) (strata (key1 .none) 10) = some (0, 0x3F800000) ∧ loaded (.ldt 5 2 3 6) (strata (key1 .none) 15) = some (1, 0x40000000) ∧
    loaded (.ldt 5 2 3 6) (strata (key1 .none) 25) = some (2, 0x40800000) ∧ loaded (.ldtn 5 2 3 6) (strata (key1 .none) 26) = some (4, 0) ∧
    loaded (.ldtn 5 2 3 6) (strata (key1 .none .closed) 26) = some (5, 0) ∧
    after (.ldt 5 2 3 6) (strata (key1 .none) 120) (fun t => t.task.wait == .strata { rid := 9, k := 1 } 120 5 6 true 0 0) = true ∧
    trapsWith (.ldt 5 2 3 6) (strata (key1 .none) 121) (strataCause .strataAhead 0 0x40100) = true ∧ trapsWith (.ldt 5 2 3 6) (strata (key1 .none) 9) (strataCause .strataBehind 0 0x40100) = true := by decide +kernel

/-- R74 and R75: owning, storing and closing. -/
theorem test_strata_writes : after (.town 2) (strata {} 0) (fun t => decide ((t.keyAt { rid := 9, k := 1 }).map (·.2.owner) = some (.core 0))) = true ∧
    after (.stt 4 2 3) (strata (key1 (.core 0)) 21) (fun t => decide ((t.keyAt { rid := 9, k := 1 }).map (fun q => q.2.states 4) = some [(10, 0x3F800000), (20, 0x40400000), (21, 0x40A00000)])) = true ∧
    trapsWith (.stt 4 2 3) (strata (key1 (.core 0)) 20) (strataCause .strataOrder 0 0x40100) = true ∧ trapsWith (.stt 4 2 3) (strata (key1 (.core 3)) 30) (protect 4 0x40100) = true ∧
    after (.tclose 2) (strata (key1 (.core 0)) 0) (fun t => decide ((t.keyAt { rid := 9, k := 1 }).map (·.2.st) = some .closed)) = true ∧
    trapsWith (.town 2) (strata (key1 .none .closed) 0) (protect 4 0x40100) = true := by decide +kernel

theorem test_meets_TimedStrata :
    (let s := strata (key1 (.core 0)) 21
     let id : KeyId := { rid := 9, k := 1 }
     Alone s ∧ s.task.determinate = false ∧ (s.keyAt id).map (·.2) = some (key1 (.core 0)) ∧ (region (key1 (.core 0))).released = false ∧ (key1 (.core 0)).st ≠ .retiring ∧
     got (strataKey s (s.rx 2)) (fun j => decide (j = id)) = true ∧ caused (strataKey s (ptr 18 0 0 0 0x40100)) (protect 4 (ptr 18 0 0 0 0x40100)) = true ∧
     caused (strataKey s 0x40104) (protect 4 0x40104) = true ∧ caused (strataKey s 0x20000) (protect 2 0x20000) = true ∧
     ((key1 (.core 0)).states 4).getLast? = some (20, 0x40400000) ∧ ((key1 (.core 0)).states 4).head? = some (10, 0x3F800000) ∧
     ((key1 (.core 0)).states 4).Pairwise (fun x y => x.1 < y.1) ∧ ({} : Key).states 4 = [] ∧ s.tableSize { tenant := 1, lid := 0xF000 } < 1024 ∧
     s.homeLate (region (key1 (.core 0))) 1 0 = false ∧ s.slotLacks (region (key1 (.core 0))) 1 = none ∧ s.slotUe (region (key1 (.core 0))) 1 = false) := by decide +kernel

/-- The page of the region's slots, mapped in the tables of the package of its home core. -/
def slotted (k : Key) : State :=
  { strata k 21 with
    mem := [(0x8038, 2 ^ 63 + 0x800000), (0x800000, 2 ^ 63 + 0xA000), (0xA000, 2 ^ 63 + 0xB000), (0xB020, 2 ^ 63 + 4 * 2 ^ 60 + 2 ^ 58 + 0x400000)].foldl (fun m (e : Nat × Nat) => memStore m e.1 (leBytes 8 e.2)) []
    others := [(coreKey { tenant := 1, lid := 0xF000 }, { Core.idle { tenant := 1, lid := 0xF000 } .quarry with place := { pkg := 0, unit := 4 } })] }

/-- Core 0 loads key 1, which core 9 owns, and core 9 waits at key 2, which core 0 owns, for time 110. -/
def cyclic (count : Nat) (t : Word) : State :=
  { strata {} t with
    regions := [(9, { region {} with keys := [(1, { key1 (.core 9) with count := count }), (2, key1 (.core 0))] })]
    others := [(coreKey { tenant := 1, lid := 9 }, coreOf 9 { task5 with index := 3, wait := .strata { rid := 9, k := 2 } 110 5 6 true 0 0 })] }

/-- R77, R81 and R85: a load at a key that is owned waits; of a cycle of waiting writers the least is released, be it another core or this one. -/
theorem test_meets_StrataWaits :
    (let s := strata (key1 (.core 9)) 120
     (region (key1 (.core 9))).resolve (key1 (.core 9)) 120 false = .waits ∧ (s.findCore { tenant := 1, lid := 9 }).isNone = true ∧
     after (.ldt 5 2 3 6) s (fun t => t.net == [] && t.task.wait == .strata { rid := 9, k := 1 } 120 5 6 true 0 0) = true) ∧
    (leastRec [{ who := { tenant := 1, lid := 0 }, key := { rid := 9, k := 1 }, t := 120, inTable := false }, { who := { tenant := 1, lid := 9 }, key := { rid := 9, k := 2 }, t := 110, inTable := true }]).map
      (·.who.lid) = some 9 ∧
    after (.ldt 5 2 3 6) (cyclic 2 120) (fun t => t.net == [.release { tenant := 1, lid := 9 } { rid := 9, k := 2 } 110] && t.task.pc == 0x10000) = true ∧
    loaded (.ldt 5 2 3 6) (cyclic 2 105) = some (3, 0x41A00000) ∧
    trapsWith (.ldt 5 2 3 6) (cyclic 0 105) (strataCause .strataAhead 3 0x40100) = true := by decide +kernel

/-- R69 and R70: after TOWN and STT the slot's control line holds OPEN, the owner's kind and core, and the tenant, and the count and the newest record; the record's time and payload lie at their places. -/
theorem test_meets_SlotBytes :
    (let s := slotted { key1 (.core 0) with recs := [(0, (10, 0x3F800000)), (1, (20, 0x40400000))] }
     decide (s.slotPhys (region (key1 (.core 0))) 1 = some (0, 0x400100)) = true ∧ s.slotLacks (region (key1 (.core 0))) 1 = none ∧ s.slotUe (region (key1 (.core 0))) 1 = false ∧
     after (.town 2) (slotted {}) (fun t => leOf (t.readPhys 0 0x400100 8) == 2 ^ 60 + 2 ^ 24) = true ∧
     after (.stt 4 2 3) s (fun t => leOf (t.readPhys 0 0x400100 8) == 2 ^ 60 + 3 * 2 ^ 55 + 2 * 2 ^ 51 + 2 ^ 24 && leOf (t.readPhys 0 0x400150 8) == 21 && leOf (t.readPhys 0 0x4001A0 16) == 0x40A00000) = true) := by
  decide +kernel

/-! ## The matrix engine -/

/-- Slots 0 and 1 claimed, with whole operands; geometry 0: BF16 operands of shape 1 × 1 × 1 into row 4, column 8. -/
def matrix (f : Task → Task := id) (l : List (Reg × Word) := []) : State :=
  regs l (demoWith fun t => f { t with
    slots := (t.slots.set 0 { claimed := true, data := memStore [] 0 [0x80, 0x3F] }).set 1 { claimed := true, data := memStore [] 0 [0x00, 0x40] } })

/-- The geometry pair 0 of `matrix`: BF16 (matrix code 1) times BF16, 1 × 1 × 1, row 4, column 8. -/
def geometry (t : Task) : Task := { t with mg := (t.mg.set 0 (BitVec.ofNat 64 (4 * 2 ^ 40 + 8 * 2 ^ 48))).set 1 0x11 }

/-- A step of that geometry on slots 0 and 1. -/
def step0 (started : Bool) (batch : Option Nat) : MStep :=
  { seq := 0, a := 0, b := 1, g := 0, geo := BitVec.ofNat 64 (4 * 2 ^ 40 + 8 * 2 ^ 48), fmt := 0x11, cols := 1, parts := [], batch := batch, started := started, done := false, flags := 0 }

/-- The task with the step in its queue. -/
def queued (started : Bool) (batch : Option Nat) (t : Task) : Task := { geometry t with steps := [step0 started batch], mseq := 1, batches := if batch.isSome then 1 else 0 }

/-- R104 to R106, R275, R276 and R280: what each instruction of engine 0 does to registers, slots and rows. -/
theorem test_matrix_registers : after (.mgw 2 3) (matrix id [(2, 77)]) (fun t => t.task.mg[3] == 77) = true ∧ after (.mgw 2 0) (matrix (queued false none)) (fun t => t.task.wait == .stall) = true ∧
    result (.mgr 1 1) (matrix geometry) = some 0x11 ∧ after (.mclaim 2) (matrix id [(2, 0xC0)]) (fun t => t.task.slots[7].claimed && t.task.slots[6].claimed && !t.task.slots[5].claimed) = true ∧
    trapsWith (.mclaim 2) (matrix id [(2, 1)]) (slotBusy 2) = true ∧ trapsWith (.mclaim 2) (matrix id [(2, 256)]) (slotBusy 3) = true ∧ trapsWith (.mrel 2) (matrix id [(2, 4)]) (slotBusy 1) = true ∧
    after (.mrel 2) (matrix id [(2, 3)]) (fun t => !t.task.slots[0].claimed && !t.task.slots[1].claimed) = true ∧ after (.mrel 2) (matrix (queued true none) [(2, 3)]) (fun t => t.task.wait == .stall) = true ∧
    trapsWith (.mwaitb 2) (matrix (queued true (some 0)) [(2, 1)]) matrixHazard = true ∧ after (.mwaitb 2) (matrix (queued true (some 0))) (fun t => t.task.wait == .stall) = true ∧
    after (.mwaitb 2) (matrix fun t => { t with batches := 1 }) (fun t => t.task.pc == 0x10004) = true ∧
    trapsWith (.mread 2 3 0) (matrix (queued true none) [(2, 4)]) matrixHazard = true ∧ after (.mread 2 3 0) (matrix (queued true (some 0)) [(2, 4)]) (fun t => t.task.wait == .stall) = true ∧
    trapsWith (.mwrite 2 3 0) (matrix id [(2, 128)]) shapeCause = true ∧
    after (.mwrite 2 3 7) (matrix (fun t => t.wv 3 (vecOf 32 [1, 2])) [(2, 127)]) (fun t => t.task.accAt 127 112 == 1 && t.task.accAt 127 113 == 2 && t.task.acc.length == 2) = true ∧
    after (.mread 2 3 7) (matrix (fun t => { t with acc := [(127 * 128 + 113, 9)] }) [(2, 127)]) (fun t => vlane .s32 t.task.v[(3 : Reg)] 1 == 9) = true ∧
    after (.mzero 2 3) (matrix (fun t => { t with acc := [(5, 9), (128, 8), (3 * 128, 7)] }) [(2, 1), (3, 2)]) (fun t => decide (t.task.acc = [(5, 9), (3 * 128, 7)])) = true ∧
    trapsWith (.mzero 2 3) (matrix id [(2, 127), (3, 2)]) shapeCause = true ∧ after (.mcapw 2 3 5) (matrix id [(2, 2 ^ 48 - 1), (3, 65535)]) (fun t => t.task.caps[5].token == 2 ^ 48 - 1) = true ∧
    trapsWith (.mcapw 2 3 5) (matrix id [(2, 2 ^ 48)]) shapeCause = true := by decide +kernel

theorem test_meets_MatrixRegisters : Alone (matrix id) ∧ (matrix id).task.determinate = false ∧ (matrix id).core.kind = .compute ∧ (super []).core.kind ≠ .compute ∧
    (matrix (queued true (some 0))).task.cover 4 1 = .committed ∧ (matrix (queued true none)).task.cover 4 1 = .open_ ∧ (matrix (queued true none)).task.cover 5 1 = .none ∧
    (matrix (queued true none)).task.cover 0 5 = .open_ ∧
    (let s := matrix (fun t => { t with accBad := [32, 40] }) [(2, 4), (4, 1)]
     4 * 8 + 0 ∈ s.task.accBad ∧ 4 * 8 + 1 ∉ s.task.accBad ∧ trapsWith (.mread 2 3 0) s { code := .memUe } = true ∧ after (.mread 2 3 1) s (fun t => t.task.pc == 0x10004) = true ∧
     after (.mwrite 2 3 0) s (fun t => t.task.accBad == [40]) = true ∧ after (.mzero 2 4) s (fun t => t.task.accBad == [40]) = true) := by decide +kernel

/-- R98 to R103: issue, start and completion of 1.0 × 2.0 into an element that holds 3.0, and a batch. -/
theorem test_matrix_step : after (.mmac 2 3 0) (matrix geometry [(3, 1)]) (fun t => decide (t.task.steps = [step0 false none]) && t.task.mseq == 1) = true ∧
    trapsWith (.mmac 2 3 0) (matrix geometry [(2, 8)]) shapeCause = true ∧ trapsWith (.mmac 2 3 0) (matrix geometry [(3, 2)]) (slotBusy 1) = true ∧
    trapsWith (.mmac 2 3 0) (matrix (fun t => { geometry t with mg := (geometry t).mg.set 1 0x1FF }) [(3, 1)]) shapeCause = true ∧
    after (.stepStart { tenant := 1, lid := 0 }) (matrix (queued false none)) (fun t => decide (t.task.steps = [step0 true none])) = true ∧
    after (.stepCompletion { tenant := 1, lid := 0 }) (matrix fun t => { queued true none t with acc := [(4 * 128 + 8, 0x40400000)] })
      (fun t => decide (t.task.acc = [(4 * 128 + 8, 0x40A00000)]) && decide (t.task.steps = [{ step0 true none with done := true }]) && t.task.asyncs.isEmpty) = true ∧
    after (.stepCompletion { tenant := 1, lid := 0 }) (matrix fun t => { queued true none t with slots := t.slots.set 1 { claimed := true, bad := [0], data := memStore [] 0 [0x00, 0x40] } })
      (fun t => decide (t.task.asyncs = [{ code := .memUe, async := true }])) = true ∧
    after .mcommit (matrix (queued false none)) (fun t => decide (t.task.steps = [step0 false (some 0)]) && t.task.batches == 1) = true := by decide +kernel

/-- Core 0 receives an MCMD of kind 1 from core 9, which waits for its answer. -/
def commanded (token : Nat) : State :=
  { matrix (fun t => { t with caps := t.caps.set 2 { token := 77, sender := 9 } }) with
    net := [.mcmd { tenant := 1, lid := 9 } { tenant := 1, lid := 0 } token 1 0]
    others := [(coreKey { tenant := 1, lid := 9 }, coreOf 9 { task5 with wait := .remote })] }

theorem keyed_commanded : (commanded 77).Keyed := keyed_of_entries (by decide +kernel) (by decide +kernel)

/-- A bench of eight tasks of launch 5, whose slots 0 and 1 are claimed, and a bench step of N = 129 columns led by core 0. -/
def benched : State :=
  let f (t : Task) : Task := { t with
    slots := (t.slots.set 0 { claimed := true }).set 1 { claimed := true }, mg := (t.mg.set 0 (BitVec.ofNat 64 (128 * 2 ^ 16 + 2 ^ 56))).set 1 0x11 }
  let lids := [1, 4, 5, 8, 9, 12, 13]
  regs [(3, 1)] { demoWith f with others := lids.foldl (fun m lid => mapPut (coreKey { tenant := 1, lid := lid }) (coreOf lid { f task5 with index := lid }) m) [], launches := [(5, { run5 with n := 16 })] }

theorem keyed_benched : benched.Keyed := keyed_of_entries (by decide +kernel) (by decide +kernel)

theorem test_meets_MatrixSteps : Alone (matrix geometry) ∧ (matrix geometry).core.kind = .compute ∧ (matrix geometry).task.determinate = false ∧ (matrix geometry).task.mroom = true ∧
    (geoOf (matrix geometry).task.mg[0] (matrix geometry).task.mg[1]).bench = false ∧ geoOk (matrix geometry).task.mg[0] (matrix geometry).task.mg[1] = true ∧
    operandFits 3 1 1 64 = true ∧ geoOk 0 0x1FF = false ∧ (matrix (queued false none)).headStep = some (step0 false none) ∧ stepAtHead (step0 false none) (matrix (queued false none)) = true ∧
    stepFilled (step0 false none) (matrix (queued false none)) = true ∧ (step0 true none).shape.col0 + 1 ≤ 128 ∧
    (geoOf benched.task.mg[0] benched.task.mg[1]).bench = true ∧ got (benchStep benched 0 1 0) (fun m => stepRoom m benched && decide (m.parts = [1]) && decide (m.cols = 128)) = true ∧
    benched.stepLate = false ∧ benched.remoteWaits benched.core = false ∧
    after (.mmac 2 3 0) { benched with benches := [(benchKey benched.bench, { steplast := some (0, 3) })] } (fun t => t.task.steps.isEmpty && t.task.wait == .stall) = true ∧
    after (.mmac 2 3 0) benched (fun t => t.task.steps.length == 1 && decide ((t.benchAt t.bench).steplast = some (0, 0)) && (t.findCore { tenant := 1, lid := 1 }).any fun k => k.task.guests.length == 1) = true ∧
    after (.mcmdCommit 2 3) (matrix geometry [(2, 9), (3, 0x10)]) (fun t => t.net.length == 1 && t.task.wait == .remote) = true ∧
    trapsWith (.mcmdCommit 2 3) (matrix geometry [(3, 0x20)]) shapeCause = true ∧ trapsWith (.mcmdMmac 2 3) (matrix geometry [(3, 0x200)]) shapeCause = true ∧
    trapsWith (.mcmdZero 2 3) (matrix geometry [(3, 0x80)]) shapeCause = true ∧
    (commanded 77).task.capable 77 9 = true ∧ (commanded 77).task.capable 78 9 = false ∧ (commanded 77).findCore { tenant := 1, lid := 8 } = none ∧
    after (.remoteCommand 0) (commanded 77) (fun t => t.task.batches == 1 && t.net.isEmpty && (t.findCore { tenant := 1, lid := 9 }).any fun k => k.task.pc == 0x10004) = true ∧
    after (.remoteCommand 0) (commanded 78) (fun t => (t.findCore { tenant := 1, lid := 9 }).any fun k => decide (k.task.trap.map (·.cause) = some { code := .capability })) = true := by decide +kernel

/-- R282, R325: a full queue makes a local issue wait, whose turn comes next; the routers discard a command whose target lies outside the tenant's rectangles. -/
theorem test_meets_MatrixQueues :
    (let full := matrix (fun t => { geometry t with steps := List.replicate 16 (step0 false none) }) [(3, 1)]
     let away (s : State) : State := { s with core := { s.core with place := { s.core.place with unit := 3, col := 15, row := 31 } } }
     let both (next alt room : Bool) : State := { matrix (fun t => { geometry t with mremote := true, mnext := next, malt := alt, steps := if room then [] else List.replicate 16 (step0 false none) }) [(3, 1)] with
       net := [.mcmd { tenant := 1, lid := 9 } { tenant := 1, lid := 0 } 7 1 0] }
     (both false true true).remoteWaits (both false true true).core = true ∧ (both false true true).task.mroom = true ∧
     after (.mmac 2 3 0) (both false true true) (fun t => t.task.wait == .stall && t.task.mlocal && !t.task.mnext && t.task.malt) = true ∧
     after (.mmac 2 3 0) (both false false true) (fun t => t.task.wait == .stall && t.task.mlocal && t.task.mnext && !t.task.malt) = true ∧
     after (.mmac 2 3 0) (both true false true) (fun t => t.task.steps.length == 1 && !t.task.mlocal && !t.task.mnext && t.task.malt) = true ∧
     full.task.mroom = false ∧ full.task.mlocal = false ∧ after (.mmac 2 3 0) full (fun t => t.task.wait == .stall && t.task.mlocal && t.task.mnext) = true ∧
     after (.remoteCommand 0) (away (commanded 77)) (fun t => (t.findCore { tenant := 1, lid := 9 }).any fun k => decide (k.task.trap.map (·.cause) = some (protect 7))) = true ∧
     (commanded 77).task.mnext = false ∧ (commanded 77).task.mlast = none ∧ Tenancy.holdsRouter ((commanded 77).tenant 1) (commanded 77).core.place = true ∧
     Tenancy.holdsRouter ((commanded 77).tenant 1) (away (commanded 77)).core.place = false) := by decide +kernel
/-! ## Engines -/

/-- Record 3 of 16 FP32 elements on the SHARED page, the box of 4 elements from 8 in `X[10]` and `X[11]`, counter 6 in `X[12]`, and operands in `X[2]`. -/
def boxed (x : Word) (f : Task → Task := id) (l : List (Reg × Word) := []) : State :=
  let s := shaped false 0
  regs ([(10, 8), (11, 4), (12, 6), (2, x)] ++ l) { s with core := { s.core with task := f { s.task with slots := s.task.slots.set 5 { claimed := true } } } }

/-- The copy that a word queues. -/
def copy0 (kind : CopyKind) (buf : Word) (slot : Nat) : Copy :=
  { seq := 0, kind := kind, shape := (shaped false 0).task.sh[(3 : R16)], origin := [8], extent := [4], buf := buf, slot := slot, ctr := 6, int := true, waiting := none, saved := false }

/-- R283 and R284: the shape record of `amat`, sealed, loaded and refused. -/
theorem test_shapes :
    (let image : List Byte := [0x1000000100100000, 0x3000000078, 0, 0, 0x7800000000, 0, 0, 0x20000000].flatMap fun n => bytesOf n 8
     after (.shw 2 3 4) (regs [(2, 99), (3, 7)]) (fun t => t.task.sh[4].d[7] == 99 && !t.task.sh[4].sealed) = true ∧ trapsWith (.shw 2 3 4) (regs [(3, 8)]) { code := .shape, engine := 1 } = true ∧
     after (.shld 2 4) (regs [(2, ptr 0 0 0 0 0x20000)] (holding image)) (fun t => t.task.sh[4].sealed && t.task.sh[4].rank == 2 && t.task.sh[4].ext 0 == 120 && t.task.sh[4].ext 1 == 48 &&
       t.task.sh[4].str 1 == 120) = true ∧
     trapsWith (.shld 2 4) (regs [(2, ptr 0 0 0 0 0x20000)]) { code := .shape, engine := 1 } = true ∧ trapsWith (.shseal 4) demo { code := .shape, engine := 1 } = true ∧
     after (.shseal 3) (shaped false 0) (fun t => t.task.sh[3].sealed) = true) := by decide +kernel

/-- R100 and R286 to R288: a copy is queued, and it ends. -/
theorem test_copies : after (.cpin 10 2 true 3) (boxed 0x605) (fun t => decide (t.task.copies = [copy0 .cpin 0 5]) && t.task.cseq == 1) = true ∧
    trapsWith (.cpin 10 2 true 3) (boxed 0x604) { code := .slotBusy, sub := 1, engine := 1 } = true ∧ trapsWith (.cpin 10 2 true 3) (boxed 0x10605) { code := .shape, engine := 1 } = true ∧
    after (.cpoutGet 10 2 true 3) (boxed (ptr 0 0 0 1 0x40)) (fun t => decide (t.task.copies = [copy0 .get (ptr 0 0 0 1 0x40) 0])) = true ∧
    after (.cpoutPut 10 2 true 3) (boxed (ptr 1 0 0 1 0x40)) (fun t => decide (t.task.copies = [copy0 .put (ptr 1 0 0 1 0x40) 0]) && (t.line (lineOf 0 0x200020)).pins.length == 1) = true ∧
    trapsWith (.cpoutPut 10 2 true 3) (boxed (ptr 2 0 0 1 0x40)) { code := .shape, engine := 1 } = true ∧ trapsWith (.cpoutPut 10 2 true 3) (boxed (ptr 0 0 0 1 8)) { code := .shape, engine := 1 } = true ∧
    after (.copyCompletion { tenant := 1, lid := 0 } 0) (boxed 0 fun t => { t with copies := [copy0 .get (ptr 0 0 0 1 0x40) 0] })
      (fun t => t.task.copies.isEmpty && t.task.c[6] == 1 && t.task.uictr == 64 && spRead t.task 0 0x40 8 == [9, 0, 0, 0, 10, 0, 0, 0]) = true ∧
    after (.copyFault { tenant := 1, lid := 0 } 0) (boxed 0 fun t => { t with copies := [copy0 .get (ptr 0 0 0 0 0x10000) 0] })
      (fun t => t.task.copies.isEmpty && t.task.c[6] == 1 && decide (t.task.asyncs.map (·.code) = [.protect])) = true ∧
    after (.copyCompletion { tenant := 1, lid := 0 } 0) (boxed 0 fun t => { t with copies := [copy0 .get (ptr 0 0 0 0 0x50000) 0] })
      (fun t => decide (t.task.copies.map (·.waiting) = [some 0x50000]) && (t.pkg 0).notifs == [.page { tenant := 1, lid := 0 } 0x50000]) = true ∧
    after (.copyPageResume { tenant := 1, lid := 0 } 0) (boxed 0 fun t => { t with copies := [{ copy0 .get 0 0 with waiting := some 0x30000 }] })
      (fun t => decide (t.task.copies.map (·.waiting) = [none])) = true := by decide +kernel

theorem test_meets_ShapesAndCopies : Alone (boxed 0x605) ∧ (boxed 0x605).core.kind = .compute ∧ (super []).core.kind ≠ .compute ∧ (boxed 7).task.sh[(3 : R16)].ok = true ∧ demo.task.sh[(3 : R16)].ok = false ∧
    got (boxOf (boxed 0x605) 10 true 3 1) (fun r => decide (r.2 = ([8], [4])) && boxUnits r.1 r.2.1 r.2.2 == 4 && slotFits r.1 4) = true ∧ caused (boxOf demo 10 true 3 0) { code := .shape, engine := 1 } = true ∧
    caused (boxOf (boxed 0) 31 true 3 0) { code := .shape, engine := 1 } = true ∧ (boxed 0x605).task.slots[(5 : Fin 8)].claimed = true ∧ (boxed 0x605).task.slotInUse 5 = false ∧
    (boxed 0x605).task.copies.length < 16 ∧ (boxed 0x605).task.replay = [] ∧ (boxed 0x605).storesWait = false ∧ (boxed 0 fun t => { t with steps := [{ step0 true none with a := 5 }] }).task.slotInUse 5 = true ∧
    16 ≤ (boxed 0 fun t => { t with copies := List.replicate 16 (copy0 .get 0 0) }).task.copies.length ∧ ((boxed 0 fun t => { t with copies := [copy0 .cpin 0 5] }).task.copyRuns (copy0 .cpin 0 5)) = true ∧
    got (pinCopy (copy0 .cpin 0 5) (boxed 0x605)) (fun _ => true) = true ∧ got (pinCopy (copy0 .put (ptr 1 0 0 1 0x40) 0) (boxed (ptr 1 0 0 1 0x40))) (fun u => !(u.line (lineOf 0 0x200020)).pins.isEmpty) = true ∧
    pSpace (ptr 0 0 0 0 0x20000) ≠ 2 ∧ (boxed 0).task.st = .running ∧
    (let far : ShapeRec := { (shaped false 0).task.sh[(3 : R16)] with d := (shaped false 0).task.sh[(3 : R16)].d.set 0 (ptr 1 0 0 0 0x60000) }
     let s : State := { boxed (ptr 1 0 0 1 0x40) (fun t => { t with sh := t.sh.set 3 far }) with others := (leasedTo 0x200).others, lines := (leasedTo 0x200).lines }
     (match pinCopy { copy0 .put (ptr 1 0 0 1 0x40) 0 with shape := far } s with | .wait _ => true | _ => false) = true ∧
     after (.cpoutPut 10 2 true 3) s (fun t => t.task.copies.isEmpty && t.task.pc == 0x10000) = true) ∧
    (match copyMove (copy0 .cpin 0 5) (boxed 0) with | .did s f => f.isNone && decide ((s.task.slots[(5 : Fin 8)]).data.length = 4) | _ => false) = true := by decide +kernel

/-- The tenant's quarry core 0 with a task of launch 5; core 0 of the tenant is another core. -/
def quarry (ps : List Push) : State :=
  let s := boxed (2 ^ 40 + 2 ^ 39 + 0x80 * 2 ^ 22 + 6 * 2 ^ 18 + 0x21)
  { s with
    core := { s.core with id := { tenant := 1, lid := 0xF000 }, kind := .quarry, place := { pkg := 0, unit := 4 }, pushes := ps }
    others := [(coreKey { tenant := 1, lid := 0 }, coreOf 0 task5)], tlbs := [(({ pkg := 0, unit := 4 } : CorePlace).tlb, pages)] }

/-- The push of tag 0x21 to core 0's scratchpad at 0x80. -/
def push0 (data : Option (List Byte)) : Push :=
  { launch := 5, index := 0, tag := 0x21, bench := 0, mask := 1, todo := 1, toScratch := true, slot := 0, offset := 0x80, span := 0, ctr := 6, int := false
    shape := (shaped false 0).task.sh[(3 : R16)], origin := [8], extent := [4], data := data, waiting := none, retry := [] }

theorem keyed_quarry (ps : List Push) : (quarry ps).Keyed := by
  refine keyed_of_entries (s := quarry ps) rfl fun e h => ?_
  obtain rfl := List.mem_singleton.1 h
  rfl

/-- R289 and R290: a push is queued, its bytes land, a consumer that has no task is tried again, and a consumer lets it go. -/
theorem test_pushes : after (.cpush 10 2 false 3) (quarry []) (fun t => decide (t.core.pushes = [push0 none])) = true ∧
    trapsWith (.cpush 10 2 false 3) (quarry [push0 none]) { code := .slotBusy, sub := 2, engine := 1 } = true ∧ trapsWith (.cpush 10 2 false 3) (boxed 0) { code := .protect, sub := 6, engine := 1 } = true ∧
    after (.pushWrite { tenant := 1, lid := 0xF000 } 0 0) (quarry [push0 (some [9, 8])])
      (fun t => decide (t.core.pushes.map (·.todo) = [0]) && (t.findCore { tenant := 1, lid := 0 }).any fun k => spRead k.task 0 0x80 2 == [9, 8] && k.task.c[6] == 1) = true ∧
    after (.pushWrite { tenant := 1, lid := 0xF000 } 0 0) { quarry [push0 (some [9, 8])] with others := [(coreKey { tenant := 1, lid := 0 }, coreOf 0 Task.empty)] }
      (fun t => decide (t.core.pushes.map (fun p => (p.todo, p.retry)) = [(1, [(0, 64)])])) = true ∧
    after (.pushWrite { tenant := 1, lid := 0xF000 } 0 0) { quarry [push0 (some [9, 8])] with others := [(coreKey { tenant := 1, lid := 0 }, coreOf 0 { task5 with xlast := some (0, 0xF001) })] }
      (fun t => decide (t.core.pushes.map (·.todo) = [1]) && (t.findCore { tenant := 1, lid := 0 }).any fun k => k.task.scratch == [] && k.task.c[6] == 0) = true ∧
    after (.pushRetry { tenant := 1, lid := 0xF000 } 0 0) { quarry [{ push0 (some [9, 8]) with retry := [(0, 64)] }] with now := 64 } (fun t => decide (t.core.pushes.map (fun p => (p.todo, p.retry)) = [(0, [])])) = true ∧
    (let s := switchTo { tenant := 1, lid := 0 } (quarry [push0 (some [9, 8])])
     after (.cpushRelease 2) (regs [(2, 0x21)] s) (fun t => t.task.pc == 0x10004 && (t.findCore { tenant := 1, lid := 0xF000 }).any fun k => k.pushes.isEmpty) = true) := by decide +kernel

theorem test_meets_QuarryPushes : Alone (quarry []) ∧ (quarry []).core.kind = .quarry ∧ (quarry []).task.replay = [] ∧ (quarry []).storesWait = false ∧
    got (boxOf (quarry []) 10 false 3 0) (fun r => pushOk (quarry []) ((quarry []).rx 2).toNat r.1 (boxUnits r.1 r.2.1 r.2.2)) = true ∧
    (match pushGather (push0 none) (quarry [push0 none]) with | .did r f => f.isNone && r.2.length == 16 | _ => false) = true ∧
    (match pushGather { push0 none with shape := { push0 none |>.shape with d := (push0 none).shape.d.set 0 (ptr 1 0 0 0 0x40000) } } (quarry []) with | .did _ f => f.isSome | _ => false) = true ∧
    (191 : Nat) < 0xC000 / 2 ^ 8 % 2 ^ 8 ∧ task5.takesPush (push0 none) = true ∧ Task.empty.takesPush (push0 none) = false := by decide +kernel

/-- A chisel record: TRANSCODE of two FP32 elements at scratchpad 0x40 into BF16 at 0x80, at scratchpad 0x100. -/
def chisel (st : Option ChState) (l : List (Reg × Word) := []) (page : Option Nat := none) : State :=
  let image := [2, (ptr 1 0 0 1 0x40).toNat, (ptr 3 0 0 1 0x80).toNat, 2, 0, 0, 0, 0].flatMap fun n => bytesOf n 8
  let ctx (q : ChState) : ChCtx :=
    { who := { tenant := 1, lid := 0 }, launch := 5, index := 0, st := q, cmd := Vector.ofFn fun i => BitVec.ofNat 64 (leOf ((image.drop (8 * i.val)).take 8)), at_ := ptr 0 0 0 1 0x100, ctr := 6, int := false, page := page }
  regs ([(2, ptr 0 0 0 1 0x100)] ++ l) { demoWith (fun t => { t with scratch := spWrite 0 0x100 image (spWrite 0 0x40 (bytesOf (0x3F800000 + 2 ^ 32 * 0x3FC00001) 8) []) }) with
    benches := match st with
      | some q => [(benchKey demo.bench, { chisel := (Vector.replicate 16 none).set 0 (some (ctx q)) })]
      | none => [] }

/-- R291 and R293. -/
theorem test_chisel : after (.chsub 1 2 false 6) (chisel none) (fun t => t.rx 1 == 0 && decide ((t.ctx t.bench 0).map (·.st) = some .queued)) = true ∧
    after (.chsub 1 2 false 6) (chisel (some .queued)) (fun t => t.rx 1 == 1 && (t.ctx t.bench 1).isSome) = true ∧ result (.chpoll 1 3) (chisel (some .running) [(3, 0)]) = some 2 ∧
    result (.chpoll 1 3) (chisel none [(3, 15)]) = some 0 ∧ trapsWith (.chpoll 1 3) (chisel none [(3, 16)]) { code := .shape, engine := 2 } = true ∧
    after (.chiselCompletion { tenant := 1, bench := 0 } 0) (chisel (some .queued)) (fun t => decide ((t.ctx t.bench 0).map (·.st) = some .running)) = true ∧
    after (.chiselCompletion { tenant := 1, bench := 0 } 0) (chisel (some .running)) (fun t => (t.ctx t.bench 0).isNone && t.task.c[6] == 1 && spRead t.task 0 0x80 4 == [0x80, 0x3F, 0xC0, 0x3F] &&
      spRead t.task 0 0x138 8 == [0, 1, 0, 2, 0, 0, 0, 0]) = true ∧
    after (.chiselPageResume { tenant := 1, bench := 0 } 0) (chisel (some .parked) [] (some 0x30000)) (fun t => decide ((t.ctx t.bench 0).map (·.st) = some .running)) = true := by decide +kernel

/-- A phase of one entry of two lines at cycle 5 to core 4, armed or as a table at scratchpad 0x200; the span line 3. -/
def exchange (x : Option XPhase) (now : Nat) (l : List (Reg × Word) := []) : State :=
  let s := line3 { kind := .barrier, arrivals := 8 }
  regs ([(2, ptr 0 0 0 1 0x200), (3, ptr 0 0 0 3 24)] ++ l) { s with
    now := now
    core := { s.core with task := { s.task with xphase := x, scratch := spWrite 0 0x200 (bytesOf 1 8 ++ bytesOf (0x400 + 0x80 * 2 ^ 17) 8 ++ bytesOf (5 + 4 * 2 ^ 32 + 2 ^ 48) 8) [] } } }

/-- The armed phase. -/
def phase0 (es : List XEntry) (zero : Option Nat) : XPhase :=
  { line := 3, entries := es, ctr := 6, areaOff := 0x400, areaLen := 0x80, zero := zero, pending := none, leaving := none, out := none, lastCycle := 22, passed := false }

/-- R294 to R296, R303 and R304. -/
theorem test_exchange : after (.xsched 2 3 6) (exchange none 0) (fun t => decide (t.task.xphase = some (phase0 [{ o := 5, dest := 4, lines := 2 }] none))) = true ∧
    trapsWith (.xsend 2 4) (exchange none 0) { code := .slotLate, sub := 2, engine := 3 } = true ∧
    trapsWith (.xsend 2 4) (exchange (some (phase0 [{ o := 5, dest := 4, lines := 2 }] (some 100))) 105 [(4, 3 * 2 ^ 32)]) { code := .slotLate, sub := 1, engine := 3 } = true ∧
    trapsWith (.xsend 2 4) (exchange (some (phase0 [{ o := 5, dest := 4, lines := 2 }] (some 100))) 121 [(4, 4 * 2 ^ 32)]) { code := .slotLate, sub := 0, engine := 3 } = true ∧
    trapsWith (.xsend 2 4) (exchange (some (phase0 [{ o := 5, dest := 4, lines := 2 }] (some 100))) 120 [(4, 4 * 2 ^ 32 + 8)]) { code := .shape, engine := 3 } = true ∧
    after (.xsend 2 4) (exchange (some (phase0 [{ o := 5, dest := 4, lines := 2 }] (some 100))) 105 [(4, 4 * 2 ^ 32)]) (fun t => t.net.isEmpty && t.task.pc == 0x10004 && decide (t.task.xphase.map (fun x => (x.entries, x.leaving)) = some ([], some 122)) &&
      (tick 15 t).net.isEmpty && (tick 16 t).net.length == 1 && (tick 17 t).net.length == 2) = true ∧
    after (.xsend 2 4) (exchange (some (phase0 [{ o := 5, dest := 4, lines := 2 }] (some 100))) 104 [(4, 4 * 2 ^ 32)]) (fun t => t.net.isEmpty && t.task.wait == .slot) = true ∧
    after (.exchangeSlotOpen { tenant := 1, lid := 0 }) (exchange (some { phase0 [{ o := 5, dest := 4, lines := 2 }] (some 100) with pending := some (ptr 0 0 0 1 0x200, 64) }) 105)
      (fun t => (tick 17 t).net.length == 2 && t.task.pc == 0x10004) = true ∧
    after (.exchangePhaseEnd { tenant := 1, lid := 0 }) (exchange (some (phase0 [] (some 100))) 123) (fun t => decide (t.task.xphase.map (·.passed) = some true)) = true ∧
    after (.exchangePhaseEnd { tenant := 1, lid := 0 }) (exchange (some (phase0 [] (some 100))) 122) (fun t => decide (t.task.xphase.map (·.passed) = some false)) = true ∧
    after (.exchangeLine 0) { exchange (some (phase0 [] none)) 0 with net := [.xline { tenant := 1, lid := 4 } { tenant := 1, lid := 0 } 0x440 (List.replicate 64 7) 0 true] }
      (fun t => t.task.c[6] == 1 && t.net.isEmpty && spRead t.task 0 0x47F 1 == [7]) = true := by decide +kernel

theorem test_meets_ChiselAndExchange : Alone (chisel none) ∧ (chisel none).core.kind = .compute ∧ (chisel none).task.determinate = false ∧ 2 ≤ pSpace (ptr 0 0 0 2 0) ∧
    pSpace (ptr 0 0 0 1 0x100) < 2 ∧ pAddr (ptr 0 0 0 1 0x100) % 64 = 0 ∧ ((chisel none).ctx (chisel none).bench 0).isNone = true ∧ (chisel none).task.replay = [] ∧ (chisel none).storesWait = false ∧
    got (loadRecord (ptr 0 0 0 1 0x100) 64 (chisel none)) (fun r => r.2.length == 64) = true ∧
    (let s : State := { demo with benches := [(benchKey demo.bench, { chisel := Vector.replicate 16 ((chisel (some .queued)).ctx demo.bench 0) })] }
     (∀ i : Fin 16, (s.ctx s.bench i).isSome = true) ∧ result (.chsub 1 2 false 6) (regs [(2, ptr 0 0 0 1 0x100)] s) = some (-1)) ∧
    got (xLine (exchange none 0) (ptr 0 0 0 3 24)) (fun n => n == 3) = true ∧ (exchange none 0).task.xphase.isNone = true ∧
    got (loadRecord (ptr 0 0 0 1 0x200) 16 (exchange none 0)) (fun r => leOf (r.2.take 8) == 1 && got (loadRecord (ptr 0 0 0 1 0x200) 24 r.1) fun q => decide (xTable 3 6 32 q.2 = some (phase0 [{ o := 5, dest := 4, lines := 2 }] none)) &&
      (xTable 3 6 4 q.2).isNone) = true ∧
    (match chPerform (((chisel (some .running)).ctx demo.bench 0).get (by decide +kernel)) (chisel (some .running)) with
      | .ended u e => got (chWrite (ptr 0 0 0 1 0x100) 0x138 (bytesOf 5 8) u) fun _ => e.index == 2
      | _ => false) = true ∧
    (chisel (some .parked) [] (some 0x30000)).present 0x30000 = true := by decide +kernel

/-- The command of `chisel` on `n` elements from a pointer. -/
def chiselOf (n : Nat) (src : Word) : ChTurn :=
  chPerform { (((chisel (some .running)).ctx demo.bench 0).get (by decide +kernel)) with
    cmd := Vector.ofFn fun i => BitVec.ofNat 64 ([2, src.toNat, (ptr 3 0 0 1 0x800).toNat, n, 0, 0, 0, 0].getD i.val 0) } (chisel (some .running))

/-- R293: a command of more bytes than one turn takes goes on in the next, and one that meets an absent page stops there. R294, R124: a phase that is not over refuses XSCHED, and XSEND refuses a reserved format code. -/
theorem test_meets_EngineTurns :
    (match chiselOf 100 (ptr 1 0 0 1 0x40) with | .more _ n _ => decide (0 < n ∧ n < 100) | _ => false) = true ∧
    (match chiselOf 100 (ptr 1 0 0 0 0x50000) with | .page _ n _ va => n == 0 && va == 0x50000 | _ => false) = true ∧
    demo.chiselBench demo.bench = demo.bench ∧ benchPos demo.wl demo.core.id.lid = 0 ∧ (demo.pkg 0).runs = true ∧ Here demo ∧
    after (.chsub 1 2 false 6) { chisel none with benches := [(benchKey demo.bench, { sublast := some (0, 3) })] } (fun t => t.task.wait == .stall && t.task.pc == 0x10000 && (t.ctx t.bench 0).isNone) = true ∧
    after (.chsub 1 2 false 6) (chisel none) (fun t => decide ((t.benchAt t.bench).sublast = some (0, 0))) = true ∧
    (let s := exchange (some { phase0 [{ o := 5, dest := 4, lines := 2 }] (some 100) with pending := some (ptr 0 0 0 1 0x200, 64) }) 105
     let u : State := { s with core := { s.core with task := { s.task with rep := { s.task.rep with running := true, words := [0], total := 2, wait := .slot } } } }
     s.task.rep.wait ≠ .slot ∧ u.task.inBody = false ∧ after (.exchangeSlotOpen { tenant := 1, lid := 0 }) u (fun t => t.task.pc == 0x10000 && t.task.rep.wait == .none && (tick 17 t).net.length == 2) = true) ∧
    ((chisel (some .running)).benchAt demo.bench).turnOf = some 0 ∧ ({} : Bench).turnOf = none ∧
    trapsWith (.xsched 2 3 6) (exchange (some (phase0 [] (some 100))) 122) { code := .slotBusy, engine := 3 } = true ∧
    (phase0 [] (some 100)).over 122 = false ∧ (phase0 [] (some 100)).over 123 = true ∧
    after (.xsched 2 3 6) (exchange (some (phase0 [] (some 100))) 123) (fun t => t.task.pc == 0x10004) = true ∧
    (let q : Word := ptr 21 0 0 1 0x200
     trapsWith (.xsend 2 4) (exchange (some (phase0 [{ o := 5, dest := 4, lines := 2 }] (some 100))) 105 [(2, q), (4, 4 * 2 ^ 32)]) { code := .protect, addr := q, engine := 3 } = true) := by decide +kernel

/-- Graph 2 of job 4: launches 5 and 6, where 5 runs the current task; phase 3 lists the graph. `n` kicks wait. -/
def leveled (n : Nat) (l : List (Reg × Word) := []) : State :=
  regs l { demo with
    launches := [(5, run5), (6, { run5 with grants := [{ index := 0, lid := 3, rank := 0, done := false, lost := false }] }), (7, { run5 with st := .ended, status := 3, counter := 8 })]
    graphs := [(2, { tenant := 1, job := 4, nodes := [5, 6], area := 0x30000, areaSize := 64, kicks := List.replicate n { seq := 1, phase := 3, patches := [] }
                     running := some { seq := 0, phase := 3, patches := [] }, accepted := 1 + n, counter := 0, status := 0, cancelled := false })]
    phases := [(3, { tenant := 1, job := 4, graphs := [2], closed := false, cancelled := false, started := true, ended := false, pending := 1 + n, counter := 0, status := 0 })]
    jobs := [(4, { tenant := 1, phases := [3], closed := false, cancelled := false, ended := false, counter := 0, status := 0 })]
    mem := memStore [] (memKey 0 0x200008) (bytesOf 1 8 ++ bytesOf 16 8 ++ bytesOf 77 8) }

/-- The handle of a level of tenant 1. -/
def level1 (v n : Nat) : Word := BitVec.ofNat 64 (v * 2 ^ 62 + 2 ^ 48 + n)

/-- R54, R55 and R298. -/
theorem test_kick_cancel_wait : result (.kick 1 0) (leveled 0 [(1, level1 1 9)]) = some 3 ∧ result (.kick 1 0) (leveled 16 [(1, level1 1 2)]) = some 1 ∧
    after (.kick 1 2) (leveled 0 [(1, level1 1 2), (2, 0x20008)]) (fun t => t.rx 1 == 0 && (decide ((mapFind 2 t.graphs).map (fun g => (g.kicks, g.accepted)) = some ([{ seq := 1, phase := 3, patches := [(16, 77)] }], 2))) &&
      decide ((mapFind 3 t.phases).map (·.pending) = some 2)) = true ∧
    after (.cancel 1) (leveled 0 [(1, level1 0 6)]) (fun t => decide ((t.launch? 6).map (fun l => (l.st, l.status, l.stopped)) = some (.draining, 1, true)) && t.task.pc == 0x10004) = true ∧
    trapsWith (.cancel 1) (leveled 0 [(1, 2 ^ 49)]) { code := .protect, sub := 6, engine := 4 } = true ∧
    trapsWith (.waitl 1 2) (leveled 0 [(1, level1 0 5)]) { code := .protect, sub := 6, engine := 4 } = true ∧
    result (.waitl 2 1) (leveled 0 [(2, level1 0 7)]) = some (3 * 2 ^ 48 + 8) ∧ after (.waitl 1 2) (leveled 0 [(1, level1 0 6)]) (fun t => t.task.wait == .level (level1 0 6) 0 none) = true := by decide +kernel

theorem test_meets_KickCancelWait : Alone (leveled 0) ∧ Drained (leveled 0) ∧ (leveled 0).graphOf 1 (level1 1 9) = none ∧ ((leveled 0).graphOf 1 (level1 1 2)).isSome = true ∧
    got (patchTable loadRecord 0x20008 (leveled 0)) (fun r => r.2 == some [(16, 77)] && patchesOk 64 [(16, 77)] && openPhase r.1 2 (((leveled 0).graphOf 1 (level1 1 2)).map (·.2) |>.getD
      { tenant := 1, job := 4, nodes := [], area := 0, areaSize := 0, kicks := [], running := none, accepted := 0, counter := 0, status := 0, cancelled := false }) == some 3) = true ∧
    got (patchTable loadRecord 0x20010 { leveled 0 with mem := memStore [] (memKey 0 0x200010) (bytesOf 257 8) }) (fun r => r.2.isNone) = true ∧ patchesOk 16 [(16, 77)] = false ∧
    (leveled 16).task.determinate = false ∧ handleTenant (2 ^ 49) ≠ 1 ∧ (leveled 0).hasLevel (level1 0 9) = false ∧ (leveled 0).hasLevel (level1 0 6) = true ∧ ownLevel (level1 0 5) (leveled 0) = true ∧
    ownLevel (level1 0 6) (leveled 0) = false ∧ levelOf (level1 0 6) = .launch ∧ handleTenant (level1 0 6) = 1 ∧ (leveled 0).task.wait = .none ∧
    ((leveled 0).levelWord (level1 0 7) 0).isSome = true ∧ (leveled 0).levelWord (level1 0 6) 0 = none := by decide +kernel

/-- The graph changed. -/
def graphed (n : Nat) (f : Graph → Graph) (l : List (Reg × Word) := []) (g : Task → Task := id) : State :=
  let s := leveled n l
  { s with graphs := s.graphs.map fun e => (e.1, f e.2), core := { s.core with task := g s.task } }

/-- R45, R55, R298: a KICK or CANCEL that comes in one cycle behind one of a higher core waits; a full queue makes a determinate KICK wait; a table with a fault raises its cause; and a CANCEL of a
graph that does not run drops its kicks and leaves its phase open. -/
theorem test_meets_KicksAndCancels :
    (let late := graphed 1 (fun g => { g with last := some (0, 9) }) [(1, level1 1 2), (2, 0x20008)]
     let idle := graphed 1 (fun g => { g with running := none, accepted := 1 }) [(1, level1 1 2)]
     (∀ i ∈ [Instr.kick 1 2, .cancel 1], after i late (fun t => t.task.wait == .stall && t.task.pc == 0x10000) = true) ∧
     ((late.graphOf 1 (level1 1 2)).map (·.2.last) = some (some (0, 9))) ∧
     after (.kick 1 2) (graphed 16 id [(1, level1 1 2), (2, 0x20008)] fun t => { t with determinate := true }) (fun t => t.task.wait == .stall && t.task.pc == 0x10000) = true ∧
     result (.kick 1 2) (graphed 16 id [(1, level1 1 2), (2, 0x20008)]) = some 1 ∧
     trapsWith (.kick 1 2) (leveled 0 [(1, level1 1 2), (2, 0x50000)]) { code := .pageFault, addr := 0x50000 } = true ∧
     caused (patchTable loadRecord 0x50000 (leveled 0)) { code := .pageFault, addr := 0x50000 } = true ∧
     levelOf (level1 1 2) = .graph ∧ bitsAt (level1 1 2).toNat 56 6 = 0 ∧ handleNum (level1 1 2) = 2 ∧ (∀ k ∈ List.replicate 1 ({ seq := 1, phase := 3, patches := [] } : Kick), k.phase = 3) ∧
     after (.cancel 1) idle (fun t => t.task.pc == 0x10004 && decide ((mapFind 2 t.graphs).map (fun g => (g.kicks, g.last)) = some ([], some (0, 0))) &&
       decide ((mapFind 3 t.phases).map (fun p => (p.started, p.pending, p.ended)) = some (true, 1, false))) = true) := by decide +kernel

/-- A QUEUED launch of 8 indices in the queue of level 1, served by dies 0 and 1. -/
def queued5 : Launch :=
  let v (r : Nat) : DieView := { rank := r, fenced := false, failed := false, beat := 0, heard := [(0, 0), (1, 0)], seen := [(0, 0), (1, 0)], acked := [(0, 0), (1, 0)] }
  { run5 with st := .queued, level := 1, nextIdx := 0, grants := [], dies := [v 0, v 1], deputy := some 1, upvec := 0x10040, stackBase := 0x30000, stackSize := 0x1000, paramOff := 8 }

/-- The core 0 with no task, and the launch as given. -/
def free (l : Launch) (t : Task := Task.empty) : State := { demoWith (fun _ => t) with launches := [(5, l)], graphs := (leveled 1).graphs, phases := (leveled 1).phases, now := 5000 }

/-- A launch whose token is at a core. -/
def token5 (at_ : Nat) (inRound : Bool) (marked : Bool := false) : Launch := { run5 with termdetect := true, token := some { at_ := at_, marked := marked, inRound := inRound, stayed := true } }

/-- R30, R31, R57, R59, R65, R388 and R400. -/
theorem test_dispatching : after (.tileGrant { tenant := 1, lid := 0 }) (free queued5) (fun t => decide ((t.launch? 5).map (fun l => (l.st, l.nextIdx, l.pending)) = some (.running, 1, [(0, 0)])) &&
      t.task.st == .none) = true ∧
    after (.deputyAck 5) (free { queued5 with st := .running, nextIdx := 1, pending := [(0, 0)] }) (fun t => decide ((t.launch? 5).map (·.pending) = some []) && t.task.st == .granted && t.rx 1 == 0x0000FFFFFFFF0000 &&
      t.rx 2 == 0x31000 && t.rx 3 == 0x30008 && t.task.pc == 0x10000 && t.task.upvec == 0x10040) = true ∧
    after (.bindingComplete { tenant := 1, lid := 0 }) (free run5 { task5 with st := .granted, drainFrom := 5000 - 1024 }) (fun t => t.task.st == .running) = true ∧
    after (.bindingComplete { tenant := 1, lid := 0 }) (free run5 { task5 with st := .granted, drainFrom := 5000 - 1023 }) (fun t => t.task.st == .granted) = true ∧
    after (.completionReport { tenant := 1, lid := 0 }) (free { run5 with st := .draining, graph := 9 } { task5 with st := .ended }) (fun t => t.task.reported && decide ((t.launch? 5).map (·.st) = some .ended)) = true ∧
    after (.aging 5) { free queued5 with now := 2 ^ 20 } (fun t => decide ((t.launch? 5).map (fun l => (l.level, l.order)) = some (2, 1))) = true ∧
    after (.startTimeout 5) { free { run5 with waitingPkgs := [1] } with time := micros 50 + 1 } (fun t => decide ((t.launch? 5).map (fun l => (l.st, l.status)) = some (.draining, 2))) = true ∧
    after (.startTimeout 5) { free { run5 with waitingPkgs := [1] } with time := micros 50 } (fun t => decide ((t.launch? 5).map (·.st) = some .running)) = true ∧
    after (.terminationToken 5) (free (token5 0 true)) (fun t => decide ((t.launch? 5).map (fun l => (l.finished, l.token)) = some (true, none))) = true ∧
    after (.terminationToken 5) (free (token5 0 true true)) (fun t => decide ((t.launch? 5).map (fun l => (l.finished, l.token.isSome)) = some (false, true))) = true ∧
    after (.replayStart 2) { free run5 with graphs := (leveled 1).graphs.map fun e => (e.1, { e.2 with running := none, nodes := [5] }) } (fun t =>
      decide ((t.launch? 5).map (fun l => (l.st, l.nextIdx, l.order)) = some (.queued, 0, 1))) = true := by decide +kernel

theorem test_meets_Dispatching : (free queued5).grantLevel = some 0 ∧ ((free queued5).offer 0).isSome = true ∧ queued5.next = some (0, false) ∧ queued5.farPkgs = [] ∧ run5.answered 0 = true ∧
    (demo).grantLevel = none ∧ ((free { run5 with grants := [], nextIdx := 0, deputy := none }).offer 0).isSome = true ∧ { queued5 with lostIdx := [3] }.next = some (3, true) ∧ queued5.up queued5.deputy = true ∧
    queued5.keystoneUp = true ∧ (free run5 { task5 with st := .granted }).myTurn = true ∧ demo.fenced = false ∧ run5.lostIdx = [] ∧
    (free { run5 with dies := run5.dies.map fun v => { v with fenced := true } } { task5 with st := .ended }).fenced = true ∧ queued5.healthy.any (fun q => q / 4 == 0) = true ∧ queued5.healthy.any (fun q => q / 4 == 2) = false ∧
    (termView (free (token5 3 true)) 5 (token5 3 true) 3).idle = false ∧
    (termView (free { token5 3 true with grants := [{ index := 3, lid := 3, rank := 0, done := true, lost := false }] }) 5 { token5 3 true with grants := [{ index := 3, lid := 3, rank := 0, done := true, lost := false }] } 3).idle = true ∧
    (termView (free (token5 0 true) { task5 with wait := .term 3 }) 5 (token5 0 true) 0) = { idle := true, sent := false, acked := true } ∧
    (let s : State := { free (token5 4 true) with
       others := [(coreKey { tenant := 1, lid := 4 }, coreOf 4 { task5 with st := .ended })]
       net := [.mcmd { tenant := 1, lid := 4 } { tenant := 1, lid := 0 } 0 1 0, .xline { tenant := 1, lid := 4 } { tenant := 1, lid := 0 } 0 [] 0 true] }
     termView s 5 (token5 4 true) 4 = { idle := true, sent := false, acked := false } ∧
     termView { s with net := s.net.tail } 5 (token5 4 true) 4 = { idle := true, sent := false, acked := true }) := by decide +kernel

/-- The service of package 0 has stopped for a switchover. -/
def stoppedService (s : State) : State := s.modPkg 0 fun p => { p with paused := some 0 }

/-- R298, R411: the answers wait while the service has stopped; a word that came while WAITL waited is the one it reads. -/
theorem test_meets_ServiceStops : Answering (leveled 0) ∧ (stoppedService demo).pausedHere = true ∧ ((stoppedService demo).pkg 0).held = [] ∧
    (∀ i ∈ [Instr.cancel 1, .waitl 1 2], after i (stoppedService (leveled 0 [(1, level1 0 6)])) (fun t => t.task.wait == .stall && t.task.pc == 0x10000 && (t.pkg 0).held == [.call t.core.id]) = true) ∧
    Wait.none.forLevel = false ∧
    (let s (seen : Option Word) : State := regs [(1, level1 0 6)] { leveled 0 with core := { demo.core with task := { task5 with wait := .level (level1 0 6) 0 seen } } }
     after (.waitl 1 2) (s (some 9)) (fun t => t.rx 2 == 9 && t.task.pc == 0x10004) = true ∧ after (.waitl 1 2) (stoppedService (s (some 9))) (fun t => t.task.pc == 0x10000) = true) := by decide +kernel

/-- Core 0 has been free since cycle 5, and core 4 since another. -/
def rival (freed : Nat) : State :=
  let s := free { queued5 with gx := 16, st := .running, taken := true, nextIdx := 8 }
  { s with core := { s.core with freed := 5 }, others := [(coreKey { tenant := 1, lid := 4 }, { coreOf 4 Task.empty with freed := freed })] }

/-- The QUEUED launch with a barrier, served by a die of another package too. -/
def spanning : Launch :=
  { queued5 with taken := false, lines := [(3, .barrier, 8)], dies := queued5.dies ++ [{ rank := 4, fenced := false, failed := false, beat := 0, heard := [], seen := [], acked := [] }] }

/-- R37, R57, R61, R389, R400: a core that became free earlier goes first; a launch whose dies span packages is taken by its first dispatcher, with its lines configured; with no deputy left a grant is bound at once. -/
theorem test_meets_Grants :
    (rival 4).firstFree = false ∧ (rival 5).firstFree = true ∧ (rival 6).firstFree = true ∧ after (.tileGrant { tenant := 1, lid := 0 }) (rival 4) (fun t => decide ((t.launch? 5).map (·.nextIdx) = some 8)) = true ∧
    spanning.farPkgs = [1] ∧ ((free { spanning with keystone := some 4 }).offer 0).isSome = true ∧ (free { spanning with keystone := some 4 }).firstFree = true ∧ { spanning with keystone := some 4 }.farPkgs = [0] ∧
    after (.tileGrant { tenant := 1, lid := 0 }) (free { spanning with keystone := some 4 }) (fun t => decide ((t.launch? 5).map (fun l => (l.st, l.taken, l.waitingPkgs)) = some (.queued, true, [0])) &&
      decide (t.net = [.start 5 0]) && decide ((t.evLine { tenant := 1, bench := 0 } 3).held = some 5) && (t.evLine { tenant := 1, bench := 1 } 3).arrivals == 8) = true ∧
    after (.deputyAck 5) (free { queued5 with st := .running, nextIdx := 1, pending := [(0, 0)], deputy := none }) (fun t => decide ((t.launch? 5).map (·.pending) = some []) && t.task.st == .granted) = true := by
  decide +kernel

/-- The task changed, beside a second core of the same place with a task that waits for its turn. -/
def beside (f : Task → Task) (time : Nat := 0) : State :=
  { demoWith f with others := [(coreKey { tenant := 1, lid := 4 }, { coreOf 4 { task5 with st := .suspended } with place := demo.core.place })], time := time }

/-- A record of a cause at the current task. -/
def record (c : Cause) : TrapRecord := { cause := c, body := false, nested := false, resume := 0x10000, lid := 0, asid := 7, pkg := 0, launch := 0, cycle := 0, came := 0 }

/-- R34, R379, R382 to R386 and R391. -/
theorem test_tasks_leave_and_return : trapsWith (.asyncCause { tenant := 1, lid := 0 }) (demoWith fun t => { t with asyncs := [{ code := .protect }] }) { code := .protect } = true ∧
    after (.pageNotice { tenant := 1, lid := 0 } 0x20000 0 0) (demoWith fun t => { t with requests := [0x20000] }) (fun t => t.task.notices == [0x8000000000020000] && t.task.requests.isEmpty) = true ∧
    after (.pageRefusal { tenant := 1, lid := 0 } 0x90000) (demoWith fun t => { t with requests := [0x90000] }) (fun t => t.task.notices == [0xC000000000090000] &&
      decide (t.task.asyncs = [{ code := .protect, sub := 10, addr := 0x90000 }])) = true ∧
    after (.tsliceExpiry { tenant := 1, lid := 0 }) (beside fun t => { t with slice := 4096 }) (fun t => decide (t.task.draining = some .suspended)) = true ∧
    after (.tsliceExpiry { tenant := 1, lid := 0 }) (demoWith fun t => { t with slice := 4096 }) (fun t => decide (t.task.draining = none ∧ t.task.slice = 0)) = true ∧
    after (.tsliceExpiry { tenant := 1, lid := 0 }) (demoWith fun t => { t with slice := 4095 }) (fun t => t.task.slice == 4095) = true ∧
    after (.contextSave { tenant := 1, lid := 0 }) (demoWith fun t => { t with draining := some .preempted }) (fun t => t.task.st == .none && t.core.saved.map (·.st) == [.preempted]) = true ∧
    after (.contextRestore { tenant := 1, lid := 0 }) (demoWith fun t => { t with st := .suspended }) (fun t => t.task.st == .running) = true ∧
    after (.trapEnd { tenant := 1, lid := 0 }) (demoWith fun t => { t with st := .faulted, trap := some (record { code := .shape }) }) (fun t => t.task.st == .ended &&
      decide ((t.launch? 5).map (fun l => (l.status, l.counter)) = some (3, 1))) = true ∧
    after (.trapResume { tenant := 1, lid := 0 } 0x10008 [(.x 3, 9)]) (demoWith fun t => { t with st := .faulted, trap := some (record { code := .shape }) }) (fun t => t.task.st == .running && t.rx 3 == 9 && t.task.pc == 0x10008) = true ∧
    after (.taskEndBySupervisor { tenant := 1, lid := 0 }) demo (fun t => t.task.st == .ended && decide ((t.launch? 5).map (fun l => (l.status, l.counter)) = some (0, 1))) = true := by decide +kernel

theorem test_meets_TasksLeaveAndReturn : Alone demo ∧ (demoWith fun t => { t with asyncs := [{ code := .protect }] }).asyncDue = true ∧ (demoWith fun t => { t with asyncs := [{ code := .protect }], st := .suspended }).asyncDue = false ∧
    demo.wantsPage 0x20000 = false ∧ demo.present 0x20000 = true ∧ demo.present 0x90000 = false ∧ demo.core.pushes = [] ∧ (∀ i : Fin 16, demo.ctx demo.bench i = none) ∧ demo.mayLeave = true ∧
    (demoWith fun t => { t with draining := some .suspended }).mayLeave = false ∧
    ((demoWith fun t => { t with ran := 16384 }).offer 1).isNone = true ∧
    (let s : State := { demoWith (fun t => { t with ran := 16384 }) with launches := [(5, run5), (6, queued5)] }
     (s.offer 1).isSome = true ∧ s.spareFor 1 = true) ∧
    (demoWith fun t => { t with draining := some .preempted }).settled = true ∧ (demoWith fun t => { t with wait := .remote }).settled = false ∧ (demoWith fun t => { t with st := .suspended }).myTurn = true ∧
    { demo with others := [(coreKey { tenant := 1, lid := 4 }, { coreOf 4 task5 with place := demo.core.place })] }.myTurn = false ∧ { task5 with st := .suspended }.ready = true ∧ task5.replay = [] ∧ task5.copies = [] ∧ task5.arrived = [] ∧
    (let s : State := { demoWith (fun _ => Task.empty) with core := { coreOf 0 Task.empty with saved := [{ task5 with st := .preempted }] } }
     s.myTurn = true ∧ s.fenced = false ∧ s.task.ready = false ∧ s.task.over = true ∧ s.promised = false ∧ s.noRival { task5 with st := .preempted } = true) ∧
    demo.faulted = none ∧ (∀ k, k ∈ demo.cores → samePlace demo.core k = true → k.task.occupies = false) ∧
    got (fetch demo) (fun r => r.2 == 0 && match decodeWord r.2 with | .error _ => true | _ => false) = true ∧ caused (fetch (demoWith fun t => { t with pc := 0x20000 })) { code := .protect, sub := 3, addr := 0x20000 } = true ∧
    (∃ i, decodeWord 0x09C0000A = .ok i) := by
  refine ⟨rfl, ?_⟩
  have h : ∃ i, decodeWord 0x09C0000A = .ok i := ⟨.addi 14 0 10, by decide +kernel⟩
  simp only [h, and_true]
  decide +kernel

theorem keyed_demo : demo.Keyed := keyed_of_entries rfl (fun e h => by cases h)

/-- A core with no task whose pre-empted or faulted task `u` was saved in an area that holds its memories. -/
def savedIn (st : TaskSt) : State :=
  { demo with
    core := { coreOf 0 Task.empty with saved := [{ task5 with st := st, area := some (0, 0x10000000), trap := if st = .faulted then some (record { code := .shape }) else none }] }
    mem := memStore (memStore (memStore [] (memKey 0 0x1002A005) [8]) (memKey 0 0x1001A00C) [4, 3, 2, 1]) (memKey 0 0x1000C002) [7] }

/-- R382 and R383: a task's memories stand in its area's image, and come back from the area; a faulted task that was saved is resumed; what TRAP_RESUME writes into the saved registers. -/
theorem test_meets_ContextAreas :
    (let full (t : Task) : Task := { t with area := some (0, 0x10000000), scratch := [(5, 9)], acc := [(3, 0x01020304)], slots := t.slots.set 1 { data := [(2, 7)] } }
     (full task5).image = [(0xC002, 7), (0x1A00C, 4), (0x1A00D, 3), (0x1A00E, 2), (0x1A00F, 1), (0x2A005, 9)] ∧ ((full task5).image.all fun e => decide (e.1 < 0x4A000)) = true ∧
     (∀ st ∈ [TaskSt.suspended, .preempted], (demoWith fun t => full { t with draining := some st }).settled = true) ∧ (demoWith fun t => full { t with st := .faulted }).settled = true ∧
     (regDoubles (regs [(2, 5)])).take 3 = [0, 5, 0] ∧ ({ task5 with area := some (0, 0x10000000) } : Task).area ∈ tenancy.areas.map some ∧
     after (.contextSave { tenant := 1, lid := 0 }) (demoWith fun t => { t with draining := some .suspended }) (fun t => t.task.st == .suspended && t.mem == []) = true ∧
     after (.contextSave { tenant := 1, lid := 0 }) (demoWith fun t => { t with st := .faulted }) (fun t => t.task.st == .none && t.core.saved.map (·.st) == [.faulted] && !t.core.vacated) = true ∧
     after (.contextRestore { tenant := 1, lid := 0 }) (savedIn .preempted) (fun t => t.task.st == .running && t.core.saved.isEmpty && t.task.scratch == [(5, 8)] && t.task.acc == [(3, 0x01020304)] &&
       t.task.slots[1].data == [(2, 7)]) = true ∧
     (savedIn .faulted).promised = false ∧ (savedIn .faulted).fencedFor 5 = false ∧ Answering (savedIn .faulted) ∧ (∀ k ∈ (savedIn .faulted).cores, samePlace (savedIn .faulted).core k = true → k.task.occupies = false) ∧
     after (.trapResume { tenant := 1, lid := 0 } 0x10008 [(.x 3, 9)]) (savedIn .faulted) (fun t => t.task.st == .running && t.rx 3 == 9 && t.task.pc == 0x10008 && t.task.scratch == [(5, 8)]) = true ∧
     (demoWith fun t => { t with st := .faulted, trap := some (record { code := .shape }) }).fenced = false ∧
     after (.trapResume { tenant := 1, lid := 0 } 0x10008 [(.v 3 1, 9), (.c 2, 5), (.k 0, 1), (.sys .upvec, 0x10043)]) (demoWith fun t => { t with st := .faulted, trap := some (record { code := .shape }) })
       (fun t => t.task.v[(3 : Reg)] == BitVec.ofNat 512 (9 * 2 ^ 64) && t.task.c[2] == 5 && t.task.k[0] == task5.k[0] && t.task.upvec == 0x10040) = true ∧
     after (.trapEnd { tenant := 1, lid := 0 }) (stoppedService (demoWith fun t => { t with st := .faulted, trap := some (record { code := .shape }) })) (fun t => t.task.st == .faulted) = true) := by decide +kernel

/-- With no line listed the service has every token. -/
theorem has_empty {s : State} (h : s.lines = []) (p : Nat) (l : Line) : s.serviceHas p l = true := by
  simp [State.serviceHas, State.line, State.leaseOf, State.waiting, State.stale, mapGet, mapFind, h]

/-- A graph of launch 5 alone whose replay may start; dies that have failed; no line listed. -/
def starting (dead : List Nat) : State :=
  { free run5 with graphs := (leveled 1).graphs.map (fun e => (e.1, { e.2 with running := none, nodes := [5] })), failed := dead, lines := [] }

/-- R34, R44, R60, R348, R384: the premise on the lines that the service writes, beside the others: a replay starts, or ends at once where every die of the launch has failed; a context is saved. -/
theorem test_meets_ServiceLines : (∀ l : Line, (starting []).serviceHas ((starting []).servicePkg 1) l = true) ∧ (∀ l : Line, (starting [0]).serviceHas ((starting [0]).servicePkg 1) l = true) ∧
    (∀ l : Line, { demoWith fun t => { t with draining := some .suspended, area := some (0, 0x10000000) } with lines := [] }.serviceHas 0 l = true) ∧
    (starting [0]).serving run5 = [0] ∧ (∃ r ∈ (starting []).serving run5, r ∉ (starting []).failed) ∧ (∀ r ∈ (starting [0]).serving run5, r ∈ (starting [0]).failed) ∧ run5.preds = [] ∧ (starting []).moving = [] ∧
    after (.replayStart 2) (starting []) (fun t => decide ((t.launch? 5).map (·.st) = some .queued) && decide ((mapFind 2 t.graphs).map (fun g => g.running.isSome) = some true)) = true ∧
    after (.replayStart 2) (starting [0]) (fun t => decide ((t.launch? 5).map (fun l => (l.st, l.status)) = some (.ended, 2)) &&
      decide ((mapFind 2 t.graphs).map (fun g => (g.running.isSome, g.counter, g.status)) = some (false, 1, 2))) = true ∧
    after (.replayStart 2) { starting [] with moving := [(0, 0x200000, 0x10000)] } (fun t => decide ((t.launch? 5).map (·.st) = some .running)) = true :=
  ⟨has_empty rfl _, has_empty rfl _, has_empty rfl _, by decide +kernel⟩

/-- R44, R382, R401: what the supervisor's answers to a faulted task and to a running one, and the causes of a word that cannot be issued, start from; a trap that is due stops the quantum. -/
theorem test_meets_SupervisorAnswers :
    (let s := demoWith fun t => { t with st := .faulted, trap := some (record { code := .shape }) }
     Alone s ∧ Answering s ∧ Answering demo ∧ demo.faulted = none ∧ (stoppedService s).pausedHere = true ∧ (s.launch? s.task.launch).isSome = true ∧ (∀ k ∈ s.cores, samePlace s.core k = true → k.task.occupies = false) ∧
     s.core.saved = [] ∧ s.task.arrived = [] ∧ (s.task.trap.map (·.body)) = some false ∧ s.others = [] ∧ s.task.fusing = 0 ∧ (∀ d : Reg, demo.task.wait ≠ .term d) ∧
     after .illegalInstruction demo (fun t => t.task.st == .faulted) = true ∧ after .fetchFault (demoWith fun t => { t with pc := 0x20000 }) (fun t => t.task.st == .faulted) = true ∧
     (let u := demoWith fun t => { t with ran := 16384, asyncs := [{ code := .protect }] }
      u.asyncTraps = true ∧ after (.quantumExpiry { tenant := 1, lid := 0 }) u (fun t => t.task.ran == 16384 && t.task.draining.isNone) = true)) := by decide +kernel

/-- Launch 5 in the hands of dies 0 and 1, which last heard from one another at cycle 0. -/
def twoDies (f : Launch → Launch := id) (time : Nat := 0) (net : List Msg := []) : State :=
  { demo with launches := [(5, f { queued5 with st := .running, grants := run5.grants, nextIdx := 1 })], time := time, net := net }

/-- The view of a die of launch 5 after the instruction. -/
def viewed (i : Instr) (s : State) (r : Nat) (p : DieView → Bool) : Bool := after i s fun t => (((t.launch? 5).bind fun l => l.view r).map p).getD false

/-- R58, R60, R61 and R62. -/
theorem test_dies_that_fail : after (.heartbeatTimer 5 0 0) (twoDies id (micros 1)) (fun t => decide (t.net = [.heartbeat 5 0 1 [1]])) = true ∧
    after (.heartbeatTimer 5 0 0) (twoDies id (micros 1 - 1)) (fun t => t.net.isEmpty) = true ∧
    viewed (.heartbeat 0) (twoDies id 9 [.heartbeat 5 1 0 [2]]) 0 (fun v => mapFind 1 v.heard == some 9 && mapFind 2 v.seen == some 9) = true ∧
    viewed (.heartbeatAck 0) (twoDies id 9 [.heartbeatAck 5 1 0]) 0 (fun v => mapFind 1 v.acked == some 9) = true ∧
    viewed (.fenceTimeout 5 0 1) (twoDies id (micros 8)) 1 (fun v => !v.fenced) = true ∧ viewed (.fenceTimeout 5 0 1) (twoDies id (micros 8 + 1)) 1 (·.fenced) = true ∧
    after (.dieFailed 0 0) (twoDies id (micros 10)) (fun t => t.failed == [0] && t.task.st == .lost && decide ((t.launch? 5).map (fun l => (l.st, l.keystone, l.deputy, l.lostIdx)) =
      some (.running, some 1, none, [0]))) = true ∧
    after (.dieFailed 0 0) (twoDies id (micros 10 - 1)) (fun t => t.failed.isEmpty) = true ∧
    after (.benchReplacement 5 0 { pkg := 0, die := 1, bench := 2 }) { twoDies (fun l => { l with determinate := true }) with
      failed := [0], tenants := [(1, { tenancy with rects := [(0, { col := 0, row := 0, cols := 32, rows := 4 })] })] }
      (fun t => t.core.place.unit == 1 && t.core.place.bench == 2 && decide (mapFind 0 (t.tenant 1).places = some { pkg := 0, die := 1, bench := 2 })) = true ∧
    after (.benchReplacement 5 0 { pkg := 0, die := 1, bench := 2 }) { twoDies (fun l => { l with determinate := true }) with failed := [0] }
      (fun t => decide ((t.launch? 5).map (fun l => (l.st, l.status)) = some (.draining, 2))) = true := by decide +kernel

theorem test_meets_DiesThatFail : ((twoDies).launch? 5).any (fun l => l.live && (l.view 0).any (fun v => !v.failed && !v.fenced && (l.active 0 v) && !l.active (micros 8 + 1) { v with rank := 1 }) && l.healthy.contains 1
      && l.silent (micros 10) 0 && !l.silent 0 0 && l.pending.isEmpty && !l.stopped && !l.noreissue && decide (l.deputy = some 1) && decide (l.keystone = some 0)) = true ∧ dieRank 0 0 = 0 ∧
    (twoDies).dieCores 0 = [(twoDies).core.id] ∧ (twoDies).core.saved = [] ∧ (twoDies).task.st = .running ∧
    (let s : State := { twoDies (fun l => { l with determinate := true }) with failed := [0], tenants := [(1, { tenancy with rects := [(0, { col := 0, row := 0, cols := 32, rows := 4 })] })] }
     mapFind 0 (s.tenant 1).places = some { pkg := 0, die := 0, bench := 0 } ∧ s.failed.contains (dieRank 0 0) = true ∧ benchOf 4 0 = 0 ∧ replaceOk s queued5 0 { pkg := 0, die := 1, bench := 2 } = true ∧
       replaceOk s queued5 0 { pkg := 0, die := 2, bench := 2 } = false ∧ (tenantBenches (s.tenant 1)).any (replaceOk s queued5 0) = true ∧ 2 ≤ (s.tenant 1).wl ∧
       (s.findCore { tenant := 1, lid := lidAt 4 0 0 }).isSome = true) ∧
    (let s : State := { twoDies (fun l => { l with determinate := true }) with failed := [0] }
     (tenantBenches (s.tenant 1)).any (replaceOk s queued5 0) = false ∧ replaceOk s queued5 0 { pkg := 0, die := 1, bench := 2 } = false) := by decide +kernel

theorem keyed_twoDies : (twoDies).Keyed := keyed_of_entries rfl (fun e h => by cases h)

/-- The line 0x8000 in a state of its own, a message for it, and two packages' holders. -/
def moved (x : LineState) (net : List Msg) (as : List Attempt := []) (q : List PersReq := []) (now : Nat := 0) : State :=
  { demo with
    lines := [(0x8000, x)], net := net, attempts := as, now := now
    arbiters := if q.isEmpty then [] else [(demo.arbiterOf (lineOf 0 0x200000), q)] }

/-- The line of PA 0x200000 on package 0. -/
def line8 : Line := lineOf 0 0x200000

/-- What the line is, and the messages, after the instruction. -/
def moves (i : Instr) (s : State) (p : LineState → List Msg → Bool) : Bool := after i s fun t => p (t.line line8) t.net

/-- The current core holds a lease of the line. -/
def leased8 (net : List Msg) : State :=
  { moved { ours with lease := some demo.core.id } net with now := 1, core := { demo.core with task := { task5 with lease := some (line8, 9) } } }

/-- An attempt of die 0 to write the line, since cycle 0. -/
def attempt0 (fails : Nat) (persistent : Bool := false) (retry : Option Nat := none) : Attempt :=
  { pkg := 0, die := 0, line := line8, write := true, since := 0, fails := fails, persistent := persistent, retryAt := retry }

/-- R349 to R355. -/
theorem test_tokens : moves (.transientRead 0) (moved ours [.transient line8 0 1 false (.die 0 0)]) (fun x n => (x.at_ (.die 0 0)).count == 15 &&
      decide (n = [.tokens line8 (.die 0 0) (.die 0 1) 1 false false true 0 none])) = true ∧
    moves (.transientWrite 0) (moved ours [.transient line8 0 1 true (.die 0 0)]) (fun x n => (x.at_ (.die 0 0)).count == 0 &&
      decide (n = [.tokens line8 (.die 0 0) (.die 0 1) 16 true false true 0 none])) = true ∧
    moves (.transientWrite 0) (leased8 [.transient line8 0 1 true (.die 0 0)]) (fun x n => (x.at_ (.die 0 0)).count == 16 && n.length == 1) = true ∧
    moves (.tokenMessage 0) (moved {} [.tokens line8 .home (.die 0 0) 1 false false true 0 none]) (fun _ n => decide (n = [.tokens line8 (.die 0 0) .home 1 false false true 0 none])) = true ∧
    after (.tokenMessage 0) (moved { homeCount := 0, homeOwner := false } [.tokens line8 .home (.die 0 0) 16 true false true 0 none] [attempt0 0]) (fun t => ((t.line line8).at_ (.die 0 0)).count == 16 && t.attempts.isEmpty) = true ∧
    moves (.tokenMessage 0) (moved {} [.tokens line8 .home (.die 0 0) 1 false false true 1 none]) (fun _ n => n.isEmpty) = true ∧
    after (.attemptTimeout 0 0 line8) (moved {} [] [attempt0 1] [] 2048) (fun t => decide (t.net = [.persistent line8 0 0]) && t.attempts.all (·.persistent)) = true ∧
    after (.attemptTimeout 0 0 line8) (moved {} [] [attempt0 0] [] 2048) (fun t => t.net.contains (.transient line8 0 0 true .home) && !t.net.contains (.transient line8 0 0 true (.die 0 0))) = true ∧
    after (.attemptTimeout 0 0 line8) (moved {} [] [attempt0 1] [] 2047) (fun t => t.net.isEmpty) = true ∧
    after (.persistentRequest 0) (moved {} [.persistent line8 0 0] [attempt0 2 true]) (fun t => decide ((t.line line8).active = some (.die 0 0)) && t.net.contains (.active line8 0 0 .home)) = true ∧
    after (.persistentRequest 0) (moved {} [.persistent line8 0 0] [attempt0 2 true] (List.replicate 32 { pkg := 0, die := 1, line := line8, came := 0, active := false })) (fun t => t.attempts.all (fun a => a.retryAt == some 256)) = true ∧
    after (.persistentRetry 0 0 line8) (moved {} [] [attempt0 2 true (some 256)] [] 256) (fun t => decide (t.net = [.persistent line8 0 0])) = true ∧
    moves (.active 0) (moved { active := some (.die 0 0) } [.active line8 0 0 .home]) (fun x n => x.homeCount == 0 && decide (n = [.tokens line8 .home (.die 0 0) 16 true false true 0 none])) = true ∧
    moves (.active 0) (moved { ours with active := some (.die 0 0) } [.active line8 0 0 (.die 0 0)]) (fun x n => x.told == [.die 0 0] && decide (n = [.done line8 0 0])) = true ∧
    after (.done 0) (moved { ours with active := some (.die 0 0) } [.done line8 0 0]) (fun t => t.net.contains (.inactive line8 .home) && !t.net.contains (.done line8 0 0)) = true ∧
    after (.inactive 0) (moved { ours with active := some (.die 0 0), told := [.home] } [.inactive line8 .home] [] [{ pkg := 0, die := 0, line := line8, came := 0, active := true }])
      (fun t => (t.line line8).active.isNone && (t.arbiter (demo.arbiterOf line8)).isEmpty) = true ∧
    after (.linkDown (linkOf (holderNode line8 .home) (holderNode line8 (.die 0 1)))) (moved {} [.tokens line8 .home (.die 0 1) 2 false false true 0 none]) (fun t => decide (t.net = [.lossLog line8 0 2 false false])) = true ∧
    moves (.lossLogEntry 0) (moved ours [.lossLog line8 0 2 true false]) (fun x n => x.gen == 1 && x.lostClean && n.contains (.collect line8 1 .home)) = true ∧
    moves (.collect 0) (moved { ours with gen := 1, collecting := some [.die 0 0, .home] } [.collect line8 1 (.die 0 0)]) (fun x _ => decide (x.collecting = some [.home]) && x.ownerBack && (x.at_ (.die 0 0)).count == 0) = true ∧
    moves (.lineRecreation line8) (moved { gen := 1, homeCount := 0, homeOwner := false, collecting := some [] } []) (fun x _ => x.homeCount == 16 && x.poison) = true ∧
    moves (.lineRecreation line8) (moved { gen := 1, homeCount := 0, homeOwner := false, collecting := some [], ownerBack := true } []) (fun x _ => x.homeCount == 16 && !x.poison) = true := by decide +kernel

theorem test_meets_TokensTravel : demo.gone (.die 0 0) = false ∧ { demo with failed := [0] }.gone (.die 0 0) = true ∧ (leased8 []).heldFast line8 (.die 0 0) = true ∧
    (moved ours []).heldFast line8 (.die 0 0) = false ∧ (ours.at_ (.die 0 0)).owner = true ∧ (ours.at_ .home).owner = false ∧ (ours.at_ (.die 0 0)).count = 16 ∧ (ours.at_ .home).count = 0 ∧
    ({ ours with others := [{ holder := .die 0 0, count := 1, owner := true, data := true, stamp := none }] }.at_ (.die 0 0)).count = 1 ∧ ours.takes (.die 0 0) 0 = true ∧ ours.takes (.die 0 0) 1 = false ∧
    (moved {} [] [attempt0 0]).attempt 0 0 line8 = some (attempt0 0) ∧ (moved {} []).attempt 0 0 line8 = none ∧ (attempt0 0).satisfied (({} : LineState).at_ (.die 0 0)) = false ∧
    (attempt0 0).satisfied (ours.at_ (.die 0 0)) = true ∧ { ours with told := [.home] }.told.contains .home = true ∧ demo.arbiter (demo.arbiterOf line8) = [] ∧ ours.active = none ∧ ours.collecting = none ∧
    ((moved {} [] [] (List.replicate 32 { pkg := 0, die := 1, line := line8, came := 0, active := false })).arbiter (demo.arbiterOf line8)).length = 32 ∧ demo.dieWaits 0 0 line8 = false ∧
    (demoWith fun t => { t with wait := .home line8 (.die 0 0) true }).dieWaits 0 0 line8 = true ∧ Msg.activates line8 (.active line8 0 0 .home) = true ∧ Msg.inactivates line8 (.inactive line8 .home) = true ∧ Holder.home ∈ demo.holders := by decide +kernel

/-- R2, R7, R347, R354, R355: which numbers are links, a route that crosses one, and a copy that leaves the die's L2 with its tokens; a page that moves has its migration agent among the holders. -/
theorem test_meets_Routes : linkIs (linkOf (dieNode 0 0) (dieNode 0 1)) = true ∧ linkIs (linkOf (dieNode 0 0) (dieNode 0 3)) = false ∧ linkIs (extLink 0 1 line8.idx) = true ∧
    linkIs (linkOf (dieNode 0 0) (dieNode 1 0)) = false ∧ routeCrosses (extLink 0 1 line8.idx) line8 (dieNode 0 2) (dieNode 1 3) = true ∧ extLink 0 1 0 ≠ extLink 0 1 1 ∧
    routeCrosses (extLink 0 1 line8.idx) line8 (dieNode 0 2) (dieNode 0 3) = false ∧ routeCrosses (extLink 0 1 (line8.idx + 1)) line8 (dieNode 0 2) (dieNode 1 3) = false ∧ (0 : Nat) ≠ 1 ∧
    after (.linkDown (extLink 0 1 line8.idx)) (moved {} [.tokens line8 .home (.die 1 1) 2 false false true 0 none]) (fun t => decide (t.net = [.lossLog line8 0 2 false false])) = true ∧
    after (.linkDown (extLink 0 1 (line8.idx + 1))) (moved {} [.tokens line8 .home (.die 1 1) 2 false false true 0 none]) (fun t => t.downLinks.length == 1 && t.net.length == 1) = true ∧
    -- an attempt of the memory home itself, for a write of the service
    (let a : Attempt := { attempt0 0 with die := 5 }
     (moved { ours with gen := 3 } [] [a]).attempt 0 5 line8 = some a ∧ a.satisfied (({ homeCount := 12, homeOwner := true } : LineState).join .home 4 false false none |>.at_ .home) = true ∧
     after (.tokenMessage 0) (moved { homeCount := 12, homeOwner := true } [.tokens line8 (.die 0 1) .home 4 false false true 0 none] [a]) (fun t => (t.line line8).homeCount == 16 && t.attempts.isEmpty) = true ∧
     after (.tokenMessage 0) (moved { homeCount := 11, homeOwner := true } [.tokens line8 (.die 0 1) .home 4 false false true 0 none] [a]) (fun t => (t.line line8).homeCount == 15 && t.attempts.length == 1) = true ∧
     after (.attemptTimeout 0 5 line8) (moved {} [] [a] [] 2048) (fun t => !t.net.contains (.transient line8 0 5 true .home) && t.net.contains (.transient line8 0 5 true (.die 0 0))) = true) ∧
    -- tokens that leave a die which COLLECT has not reached keep the generation from before
    moves (.active 0) (moved { ours with gen := 1, active := some (.die 0 1), collecting := some [.die 0 0] } [.active line8 0 1 (.die 0 0)]) (fun x n => (x.at_ (.die 0 0)).count == 0 &&
      decide (n = [.tokens line8 (.die 0 0) (.die 0 1) 16 true false true 0 none])) = true ∧
    after (.linkDown (linkOf (dieNode 0 0) (dieNode 0 3))) demo (fun t => t.downLinks.isEmpty) = true ∧
    (let s : State := { moved ours [.transient line8 0 1 true (.die 0 0)] with l2 := [(l2Key 0 0 line8, [{ line := line8, sticky := false }])] }
     after (.transientWrite 0) s (fun t => t.l2.isEmpty && t.net.length == 1) = true) ∧
    (let s : State := { moved { gen := 1, homeCount := 0, homeOwner := false, others := ours.others, collecting := some [.die 0 0] } [.collect line8 1 (.die 0 0)] with
        l2 := [(l2Key 0 0 line8, [{ line := line8, sticky := false }])] }
     after (.collect 0) s (fun t => t.l2.isEmpty && (t.line line8).ownerBack) = true) := by decide +kernel

/-- R58, R61: a die that is silent for one of its launches has failed for that one alone; a determinate launch that knows so may replace a bench there. -/
theorem test_meets_OneLaunchOfTwo :
    (let q (t : Nat) : Launch := { queued5 with dies := queued5.dies.map fun v => { v with heard := [(0, t), (1, t)], acked := [(0, t), (1, t)], seen := [(0, t), (1, t)] } }
     let s : State := { demo with launches := [(5, q 0), (6, q (micros 10))], time := micros 10 }
     let known := { q 0 with determinate := true, dies := (q 0).dies.map fun v => { v with failed := v.rank == 0 } }
     let u : State := { demo with launches := [(5, known)], time := 0, tenants := [(1, { tenancy with rects := [(0, { col := 0, row := 0, cols := 32, rows := 4 })] })] }
     (q (micros 10)).servedBy 0 = true ∧ (q (micros 10)).silent s.time 0 = false ∧ (q 0).silent s.time 0 = true ∧ (∃ r ∈ (q 0).healthy, r ≠ 0) ∧
     after (.dieFailed 0 0) s (fun t => t.failed.isEmpty && decide ((t.launch? 5).map (fun l => (l.view 0).map (·.failed)) = some (some true)) &&
       decide ((t.launch? 6).map (fun l => (l.view 0).map (·.failed)) = some (some false))) = true ∧
     after (.dieFailed 0 4) { s with launches := [(5, q 0)] } (fun t => t.failed.isEmpty) = true ∧
     known.knowsFailed 0 = true ∧ u.failed = [] ∧ replaceOk u known 0 { pkg := 0, die := 1, bench := 2 } = true ∧
     after (.benchReplacement 5 0 { pkg := 0, die := 1, bench := 2 }) u (fun t => decide (mapFind 0 (t.tenant 1).places = some { pkg := 0, die := 1, bench := 2 })) = true) := by decide +kernel

/-- R57, R354, R411: a QUEUED launch that loses a die stays QUEUED; a die's failure recreates the lines that had tokens away from home; a bench is not replaced while the service has stopped. -/
theorem test_meets_LostDies :
    (let q := twoDies (fun l => { l with st := .queued, grants := [], nextIdx := 0 }) (micros 10)
     after (.dieFailed 0 0) q (fun t => decide ((t.launch? 5).map (fun l => (l.st, l.status)) = some (.queued, 0))) = true ∧ (q.launch? 5).any (fun l => l.live && l.silent (micros 10) 0) = true ∧
     after (.dieFailed 0 0) (twoDies id (micros 10)) (fun t => (t.line line8).collecting.isSome && (t.line line8).gen == 1) = true ∧ line8.idx < 2 ^ 46 ∧
     ((twoDies id (micros 10)).line line8).homeCount ≠ 16 ∧ ((twoDies id (micros 10)).line line8).collecting = none ∧
     (stoppedService (twoDies)).paused 0 = true ∧ [0, 1].Pairwise (· < ·)) := by decide +kernel

/-- The entry of VA 0x70000 in `walked`, which is under migration from frame 0x500000, and the memory of that frame. -/
def moving7 : State := { walked with moving := [(0, 0x500000, 0x10000)], lines := [], mem := memStore walked.mem 0x500008 [5] }

/-- The tables of `walked` with a READDUP page at VA 0x60000, and a task that has trapped on a write to it. -/
def duplicated (kind : Nat) : State :=
  let r : TrapRecord := { record { code := .protect, sub := 8, addr := 0x60010 } with resume := 0x10000 }
  { walked with
    mem := memStore walked.mem 0xB030 (leBytes 8 (2 ^ 63 + kind * 2 ^ 60 + 2 ^ 58 + (if kind = 2 then 2 ^ 56 else 0) + 0x500000)), traps := [demo.core.id]
    core := { walked.core with task := { task5 with st := .faulted, trap := some r } } }

/-- The leaf at 0x60000 of `walked` with another frame. -/
def frame7 : Nat := 2 ^ 63 + 2 * 2 ^ 60 + 2 ^ 58 + 2 ^ 56 + 0x700000

/-- R334, R341 and R365. -/
theorem test_pages_change : after (.l1LineTimeout { tenant := 1, lid := 0 } 9) { demo with core := { demo.core with l1 := [(9, [{ tag := 9, asid := 7, size := 0x10000, sticky := false, line := line8, bytes := [], priv := true, filled := 0 }])] }, now := 2048 }
      (fun t => t.core.l1.all (·.2.isEmpty)) = true ∧
    after (.l1LineTimeout { tenant := 1, lid := 0 } 9) { demo with core := { demo.core with l1 := [(9, [{ tag := 9, asid := 7, size := 0x10000, sticky := false, line := line8, bytes := [], priv := true, filled := 0 }])] }, now := 2047 }
      (fun t => t.core.l1.any fun e => !e.2.isEmpty) = true ∧
    after (.migRewalk { tenant := 1, lid := 0 }) { demoWith (fun t => { t with wait := .mig 5 }) with now := 1029 } (fun t => t.task.wait == .none) = true ∧
    after (.pageMigration 1 0x60000 (BitVec.ofNat 64 frame7) 0) walked (fun t => t.physD 0 0xB030 == 2 ^ 63 + 2 * 2 ^ 60 + 2 ^ 58 + 2 ^ 56 + 2 ^ 53 + 0x500000 && t.moving == [(0, 0x500000, 0x10000)]) = true ∧
    (fun t : State => t.physD 0 0xB038 == frame7 && t.moving.isEmpty && t.readPhys 0 0x700008 1 == [5]) (endMigration 1 7 0x70000 { sharedLeaf with addr := 0x500000 } { sharedLeaf with addr := 0x700000 } 0 moving7) = true ∧
    after (.collapse 0x100000) (duplicated 5) (fun t => t.physD 0 0xB030 == 2 ^ 63 + 2 * 2 ^ 60 + 2 ^ 58 + 2 ^ 56 + 0x500000 && t.traps.isEmpty && t.task.st == .running) = true ∧
    after (.collapse 0x100000) (duplicated 2) (fun t => t.traps.isEmpty && t.task.st == .running && t.task.pc == 0x10000) = true := by decide +kernel

theorem test_meets_PagesChange : Alone walked ∧ (demoWith fun t => { t with wait := .mig 5 }).task.wait = .mig 5 ∧ (walked.leafAt (walked.servicePkg 1) (walked.tenant 1).asid 0x60000).any (fun a => a.level == 3 && !a.mig && a.leaf.kind == .shared &&
      (match entryAt 3 frame7 with | .leaf l m => !m && l.kind == .shared && frameOk walked l && l.addr != a.leaf.addr && l.x == a.leaf.x && l.w == a.leaf.w | _ => false)) = true ∧
    walked.packages = [0] ∧ walked.servicePkg 1 = 0 ∧ (moving7.leafAt 0 7 0x70000).any (fun a => a.mig && moving7.moving.contains (a.leaf.pkg, a.leaf.addr, a.leaf.size) &&
      decide (((copyFrame 0 0x500000 0 0x700000 65536 (dropWays 0 0x500000 65536 moving7)).leafAt 0 7 0x70000) = some a)) = true ∧ moving7.lines = [] ∧ Memory.wf moving7.mem = true ∧
    demo.traps = [] ∧ (duplicated 5).traps = [(duplicated 5).core.id] ∧ (duplicated 5).task.st = .faulted ∧ (duplicated 5).task.trap.any (fun r => r.cause.code == .protect && r.cause.sub == 8 && !r.body &&
      pAddr r.cause.addr / 65536 * 65536 == 0x60000 && r.pkg == 0 && r.asid == 7) = true ∧ ((duplicated 5).leafAt 0 7 0x60000).any (fun a => !a.mig && a.leaf.kind == .readdup && a.level == 3) = true ∧
    ((duplicated 2).leafAt 0 7 0x60000).any (fun a => a.leaf.kind == .shared) = true ∧ (duplicated 5).fenced = false ∧ (duplicated 5).core.saved = [] ∧ (duplicated 5).task.replay = [] ∧
    (∀ k, k ∈ (duplicated 5).cores → samePlace (duplicated 5).core k = true → k.task.occupies = false) := by decide +kernel

/-- A store of two bytes that waits at the line 0x8000. -/
def waiting8 (x : LineState) (d : List Byte := [1, 2]) (behind : Bool := false) : State :=
  { demo with lines := [(0x8000, { x with queue := [{ who := demo.core.id, home := .die 0 0, offset := 8, ptr := 0x20008, size := 0x10000, op := .store { bytes := d }, hint := .dflt, came := 0, behind := behind }] })] }

/-- A load of core 9's window that waits at its owner. -/
def remote9 (store : Option (List Byte)) : State :=
  { windowed with
    core := { windowed.core with task := { windowed.core.task with wait := .remote } }
    net := [.remote windowed.core.id 9 (ptr 0 0 0 2 (9 * 2 ^ 17 + 0x108)) 4 store (.zx 1) false] }

/-- A load of key 1 at time 15 that waits: in the table, or in backoff. -/
def waitsKey (inTable : Bool) (k : Key) : State := let s := strata k 15
  { s with core := { s.core with task := { s.task with wait := .strata { rid := 9, k := 1 } 15 5 6 inTable 0 0 } }, net := [.release s.core.id { rid := 9, k := 1 } 15] }

/-- Line 3 as the parent of a span of two children and no arrivals, one child counted, with a message of the other. -/
def span3 (l : EvLine) : State := { line3 l with
  net := [.spanArrive { tenant := 1, bench := 2 } 4 { tenant := 1, bench := 0 } 3 [], .spanFire { tenant := 1, bench := 0 } 3 (some 5) 77 2] }

/-- R86, R216, R310, R332 and R356. -/
theorem test_what_waits : after (.mergeStep line8) (waiting8 ours) (fun t => t.readPhys 0 0x200008 2 == [1, 2] && (t.line line8).queue.isEmpty) = true ∧
    after (.mergeStep line8) (waiting8 { ours with poison := true }) (fun t => t.readPhys 0 0x200008 2 == [0, 0] && decide (t.task.held = [{ code := .memUe, addr := 0x20008, async := true }])) = true ∧
    after (.mergeStep line8) (waiting8 { ours with pins := [({ who := demo.core.id, seq := 0 }, .die 0 0)] } [1, 2] true) (fun t => !(t.line line8).queue.isEmpty) = true ∧
    after (.remoteScratchpadAccess 0) (remote9 none) (fun t => t.net.isEmpty && t.task.wait == .none && t.task.pc == 0x10004) = true ∧
    after (.remoteScratchpadAccess 0) (remote9 (some [9, 8])) (fun t => (t.findCore { tenant := 1, lid := 9 }).any fun k => spRead k.task 0 0x108 2 == [9, 8]) = true ∧
    after (.causalityRelease 0) (waitsKey true (key1 (.core 4))) (fun t => t.rx 6 == 3 && vlane .f32 t.task.v[(5 : Reg)] 0 == 0x40000000 && t.net.isEmpty) = true ∧
    trapsWith (.causalityRelease 0) (waitsKey true { key1 (.core 4) with count := 0 }) { code := .strataAhead, sub := 3, addr := 0x40100 } = true ∧
    after (.strataBackoff { tenant := 1, lid := 0 }) (waitsKey false (key1 (.core 4))) (fun t => t.rx 6 == 1 && vlane .f32 t.task.v[(5 : Reg)] 0 == 0x40000000) = true ∧
    trapsWith (.strataBackoff { tenant := 1, lid := 0 }) (waitsKey false (key1 (.core 4) .retiring)) { code := .protect, sub := 4, addr := 0x40100 } = true ∧
    trapsWith (.regionRelease 9) (waitsKey true (key1 (.core 4))) { code := .strataAhead, sub := 2, addr := 0x40100 } = true ∧
    after (.regionRelease 9) (strata (key1 (.core 4)) 15) (fun t => (mapFind 9 t.regions).any (·.released)) = true ∧
    after (.spanArrivalMessage 0) (span3 { kind := .span, root := true, children := 2, childCount := 1, counted := [({ tenant := 1, bench := 1 }, 4)] }) (fun t => (t.evLine t.bench 3).round == 1 && (t.evLine t.bench 3).childCount == 0 && t.net.length == 3) = true ∧
    after (.spanArrivalMessage 0) (span3 { kind := .span, children := 2, childCount := 1, counted := [({ tenant := 1, bench := 1 }, 4)] }) (fun t => (t.evLine t.bench 3).complete && t.net.length == 2) = true ∧
    after (.spanFireMessage 1) (span3 { kind := .span, children := 1, childCount := 1, complete := true, counted := [({ tenant := 1, bench := 1 }, 4)] }) (fun t => (t.evLine t.bench 3).round == 1 &&
      t.net.contains (.spanFire { tenant := 1, bench := 1 } 4 (some 5) 77 2)) = true := by decide +kernel

theorem test_meets_WhatWaitsIsDone : Alone demo ∧ demo.task.rep.running = false ∧ demo.waiting line8 = [] ∧ ((waiting8 ours).waiting line8).length = 1 ∧ ((waiting8 ours).line line8).lease = none ∧
    (((waiting8 ours).line line8).gatherWrite (.die 0 0)).isSome = true ∧ ((waiting8 { ours with poison := true }).line line8).poison = true ∧ (remote9 none).task.wait = .remote ∧
    got (remoteCheck { remote9 none with net := [] } (ptr 0 0 0 2 (9 * 2 ^ 17 + 0x108)) 9 0x108 4 false) (fun k => k.id == { tenant := 1, lid := 9 } && decide (k.task.wait = .none)) = true ∧
    caused (remoteCheck { remote9 none with net := [] } (ptr 0 0 0 2 (8 * 2 ^ 17 + 0x108)) 8 0x108 4 false) { code := .windowNack, addr := ptr 0 0 0 2 (8 * 2 ^ 17 + 0x108), party := 8 } = true ∧
    ((waitsKey true (key1 (.core 4))).keyAt { rid := 9, k := 1 }).isSome = true ∧ (waitsKey true (key1 (.core 4))).task.determinate = false ∧ (key1 (.core 4)).count ≠ 0 ∧
    ((region (key1 (.core 4))).resolve (key1 (.core 4)) 15 false matches .value 1 _) = true ∧ (strata (key1 (.core 4)) 15).streams = [] ∧ (strata (key1 (.core 4)) 15).others = [] ∧
    (span3 {}).net[0]? = some (.spanArrive { tenant := 1, bench := 2 } 4 { tenant := 1, bench := 0 } 3 []) ∧ (span3 {}).net[1]? = some (.spanFire { tenant := 1, bench := 0 } 3 (some 5) 77 2) ∧
    ((span3 {}).evLine { tenant := 1, bench := 2 } 4).waiters = [] ∧ ((span3 { kind := .span, children := 2 }).evLine { tenant := 1, bench := 0 } 3).held = some 5 := by decide +kernel

/-- The migration agent of package 0 holds every line of the frame that moves. -/
def held7 : State :=
  let ls : LineState := { homeCount := 0, homeOwner := false, others := [{ holder := agentOf 0, count := 16, owner := true, data := true, stamp := none }] }
  { moving7 with lines := (List.range 1024).map fun i => (0x500000 / 64 + i, ls) }

/-- R81, R115, R206, R320, R332, R365, R411: a reduction in a line's queue, a line that another core leases, a retry before its delay, a migration whose agent lacks a line's tokens, a home that does not fit the
frame's stack, and a page that a stopped service does not move. -/
theorem test_meets_DeferredForms :
    (let red (s : State) : State := { s with lines := [(0x8000, { ours with queue := [{ who := s.core.id, home := .die 0 0, offset := 8, ptr := 0x20008, size := 0x10000, op := .reduce .add 4 5, hint := .dflt, came := 0, behind := false }] })] }
     AmoOp.add.eval 4 9 5 0 = (some 14, (AmoOp.add.eval 4 9 5 0).2) ∧
     after (.mergeStep line8) (red (holding [0, 0, 0, 0, 0, 0, 0, 0, 9])) (fun t => t.readPhys 0 0x200008 2 == [14, 0] && (t.line line8).queue.isEmpty) = true) ∧
    (let s := leasedTo 0x8000
     let q : State := { s with lines := s.lines.map fun e => (e.1, { e.2 with queue := ((waiting8 ours).line line8).queue }) }
     decide (q.leaseOf line8 = some { tenant := 1, lid := 4 }) = true ∧ after (.mergeStep line8) q (fun t => !(t.line line8).queue.isEmpty) = true) ∧
    (let s (now : Nat) : State := { demoWith (fun t => { t with wait := .strata { rid := 9, k := 1 } 15 5 6 false 64 0 }) with regions := (strata (key1 (.core 4)) 15).regions, now := now }
     after (.strataBackoff { tenant := 1, lid := 0 }) (s 63) (fun t => t.task.wait != .none) = true ∧ after (.strataBackoff { tenant := 1, lid := 0 }) (s 64) (fun t => t.task.wait == .none && t.rx 6 == 1) = true) ∧
    (let s : State := { moving7 with lines := [(lineKey (lineOf 0 0x500040), ours)] }
     inFrame 0 0x500000 65536 (lineKey (lineOf 0 0x500040)) = true ∧ agentHas 0 ours = false ∧ (s.attempt 0 4 (lineOf 0 0x500040)).isNone = true ∧ (lineOf 0 0x500040).idx < 2 ^ 46 ∧
     s.shotClear 7 0x70000 65536 = true ∧ s.agentReady 0 0 0x500000 65536 = false ∧
     (fun t : State => decide (t.net = [.persistent (lineOf 0 0x500040) 0 4]) && (t.attempt 0 4 (lineOf 0 0x500040)).isSome) (agentAsks 0 (lineOf 0 0x500040) s) = true) ∧
     (held7.agentReady 0 0 0x500000 65536 = true ∧ held7.shotClear 7 0x70000 65536 = true ∧ held7.moving.contains (0, 0x500000, 65536) = true ∧ held7.frameLines 0 0x700000 65536 = [] ∧ held7.packages = [0] ∧
      (held7.leafAt 0 7 0x70000).any (·.mig) = true) ∧
    quarryFits .nearmem 0x700000 65536 0 = true ∧ quarryFits .nearmem 0x700000 65536 191 = false ∧
    after (.pageMigration 1 0x60000 (BitVec.ofNat 64 frame7) 0) (stoppedService walked) (fun t => t.moving.isEmpty) = true ∧ walked.paused 0 = false ∧
    after (.collapse 0x100000) (stoppedService (duplicated 5)) (fun t => t.task.st == .faulted) = true := by decide +kernel

/-- R70, R74, R325: a released key's control line says RETIRING, and a span arrival that no router of the tenant takes, or whose parent is no span, empties the child. -/
theorem test_meets_ReleasesAndSpans :
    (let s := slotted { key1 .none with recs := [(0, (10, 0x3F800000)), (1, (20, 0x40400000))] }
     decide (s.slotPhys (region (key1 .none)) 1 = some (0, 0x400100)) = true ∧
     after (.regionRelease 9) s (fun t => leOf (t.readPhys 0 0x400100 8) / 2 ^ 62 == 2 && (mapFind 9 t.regions).any (·.released)) = true) ∧
    demo.benchRouted { tenant := 1, bench := 0 } = true ∧
    after (.spanArrivalMessage 0) (span3 { kind := .barrier, arrivals := 4 }) (fun t => t.net.length == 1 && (t.evLine t.bench 3).childCount == 0) = true ∧
    (let far : State := { span3 { kind := .span, children := 2 } with tenants := [(1, { tenancy with rects := [(1, { col := 0, row := 0, cols := 4, rows := 4 })] })] }
     far.benchRouted { tenant := 1, bench := 0 } = false ∧ after (.spanArrivalMessage 0) far (fun t => t.net.length == 1 && (t.evLine t.bench 3).childCount == 0) = true) := by decide +kernel

/-- A reduction that a moving page has turned away, last translated at cycle 0. -/
def turned (p : Word) (now : Nat) : State := { demo with core := { demo.core with moved := [{ ptr := p, op := .add, z := 8, b := 4, since := 0 }] }, now := now }

/-- R208, R364, R365: a reduction that was answered MOVED is translated anew after 1,024 cycles, and performed, refused or put off again; a page is not collapsed before a store translated by its old leaf is performed; the
premise on the lines that the service writes. -/
theorem test_meets_MovedReductions : (∀ l : Line, { walked with lines := [] }.serviceHas 0 l = true) ∧ (∀ l : Line, { duplicated 5 with lines := [] }.serviceHas 0 l = true) ∧ demo.core.moved = [] ∧
    after (.migRewalk { tenant := 1, lid := 0 }) (turned 0x20008 1023) (fun t => t.core.moved.length == 1 && t.mem == []) = true ∧
    after (.migRewalk { tenant := 1, lid := 0 }) (turned 0x20008 1024) (fun t => t.core.moved.isEmpty && t.readPhys 0 0x200008 1 == [4]) = true ∧
    got (amoAt { turned 0x20008 1024 with core := demo.core } .add 8 4 0 false 0x20008) (fun r => r.s.core.moved == [] && r.s.task.wait == .none && r.s.task.rep.wait == .none) = true ∧
    caused (amoAt { turned 0x50000 1024 with core := demo.core } .add 8 4 0 false 0x50000) { code := .pageFault, addr := 0x50000 } = true ∧
    after (.migRewalk { tenant := 1, lid := 0 }) (turned 0x50000 1024) (fun t => t.core.moved.isEmpty && decide (t.task.held = [{ code := .pageFault, addr := 0x50000, async := true }])) = true ∧
    (let s : State := { turned 0x60000 1024 with lines := [(0x200, { ours with pins := [({ who := { tenant := 1, lid := 4 }, seq := 0 }, .die 0 0)] })] }
     (match amoAt { s with core := demo.core } .add 8 4 0 false 0x60000 with | .wait _ => true | _ => false) = true ∧
     after (.migRewalk { tenant := 1, lid := 0 }) s (fun t => decide (t.core.moved.map (·.since) = [1024])) = true) ∧
    (let s : State := { duplicated 5 with lines := [(lineKey (lineOf 0 0x500000), { ours with queue := [{ who := { tenant := 1, lid := 4 }, home := .die 0 0, offset := 16, ptr := 0x60010, size := 0x10000, op := .store { bytes := [1] }, hint := .dflt, came := 0, behind := false }] })] }
     s.shotClear 7 0x60000 0x10000 = false ∧ (duplicated 5).shotClear 7 0x60000 0x10000 = true ∧ ((duplicated 5).pkg 0).held = [] ∧
     after (.collapse 0x100000) s (fun t => t.task.st == .faulted && t.traps.length == 1) = true) :=
  ⟨has_empty rfl _, has_empty rfl _, by decide +kernel⟩

/-- A load of key 1 of the mapped region, whose slot's line is as given. -/
def slotWait (inTable : Bool) (k : Key) (x : LineState) (t : Nat := 15) : State :=
  let s := slotted k
  { s with
    core := { s.core with task := { s.task with wait := .strata { rid := 9, k := 1 } t 5 6 inTable 0 0 } }
    net := [.release s.core.id { rid := 9, k := 1 } t], lines := s.lines ++ [(0x10004, x)] }

/-- R72, R81, R86, R184, R348, R356: a load at a key whose slot's line lacks tokens or carries poison, whose region is gone, or that comes late in its cycle. -/
theorem test_meets_SlotForms :
    (let far := slotWait false (key1 (.core 4)) ours
     let bad := slotWait false (key1 (.core 4)) { poison := true }
     let r := region (key1 (.core 4))
     far.slotLacks r 1 = some (lineOf 0 0x400100) ∧ bad.slotLacks r 1 = none ∧ bad.slotUe r 1 = true ∧ bad.homeLate r 1 0 = false ∧ (strata (key1 (.core 4)) 15).slotUe r 1 = false ∧
     after (.strataBackoff { tenant := 1, lid := 0 }) far (fun t => t.attempts.any (fun a => a.line == lineOf 0 0x400100) && t.task.wait != .none) = true ∧
     trapsWith (.strataBackoff { tenant := 1, lid := 0 }) bad { code := .memUe, addr := 0x40100 } = true ∧
     trapsWith (.causalityRelease 0) (slotWait true (key1 (.core 4)) { poison := true }) { code := .memUe, addr := 0x40100 } = true ∧
     after (.causalityRelease 0) (slotWait true (key1 (.core 4)) ours) (fun t => t.attempts.length == 1 && t.net.length != 0) = true ∧
     after (.causalityRelease 0) { slotWait true (key1 (.core 4)) {} with net := [.release { tenant := 1, lid := 0 } { rid := 9, k := 1 } 14] } (fun t => t.net.isEmpty && t.task.wait != .none) = true ∧
     after (.regionRelease 9) { slotWait false (key1 (.core 4)) ours with others := [(coreKey { tenant := 1, lid := 0xF000 }, { Core.idle { tenant := 1, lid := 0xF000 } .quarry with place := { pkg := 0, unit := 4 } })] }
       (fun t => (mapFind 9 t.regions).any (fun q => !q.released) && !t.attempts.isEmpty) = true) ∧
    (let gone : State := { waitsKey false (key1 (.core 4)) with regions := [] }
     gone.keyAt { rid := 9, k := 1 } = none ∧ after (.strataBackoff { tenant := 1, lid := 0 }) gone (fun t => t.task.wait == .none && t.task.pc == 0x10000) = true) ∧
    (let late : State := { waitsKey false (key1 (.core 4)) with homed := [(0xF000, (0, 5))] }
     late.homeLate (region (key1 (.core 4))) 1 0 = true ∧ after (.strataBackoff { tenant := 1, lid := 0 }) late (fun t => t.task.wait != .none) = true) ∧
    (let old : State := { waitsKey false (key1 (.core 4)) with regions := [(9, { region (key1 (.core 4)) with released := true })] }
     trapsWith (.strataBackoff { tenant := 1, lid := 0 }) old { code := .protect, sub := 4, addr := 0x40100 } = true) := by decide +kernel

/-- R208, R288, R326, R348: a request at a line that needs tokens, or to a page that moves; a load of a scratchpad that a copy writes, and a store that comes late in its cycle. -/
theorem test_meets_LateForms :
    (let e := (waiting8 { homeCount := 12, homeOwner := true })
     (e.line line8).gatherWrite (.die 0 0) = none ∧ ((e.waiting line8).map (·.op)) ≠ [.access] ∧ (homeTouch (.die 0 0) line8 .dflt e).isSome = true ∧
     after (.mergeStep line8) e (fun t => t.attempts.any (fun a => a.line == line8) && !(t.line line8).queue.isEmpty) = true) ∧
    (let s : State := { demo with
       moving := [(0, 0x200000, 0x10000)]
       lines := [(0x8000, { ours with queue := [{ who := demo.core.id, home := .die 0 0, offset := 8, ptr := 0x20008, size := 0x10000, op := .reduce .add 4 5, hint := .dflt, came := 0, behind := false }] })] }
     s.movingLine line8 = true ∧ demo.movingLine line8 = false ∧
     after (.mergeStep line8) s (fun t => (t.line line8).queue.isEmpty && decide (t.core.moved = [{ ptr := 0x20008, op := .add, z := 4, b := 5, since := 0 }])) = true) ∧
    (let busy : State := { remote9 none with others := windowed.others.map fun e => (e.1, { e.2 with task := { e.2.task with copies := [{ copy0 .get (ptr 0 0 0 1 0x100) 0 with extent := [16] }] } }) }
     let late : State := { remote9 (some [9, 8]) with others := windowed.others.map fun e => (e.1, { e.2 with task := { e.2.task with xlast := some (0, 5) } }) }
     busy.scratchBusy { tenant := 1, lid := 9 } 0 0x108 4 = true ∧ after (.remoteScratchpadAccess 0) busy (fun t => t.net.length == 1 && t.task.wait == .remote) = true ∧
     after (.remoteScratchpadAccess 0) late (fun t => t.net.length == 1 && t.task.wait == .remote) = true) := by decide +kernel

/-- Port 2 of package 0: rule 0 sends frames with type 8 to stream 5, which is as given; the stream's ring is at VA 0x60000, a NEARMEM page. -/
def ported (st : Stream) (k : Key := key1 .none) : State :=
  { walked with
    mem := memStore walked.mem 0xB030 (leBytes 8 (2 ^ 63 + 3 * 2 ^ 60 + 2 ^ 58 + 2 ^ 56 + 0x500000))
    streams := [(streamKey 0 2 5, st)], regions := [(9, region k)]
    ports := [(portKey 0 2, { rules := [(0, { off := 12, mask := 0xFFFF, value := 8, stream := 5, tenant := 1 })] })] }

/-- A queue of 4,096 bytes with slots of 128 bytes. -/
def queue5 : Stream := { tenant := 1, ring := 0x60000, size := 4096, slot := 128 }

/-- A frame of 60 bytes and a type. -/
def frame60 (type : Byte) : List Byte := List.replicate 12 0 ++ [type, 0] ++ List.replicate 46 0xAA

/-- A binding with a divisor of 65,536: a tick is a nanosecond. -/
def bind9 : Binding := { descriptor := false, origin := 0, divisor := 65536 }

/-- R90, R91 and R402 to R406. -/
theorem test_ports : after (.classifierRuleWrite 0 2 63 { off := 0, mask := 0, value := 0, stream := 7, tenant := 3 }) (ported {}) (fun t => (t.port 0 2).rules.length == 2 && (t.stream 0 2 7).tenant == 3) = true ∧
    after (.classifierRuleWrite 0 2 64 { off := 0, mask := 0, value := 0, stream := 7, tenant := 3 }) (ported {}) (fun t => (t.port 0 2).rules.length == 1) = true ∧
    after (.streamQueueReset 0 2 5 0x60000 4096 128) (ported { queue5 with tail := 9, drops := 2 }) (fun t => decide (t.stream 0 2 5 = { queue5 with drops := 2 }) && t.physD 0 0x500010 == 4096) = true ∧
    after (.streamBind 0 2 5 9 1 bind9) (ported queue5) (fun t => decide ((t.keyAt { rid := 9, k := 1 }).map (·.2.owner) = some (.stream 2 5))) = true ∧
    after (.streamUnbind 0 2 5) (ported { queue5 with key := some ({ rid := 9, k := 1 }, bind9) } (key1 (.stream 2 5))) (fun t => (t.stream 0 2 5).key.isNone && decide ((t.keyAt { rid := 9, k := 1 }).map (·.2.st) = some .closed)) = true ∧
    after (.ingressFrame 0 2 (frame60 8) true { s := 1, n := 2, f := 3 }) (ported queue5) (fun t => (t.stream 0 2 5).tail == 128 && t.physD 0 0x500000 == 128 && t.readPhys 0 0x500040 20 == [60, 0, 0, 0, 2, 0, 3, 0, 1, 0, 0, 0, 0, 0, 2, 0, 0, 0, 5, 0] &&
      t.readPhys 0 0x50006C 1 == [8]) = true ∧
    after (.ingressFrame 0 2 (frame60 8) true { s := 1, n := 2, f := 3 }) (ported { queue5 with tail := 4096 }) (fun t => (t.stream 0 2 5).drops == 1 && (t.stream 0 2 5).tail == 4096) = true ∧
    after (.ingressFrame 0 2 (frame60 9) true { s := 1, n := 2, f := 3 }) (ported queue5) (fun t => decide ((t.pkg 0).notifs = [.client 0])) = true ∧
    after (.ingressFrame 0 2 [1] true { s := 1, n := 2, f := 3 }) (ported queue5) (fun t => (t.port 0 2).errors == 1) = true ∧
    after (.ingressFrame 0 2 (frame60 8) true { s := 0, n := 100, f := 0 }) (ported { queue5 with key := some ({ rid := 9, k := 1 }, bind9) } (key1 (.stream 2 5))) (fun t =>
      decide ((t.keyAt { rid := 9, k := 1 }).map (fun x => ((x.2.states 4).map (·.1)).getLast?) = some (some 100)) && (t.stream 0 2 5).raised == 0) = true ∧
    after (.ingressFrame 0 2 (frame60 8) true { s := 0, n := 20, f := 0 }) (ported { queue5 with key := some ({ rid := 9, k := 1 }, bind9) } (key1 (.stream 2 5))) (fun t =>
      decide ((t.keyAt { rid := 9, k := 1 }).map (fun x => ((x.2.states 4).map (·.1)).getLast?) = some (some 21)) && (t.stream 0 2 5).raised == 1) = true := by decide +kernel

theorem test_meets_PortsAndStreams : (ported queue5).portUp 0 2 = true ∧ 0x60000 % 65536 = 0 ∧ (ported queue5).queueBytes 0 2 5 = 0 ∧ 2 ^ 26 < (ported queue5).queueBytes 0 2 6 + 2 ^ 26 ∧
    ((ported queue5).keyAt { rid := 9, k := 1 }).any (fun x => !x.1.released && x.1.tenant == 1 && decide (x.2.st = .open_) && decide (x.2.owner = .none)) = true ∧ (queue5).key = none ∧
    (ported queue5).waitRecs { rid := 9, k := 1 } = [] ∧ Stamp.value ((ported queue5).port 0 2).last < Stamp.value { s := 1, n := 2, f := 3 } ∧ ((ported queue5).port 0 2).classify (frame60 8) = 5 ∧
    ((ported queue5).port 0 2).classify (frame60 9) = 0 ∧ (frame60 8).length + 4 = 64 ∧ Stream.head (ported queue5) queue5 = some 0 ∧ Stream.head (ported queue5) { queue5 with ring := 0x90000 } = none ∧
    Stream.head { ported queue5 with mem := memStore (ported queue5).mem 0x500008 [1] } queue5 = some 1 ∧ ((key1 .none).states 4).map (·.1) = [10, 20] := by decide +kernel

/-- A client of tenant 1 on package 0, after HELLO or not. -/
def served (v : Option (Nat × Nat)) (n : Nat := 0) : State := { leveled n with
  clients := [(8, { tenant := 1, pkg := 0, version := v })]
  mem := walked.mem }

/-- The last answer on connection 8. -/
def answered (i : Instr) (s : State) (a : Answer) (p : State → Bool := fun _ => true) : Bool := after i s fun t => decide ((t.client 8).answers.getLast? = some a) && p t

/-- A request for a SHARED page at VA 0x90000. -/
def request9 : RegionReq := { kind := 2, page := 0, tier := 0, format := 0, payload := 0, retain := 0, mode := 0, size := 0x10000, extrap := 0, reach := 0, keys := 0 }

/-- The grant of that page. -/
def grant9 : Grant := { base := 0x90000, pkg := 0, frame := 0x900000, tables := 0x20000, quarry := 0 }

/-- A graph object of one node: an entry at 0x10000, one tile on core 0. -/
def object1 : List Byte :=
  bytesOf 0x4F474C57 4 ++ bytesOf 1 2 ++ bytesOf 0 2 ++ bytesOf 1 4 ++ bytesOf 0 4 ++ bytesOf 0 8 ++ bytesOf 64 8 ++ bytesOf 128 8 ++ bytesOf 128 8 ++ bytesOf 0 16 ++
    bytesOf 0x10000 8 ++ bytesOf 0 56

/-- A tenant that overlaps no other. -/
def tenancy2 : Tenancy := { tenancy with wl := 2, hl := 4, asid := 9, places := [(0, { pkg := 0, die := 0, bench := 8 })], rects := [(0, { col := 8, row := 0, cols := 4, rows := 4 })], quarries := [], areas := tenancy.areas.map fun e => (e.1, e.2 + 0x10000000) }

/-- R44, R49, R54, R142, R407 to R409 and R416. -/
theorem test_client_requests : answered (.hello 8 2 0 [(2, 0), (1, 9), (2, 5)] tenancy2) { served none with clients := [] } (.version 2 1) (fun t => (t.client 8).tenant == 2 && (t.findCore { tenant := 2, lid := 7 }).isSome) = true ∧
    answered (.hello 8 2 0 [(3, 0)] tenancy2) (served none) .refused = true ∧ answered (.job 8) (served none) .refused = true ∧ answered (.job 8) (served (some (2, 1))) (.handle (level1 3 1)) = true ∧
    answered (.region 8 request9 grant9) (served (some (2, 1))) (.handle 0x90000) (fun t => t.walkOn 0 7 0x90000 matches .leaf _) = true ∧
    answered (.region 8 request9 { grant9 with base := 0x60000 }) (served (some (2, 1))) .refused = true ∧
    answered (.upload 8 (level1 3 4) object1 grant9 [] []) (served (some (2, 1))) (.handle (level1 1 1)) (fun t => (t.launch? 2).any (fun l => l.entry == 0x10000 && l.n == 1)) = true ∧
    answered (.phase 8 (level1 3 4) [level1 1 2]) (served (some (2, 1))) (.handle (level1 2 1)) (fun t => decide ((mapFind 1 t.phases).map (·.graphs) = some [2])) = true ∧
    answered (.close 8 (level1 2 3)) (served (some (2, 1))) .done (fun t => decide ((mapFind 3 t.phases).map (·.closed) = some true)) = true ∧
    answered (.clientKick 8 (level1 1 2) 0) (served (some (2, 1))) (.result 0) (fun t => decide ((mapFind 2 t.graphs).map (·.kicks.length) = some 1)) = true ∧
    answered (.clientKick 8 (level1 1 2) 0) (served (some (2, 1)) 16) (.result 1) = true ∧
    answered (.clientCancel 8 (level1 0 6)) (served (some (2, 1))) .done (fun t => decide ((t.launch? 6).map (·.st) = some .draining)) = true ∧
    answered (.wait 8 (level1 0 7)) (served (some (2, 1))) (.word (3 * 2 ^ 48 + 8)) = true ∧ answered (.wait 8 (level1 0 6)) (served (some (2, 1))) (.waiting (level1 0 6) 0) = true ∧
    answered (.attest 8 [1]) (served (some (2, 1))) .refused = true := by decide +kernel

theorem test_meets_ClientRequests : ((served none).pkg 0).runs = true ∧ ((served none).pkg 1).runs = false ∧ mapFind 8 { served none with clients := [] }.clients = none ∧ mapFind 2 (served none).tenants = none ∧
    tenancyOk (served none) 2 tenancy2 = true ∧ (declareRegion 1 request9 grant9 (served none)).isSome = true ∧ (declareRegion 1 request9 { grant9 with base := 0x60000 } (served none)).isNone = true ∧
    (served none).jobOf 1 (level1 3 9) = none ∧ ((served none).jobOf 1 (level1 3 4)).any (fun j => j.1 == 4 && !j.2.closed && !j.2.cancelled && !j.2.ended) = true ∧ parseGraph [] = none ∧
    (uploadGraph 1 4 object1 { grant9 with frame := 1 } [] [] (served none)).isNone = true ∧ (uploadGraph 1 4 object1 grant9 [] [] (served none)).isSome = true ∧
    ((served none).graphOf 1 (level1 1 2)).any (fun g => g.1 == 2 && g.2.job == 4 && openPhase (served none) 2 g.2 == some 3 && decide (g.2.kicks.length < 16)) = true ∧
    handleTenant (2 ^ 49) ≠ 1 ∧ (served none).hasLevel (level1 0 6) = true ∧ levelOf (level1 2 3) = .phase ∧ levelOf (level1 3 4) = .job ∧ (mapFind 3 (served none).phases).isSome = true ∧
    ((served none).graphOf 1 (level1 1 9)).isNone = true ∧ (List.replicate 32 (0 : Byte)).length = 32 := by decide +kernel

/-- A text section and an initialised data section of an object. -/
def sections1 : List Section :=
  [{ kind := .text, bytes := [1, 2], grant := { base := 0xA0000, pkg := 0, frame := 0xA00000, tables := 0x30000, quarry := 0 } },
   { kind := .data, bytes := [3, 4], grant := { base := 0xB0000, pkg := 0, frame := 0xB00000, tables := 0x30000, quarry := 0 } }]

/-- R129, R142, R145, R390, R391, R411: sections stand in their pages; a region beyond the tenant's memory is refused; a tenancy keeps its quantum and time slice in their ranges; and no request is taken while the service
has stopped. -/
theorem test_meets_ServiceRequests :
    answered (.upload 8 (level1 3 4) object1 grant9 [] sections1) (served (some (2, 1))) (.handle (level1 1 1)) (fun t => memBytes t.mem 0xA00000 2 == [1, 2] && memBytes t.mem 0xB00000 2 == [3, 4] &&
      decide ((t.leafOf 1 0xA0000).map (fun (l : Leaf) => (l.kind, l.x, l.w)) = some (.readonly, true, false)) && decide ((t.leafOf 1 0xB0000).map (fun (l : Leaf) => (l.kind, l.x, l.w)) = some (.priv, false, true))) = true ∧
    (let s : State := { served (some (2, 1)) with tenants := [(1, { tenancy with memory := 0xFFFF })] }
     answered (.region 8 request9 grant9) s .refused = true ∧ answered (.region 8 request9 grant9) { s with tenants := [(1, { tenancy with memory := 0x10000 })] } (.handle 0x90000) = true) ∧
    (∀ q ∈ [0, 2 ^ 14, 2 ^ 32], tenancyOk (served none) 2 { tenancy2 with quantum := q } = true) ∧ (∀ q ∈ [1, 2 ^ 14 - 1, 2 ^ 32 + 1], tenancyOk (served none) 2 { tenancy2 with quantum := q } = false) ∧
    (∀ n ∈ [2 ^ 12, 2 ^ 24], tenancyOk (served none) 2 { tenancy2 with tslice := n } = true) ∧ (∀ n ∈ [0, 2 ^ 12 - 1, 2 ^ 24 + 1], tenancyOk (served none) 2 { tenancy2 with tslice := n } = false) ∧
    (stoppedService (served none)).paused 0 = true ∧ ((stoppedService (served none)).pkg 0).runs = true ∧
    after (.job 8) (stoppedService (served (some (2, 1)))) (fun t => t.jobs.length == 1 && (t.client 8).answers == []) = true := by decide +kernel

/-- The region's home core and its slots' page, beside the stream. -/
def boundPort (k : Key) : State :=
  { ported queue5 k with
    mem := [(0xB020, 2 ^ 63 + 4 * 2 ^ 60 + 2 ^ 58 + 0x400000)].foldl (fun m (e : Nat × Nat) => memStore m e.1 (leBytes 8 e.2)) (ported queue5).mem
    others := [(coreKey { tenant := 1, lid := 0xF000 }, { Core.idle { tenant := 1, lid := 0xF000 } .quarry with place := { pkg := 0, unit := 4 } })] }

/-- R90, R339, R404, R405, R411: a queue whose buffer is no whole number of slots, or whose pages are not NEARMEM, is not set up; a key that is no key of the region is not bound, and a bound one's control line names the
stream; a frame waits while its slot is pinned, and the frames of a port come in the order of their stamps. -/
theorem test_meets_Queues :
    (ported queue5).ringNear 1 0x60000 4096 = true ∧ walked.ringNear 1 0x60000 4096 = false ∧ 2 ^ 12 ≤ 2 ^ 12 ∧
    after (.streamQueueReset 0 2 5 0x60000 4096 16384) (ported { queue5 with tail := 9 }) (fun t => (t.stream 0 2 5).tail == 9) = true ∧
    after (.streamQueueReset 0 2 5 0x60000 4096 128) { ported { queue5 with tail := 9 } with mem := walked.mem } (fun t => (t.stream 0 2 5).tail == 9) = true ∧
    after (.streamBind 0 2 5 9 16 bind9) (ported queue5) (fun t => (t.stream 0 2 5).key.isNone) = true ∧ (region (key1 .none)).nkeys = 16 ∧
    decide ((boundPort (key1 .none)).slotPhys (region (key1 .none)) 1 = some (0, 0x400100)) = true ∧
    after (.streamBind 0 2 5 9 1 bind9) (boundPort (key1 .none)) (fun t => leOf (t.readPhys 0 0x400100 8) / 2 ^ 60 == 2 && leOf (t.readPhys 0 0x400104 2) == 0x205) = true ∧
    after (.streamBind 0 2 5 9 1 bind9) (stoppedService (ported queue5)) (fun t => (t.stream 0 2 5).key.isNone) = true ∧
    (let s : State := { ported queue5 with lines := [(lineKey (lineOf 0 0x500040), { pins := [({ who := demo.core.id, seq := 0 }, .die 0 0)] })] }
     s.queueFree queue5 = false ∧ after (.ingressFrame 0 2 (frame60 8) true { s := 1, n := 2, f := 3 }) s (fun t => (t.stream 0 2 5).tail == 0 && Stamp.value (t.port 0 2).last == 0) = true ∧
     after (.ingressFrame 0 2 (frame60 8) false { s := 1, n := 2, f := 3 }) s (fun t => (t.port 0 2).errors == 1) = true) ∧
    after (.ingressFrame 0 2 (frame60 8) true { s := 1, n := 2, f := 3 }) ((ported queue5).modPkg 0 fun p => { p with ptp := Stamp.value { s := 1, n := 2, f := 4 } }) (fun t => (t.stream 0 2 5).tail == 128) = true ∧
    after (.ingressFrame 0 2 (frame60 8) true { s := 1, n := 2, f := 3 }) { ported queue5 with ports := (ported queue5).ports.map fun e => (e.1, { e.2 with last := { s := 1, n := 2, f := 4 } }) } (fun t => (t.stream 0 2 5).tail == 0) = true := by
  decide +kernel

/-- R81, R90, R208, R348, R411: what the service and ingress do where a page moves, or a key's home lacks a line of its slot; a stamp is read as the clock's only where it lies ahead of it. -/
theorem test_meets_ServiceWaits :
    (∀ l : Line, { served (some (2, 1)) with lines := [] }.serviceHas 0 l = true) ∧ (∀ l : Line, { ported queue5 with lines := [] }.serviceHas 0 l = true) ∧ (served none).moving = [] ∧
    (let s : State := { served (some (2, 1)) with moving := [(0, 0x500000, 0x10000)] }
     ∀ i ∈ [Instr.region 8 request9 grant9, .upload 8 (level1 3 4) object1 grant9 [] [], .clientKick 8 (level1 1 2) 0], after i s (fun t => (t.client 8).answers.isEmpty && t.pkgs == s.pkgs) = true) ∧
    after (.streamQueueReset 0 2 5 0x60000 4096 128) { ported { queue5 with tail := 9 } with moving := [(0, 0x200000, 0x10000)] } (fun t => (t.stream 0 2 5).tail == 9) = true ∧
    (let far : State := { boundPort (key1 .none) with lines := [(0x10004, ours)] }
     far.slotLacks (region (key1 .none)) 1 = some (lineOf 0 0x400100) ∧ (boundPort (key1 .none)).slotLacks (region (key1 .none)) 1 = none ∧
     after (.streamBind 0 2 5 9 1 bind9) far (fun t => t.attempts.length == 1 && (t.stream 0 2 5).key.isNone) = true) ∧
    (let held : Stream := { queue5 with key := some ({ rid := 9, k := 1 }, bind9) }
     let far : State := { boundPort (key1 (.stream 2 5)) with streams := [(streamKey 0 2 5, held)], lines := [(0x10004, ours)] }
     far.boundFree held = false ∧ (ported queue5).boundFree queue5 = true ∧
     after (.ingressFrame 0 2 (frame60 8) true { s := 0, n := 100, f := 0 }) far (fun t => t.attempts.length == 1 && Stamp.value (t.port 0 2).last == 0) = true) ∧
    (let s : State := { ported queue5 with time := micros 1 }
     after (.ingressFrame 0 2 (frame60 8) true { s := 0, n := 5000, f := 0 }) s (fun t => (t.pkg 0).ptp == 4000 * 65536) = true ∧
     after (.ingressFrame 0 2 (frame60 8) true { s := 0, n := 500, f := 0 }) s (fun t => (t.pkg 0).ptp == 0 && (t.stream 0 2 5).tail == 128) = true) :=
  ⟨has_empty rfl _, has_empty rfl _, by decide +kernel⟩

/-- An image that verifies on package 1: its security version is the fused minimum. -/
def image1 : Image := { bytes := [1], version := Config.fusedMin 1, abi := [(1, 0), (2, 9), (1, 3)], rsaOk := true, slhOk := true }

theorem image1_ok : imageOk 1 image1 = true := by simp [imageOk, image1]

theorem image1_ok_abi (vs : List (Nat × Nat)) : imageOk 1 { image1 with abi := vs } = true := by simp [imageOk, image1]

/-- Package 0 with firmware state of its own, at a time. -/
def package (f : Package → Package) (time : Nat := 0) : State := { demo with pkgs := [(0, f { up := true, asidTable := 0x8000 })], time := time, clients := [(8, { tenant := 1, pkg := 0, version := some (2, 1) })] }

/-- An image of version 9 in the other half since cycle 0, not ready yet. -/
def standby9 : Standby := { img := { image1 with version := 9 }, since := 0, conn := 8 }

/-- What the package is after the instruction. -/
def pkgAfter (i : Instr) (s : State) (p : Package → Bool) : Bool := after i s fun t => p (t.pkg 0)

/-- Readings of four dies. -/
def readings (t : Int) (ok : Bool := true) : List Sensors := [{ maxTemp := 20, flowOk := true }, { maxTemp := t, flowOk := ok }, { maxTemp := 30, flowOk := true }, { maxTemp := 10, flowOk := true }]

/-- R408: a package whose images verify is up with its supervisor cores. -/
theorem test_boot : ∃ t : State, exec (.boot 1 image1 image1 image1 true true true []) State.reset = .next t ∧ (t.pkg 1).up = true ∧ (t.findCore { tenant := 0, lid := 31 }).isSome = true ∧ (t.pkg 1).halted = false := by
  refine ⟨_, rfl, ?_⟩
  simp only [boot, image1_ok]
  decide +kernel

/-- R408, R411, R413 to R415. -/
theorem test_firmware : after (.boot 1 { image1 with rsaOk := false } image1 image1 true true true []) State.reset (fun t => (t.pkg 1).haltStep == 1 && !(t.pkg 1).up) = true ∧
    pkgAfter (.update 8 { image1 with slhOk := false }) (package id) (fun p => p.standby.isNone) = true ∧
    pkgAfter (.switchover 0) (package fun p => { p with standby := some standby9 }) (fun p => p.active == 0 && p.standby.any (·.ready)) = true ∧
    pkgAfter (.switchover 0) (package (fun p => { p with standby := some standby9 }) (micros 1000 + 1)) (fun p => p.standby.any fun b => !b.ready) = true ∧
    pkgAfter (.switchover 0) (package fun p => { p with standby := some { standby9 with ready := true } }) (fun p => p.active == 1 && p.paused == some 0 && p.standby.isSome) = true ∧
    pkgAfter (.switchover 0) { package (fun p => { p with standby := some { standby9 with ready := true } }) with moving := [(0, 0, 0)] } (fun p => p.active == 0 && p.paused.isNone) = true ∧
    pkgAfter (.switchover 0) (package fun p => { p with standby := some { standby9 with ready := true }, paused := some 0, active := 1, versions := [1, 2, 3] }) (fun p => p.active == 1 && p.standby.isNone && p.paused.isNone && p.versions == [1, 9, 9]) = true ∧
    pkgAfter (.switchoverTimeout 0) (package (fun p => { p with standby := some { standby9 with ready := true } }) (micros 1000 + 1)) (fun p => p.standby.isSome) = true ∧
    pkgAfter (.switchoverTimeout 0) (package (fun p => { p with standby := some { img := image1, since := 0, conn := 8 } }) (micros 1000 + 1)) (fun p => p.standby.isNone && p.active == 0) = true ∧
    pkgAfter (.switchoverTimeout 0) (package (fun p => { p with standby := some { img := image1, since := 0, conn := 8 } }) (micros 1000)) (fun p => p.standby.isSome) = true ∧
    pkgAfter (.sensorPoll 0 (readings 105)) (package id) (fun p => p.maxTemp == 105 && !p.cool && p.rises == 1 && !p.stopped && decide (p.notifs = [.health])) = true ∧
    pkgAfter (.sensorPoll 0 (readings 30 false)) (package id) (fun p => p.maxTemp == 115 && p.stopped) = true ∧
    pkgAfter (.sensorPoll 0 (readings 99)) (package (fun p => { p with polled := some 0 }) (micros 10)) (fun p => p.maxTemp == 99 && p.cool && p.notifs.isEmpty) = true ∧
    pkgAfter (.sensorPoll 0 (readings 99)) (package (fun p => { p with polled := some 0 }) (micros 10 - 1)) (fun p => p.maxTemp == 0) = true ∧
    pkgAfter (.droopEvent 0 3) (package id 7) (fun p => p.droops == 1 && p.lastDroop == some 7 && p.rises == 1) = true ∧ pkgAfter (.droopEvent 0 4) (package id 7) (fun p => p.droops == 0) = true ∧
    pkgAfter (.healthRecord 0 2801) (package id) (fun p => p.records.length == 1 && p.rises == 1 && decide (p.notifs = [.health])) = true ∧
    pkgAfter (.healthRecord 0 2800) (package id) (fun p => p.records.length == 1 && p.rises == 0 && p.notifs.isEmpty) = true ∧
    after (.throttleStep 1) (package fun p => { p with rises := 2 }) (fun t => t.k == 1 && (t.pkg 0).rises == 1) = true ∧
    after (.throttleStep 4) { package id with k := 5, time := micros 1000 } (fun t => t.k == 4) = true ∧ after (.throttleStep 4) { package id with k := 5, time := micros 1000 - 1 } (fun t => t.k == 5) = true := by decide +kernel

/-- An `addi` at the program counter of `demo`, and the current core's turn. -/
def issuing (w : Nat) : State := { demo with mem := memStore [] (memKey 0 0x100000) (leBytes 4 w), agenda := [.issue { tenant := 1, lid := 0 }] }

/-- The step answers a next state of which `p` holds. -/
def stepped (s : State) (p : State → Bool) : Bool :=
  match step s with
  | .next t => p t
  | _ => false

/-- R408, R412: a package whose last step fails halts in it; errors in stored data are counted, or stay in a line or a word of a scratchpad. -/
theorem test_upsets : (∃ t : State, exec (.boot 1 image1 image1 image1 true true false []) State.reset = .next t ∧ (t.pkg 1).haltStep = 4 ∧ (t.pkg 1).up = false) ∧
    pkgAfter (.healthRecord 0 0) (upset (.corrected 0) (package id)) (fun p => decide (p.records.map (·.corrected) = [1])) = true ∧
    trapsWith (.ldd 1 2 .weak .dflt 0) (upset (.memLine (lineOf 0 0x200000)) (regs [(2, 0x20008)])) { code := .memUe, addr := 0x20008 } = true ∧
    (upset (.scratch demo.core.id 33) demo).task.scratchBad = [33] ∧ stepped { demo with agenda := [.upset (.corrected 0)] } (fun t => (t.pkg 0).corrected == 1) = true ∧
    stepped { demo with agenda := [.message 0] } (fun t => decide ((t.pkg 0).notifs = [.message])) = true := by
  refine ⟨⟨_, rfl, ?_⟩, by decide +kernel⟩
  simp only [boot, image1_ok]
  decide +kernel

theorem test_meets_FirmwareAndClock : (image1.rsaOk = true ∧ image1.slhOk = true ∧ Config.fusedMin 1 ≤ image1.version) ∧ (State.reset.pkg 1).up = false ∧ (State.reset.pkg 1).halted = false ∧ (1, 3) ∈ image1.abi ∧ (∀ n ∈ image1.abi.filter (·.1 == 1), n.2 ≤ 3) ∧
    ((package id).client 8).version.isSome = true ∧ ((package id).client 8).pkg = 0 ∧ ((package id).pkg 0).runs = true ∧ ((package id).pkg 0).standby = none ∧ (package id).traps = [] ∧ (package id).moving = [] ∧
    (∀ e, e ∈ (package id).lines → e.2.collecting = none) ∧ (∃ e, e ∈ (package fun p => { p with rises := 2 }).pkgs ∧ 0 < e.2.rises) ∧ { package id with k := 5 }.mayFall = true := by
  refine ⟨⟨rfl, rfl, Nat.le_refl _⟩, ?_⟩
  decide +kernel

theorem test_meets_HappeningsReachTheirCore : windowed.Keyed ∧ ({ tenant := 1, lid := 9 } : CoreId) ≠ windowed.core.id ∧ (windowed.findCore { tenant := 1, lid := 9 }).isSome = true ∧ windowed.findCore { tenant := 1, lid := 10 } = none :=
  ⟨keyed_windowed, by decide +kernel⟩

/-- R180 and R391: a happening at core 9 acts on it, and core 0 is current again. -/
theorem test_reaches : after (.taskEndBySupervisor { tenant := 1, lid := 9 }) windowed (fun t => t.core.id == { tenant := 1, lid := 0 } && t.task.st == .running && (t.findCore { tenant := 1, lid := 9 }).any fun k => k.task.st == .ended) = true := by decide +kernel

/-- R113, R127 and R162: a step runs the word at the program counter, right after reset too; a word that has no meaning traps; a body issues its own word. -/
theorem test_step : stepped (issuing 0x09C0000A) (fun t => t.task.x[14] == 10 && t.task.pc == 0x10004 && t.moves == 1) = true ∧
    stepped (issuing 0) (fun t => t.task.st == .faulted && decide (t.task.trap.map (·.cause.code) = some .illegalInstruction)) = true ∧
    stepped (State.reset.withFetchWord 32 0x09C0000A) (fun t => t.task.x[14] == 10) = true ∧ stepped { demo with agenda := [.tick 3] } (fun t => t.now == 3) = true ∧
    stepped { demo with agenda := [.issue { tenant := 1, lid := 9 }] } (fun t => t.task.pc == 0x10000) = true := by decide +kernel

/-- R113: while a buffer runs, the core issues the body's word in a move of its own, scalar words go on beside it, and a vector word is held back. -/
theorem test_body_moves :
    (let s (w : Nat) (m : Move) : State := { issuing w with agenda := [m], core := { demo.core with task := { task5 with rep := { running := true, words := [0xA0088000], total := 2 } } } }
     (s 0 (.body demo.core.id)).mayIssueBody = true ∧ stepped (s 0 (.body demo.core.id)) (fun t => t.task.rep.running && t.task.rep.rep == 1 && t.task.pc == 0x10000 && t.task.wait == .none) = true ∧
     stepped (s 0x09C0000A (.issue demo.core.id)) (fun t => t.task.pc == 0x10004 && t.task.x[14] == 10 && t.task.rep.running) = true ∧
     (s 0 (.body demo.core.id)).task.rep.holds 0x09C0000A = false ∧ (s 0 (.body demo.core.id)).task.rep.holds 0xA0088000 = true ∧
     stepped (s 0xA0088000 (.issue demo.core.id)) (fun t => t.task.pc == 0x10000 && t.task.wait == .none) = true ∧ demo.mayIssueBody = false) := by decide +kernel

theorem test_meets_StepRunsDecoded : (issuing 0x09C0000A).halted = false ∧ (issuing 0x09C0000A).agenda = [.issue demo.core.id] ∧ { issuing 0x09C0000A with agenda := [], moves := 1 }.mayIssue = true ∧
    (issuing 0x09C0000A).task.rep.running = false ∧ { demoWith (fun t => { t with wait := .stall, st := .suspended }) with moves := 1 }.mayIssue = false ∧ Instr.isEvent (.droopEvent 0 0) = true ∧
    got (fetch { issuing 0x09C0000A with agenda := [], moves := 1 }.begin) (fun r => r.2 == 0x09C0000A) = true ∧ caused (fetch { demoWith (fun t => { t with pc := 0x90000 }) with moves := 1 }.begin) { code := .pageFault, addr := 0x90000 } = true ∧
    { demo with pkgs := [(0, { up := true, haltStep := 1 })] }.halted = true ∧ decodeWord 0x09C0000A = .ok (.addi 14 0 10) ∧ (∃ e, decodeWord 0 = .error e) ∧
    task5.pc.toNat % 4 = 0 ∧ task5.pc.toNat < 2 ^ 48 ∧ Machine.translate demo 0x10000 = .leaf codeLeaf ∧ codeLeaf.x = true ∧ codeLeaf.size % 64 = 0 ∧ iFind demo.core demo.asid 0x10000 = none := by
  have word : ∃ e, decodeWord 0 = .error e := ⟨_, rfl⟩
  simp only [word, true_and]
  decide +kernel

/-- The last premise of `StepRunsDecoded`: the code line can be read now. -/
theorem test_meets_fetch : Ready demo codeLeaf (task5.pc.toNat / 64 * 64) false := ready_demo.2.2.2

theorem test_meets_WordsHaveOneMeaning : Instr.isEvent (.addi 14 0 10) = false ∧ Instr.wf (.addi 14 0 10) = true ∧ 0x09C0000A < 2 ^ 32 ∧ decodeWord 0x09C0000A = .ok (.addi 14 0 10) ∧ encode (.addi 14 0 10) = 0x09C0000A := by
  decide +kernel

/-- A store keeps the form of memory. -/
theorem test_meets_StepKeepsMemoryForm : Memory.wf demo.mem = true ∧ Memory.wf (issuing 0x09C0000A).mem = true ∧ stepped (issuing 0x09C0000A) (fun t => Memory.wf t.mem) = true := by decide +kernel

/-- R31, R347, R408. -/
theorem test_reset : State.reset.task.st = .none ∧ (State.reset.pkg 0).up = false ∧ State.reset.k = 0 ∧ (State.reset.line line8).homeCount = 16 ∧ memByte State.reset.mem 0x200000 = 0 := by decide +kernel

/-- R408, R416: what boot agrees on with each link's partner and with the firmware; one link without a common version fails step 2. -/
theorem test_boot_versions : (∃ t : State, exec (.boot 1 image1 image1 image1 true true true [(2, [(2, 9), (3, 1)]), (5, [(2, 1), (4, 0)])]) State.reset = .next t ∧
      mapFind 2 (t.pkg 1).links = some (3, 1) ∧ mapFind 5 (t.pkg 1).links = some (2, 1) ∧ (t.pkg 1).abi = (1, 3) ∧ (t.pkg 1).supply.length = 4) ∧
    (∃ t : State, exec (.boot 1 image1 image1 image1 true true true [(2, [(3, 1)]), (5, [(1, 0)])]) State.reset = .next t ∧ (t.pkg 1).haltStep = 2 ∧ (t.pkg 1).up = false) ∧
    (∃ t : State, exec (.boot 1 image1 { image1 with abi := [(2, 0)] } image1 true true true []) State.reset = .next t ∧ (t.pkg 1).haltStep = 3) := by
  refine ⟨⟨_, rfl, ?_⟩, ⟨_, rfl, ?_⟩, ⟨_, rfl, ?_⟩⟩ <;> simp only [boot, image1_ok, image1_ok_abi] <;> decide +kernel

/-- R179, R411, R412, R414, R416: an update selects the highest common minor of the ABI; a pause ends within 20 µs; errors in accumulators, slots, instruction caches and L1 lines stay there; a module that has stopped does nothing more. -/
theorem test_meets_Errors :
    (let s := package fun p => { p with standby := some { standby9 with ready := true }, paused := some 0, active := 1 }
     (s.pkg 0).runs = true ∧ s.pkgs.length = 1 ∧ pkgAfter (.switchover 0) s (fun p => p.abi == (1, 3)) = true ∧ ((passTime 1 s).pkg 0).paused = some 0 ∧
     micros 20 ≤ (tick 40000 s).time ∧ ((passTime 40000 s).pkg 0).paused = none ∧ ((package id).pkg 0).abi.1 = 1) ∧
    (upset (.acc demo.core.id 33) demo).task.accBad = [33] ∧ (upset (.slot demo.core.id 2 143) demo).task.slots[2].bad = [143] ∧ ((upset (.slot demo.core.id 2 144) demo).task.slots[2].bad = []) ∧
    ((upset (.l1Line demo.core.id (0x30000 / 64)) (cachedLine false)).core.l1.all fun e => e.2.all (·.bad)) = true ∧
    (match fetch demo with
      | .ok (v, _) => v.core.icache.length == 1 && (upset (.icache v.core.id 0x400) v).core.icache.all (·.bad) && caused (fetch (upset (.icache v.core.id 0x400) v)) { code := .memUe, addr := 0x10000 }
      | _ => false) = true ∧
    (let s : State := { demo with pkgs := [(0, { up := true, stopped := true }), (1, { up := true })], agenda := [.happen (.quantumExpiry { tenant := 1, lid := 0 })] }
     s.placeOf (.quantumExpiry { tenant := 1, lid := 0 }) = some 0 ∧ (s.pkg 0).runs = false ∧ stepped { s with core := { s.core with task := { s.task with ran := 2 ^ 14 } } } (fun t => t.task.ran == 2 ^ 14 && t.moves == 1) = true) ∧
    stepped { demo with agenda := [.body { tenant := 1, lid := 9 }] } (fun t => t.moves == 1 && t.task.pc == 0x10000) = true ∧
    (let s : State := { issuing 0x09C0000A with lines := [(0x4000, { ours with pins := [({ who := { tenant := 1, lid := 4 }, seq := 0 }, .die 0 0)] })] }
     (match fetch { s with agenda := [], moves := 1 }.begin with | .wait _ => true | _ => false) = true ∧ stepped s (fun t => t.task.pc == 0x10000 && t.task.wait != .none) = true) ∧
    demo.bodyHolds 0x09C0000A = false := by decide +kernel
end Sys2Proof.Tests
end

section
/-!
The instructions of a task in no gang: their completion, and what the scalar and control instructions of spec chapter 7 do:
division (R151), branches and jumps (R117, R158 to R160), and the returns from handlers (R177).
-/
namespace Sys2Proof.Claims

open Sys2Proof.Machine

variable {s : State}

/-! ## Completion in no gang -/

/-- A scalar result and nothing else (R113). -/
theorem setX_done (hg : Alone s) (d : Reg) (v : Word) : setX d v s = Claims.done s fun t => t.wx d v :=
  adv_done (s := s) (fun t => t.wx d v) (by rw [Task.wx_gang]; exact hg)

/-- An instruction whose meaning is a scalar result writes that result. -/
theorem writesX_of_setX {i : Instr} {d : Reg} {v : Word} (hg : Alone s) (he : exec i s = .next (setX d v s)) : WritesX s i d v := by
  unfold WritesX
  rw [he, setX_done hg]

/-- An effect on the task that leaves its gang, and the place of the next instruction. -/
theorem advTo_went (pc : Word) (f : Task → Task) (hg : (f s.task).gang = 0) : advTo pc (s.modTask f) = went s pc f := by
  rw [advTo_alone pc (by exact hg)]
  rfl

/-- A jump that links. -/
theorem advTo_wx (hg : Alone s) (pc : Word) (d : Reg) (v : Word) : advTo pc (s.wx d v) = went s pc fun t => t.wx d v :=
  advTo_went pc (fun t => t.wx d v) (by rw [Task.wx_gang]; exact hg)

/-- The members of a gang have nothing to agree on where there is no gang (R41). -/
theorem gangAgree_alone (hg : Alone s) (f : State → Word) (k : State → State) : gangAgree f k s = k s := by
  have hm : s.gangMembers = [] := if_pos hg
  simp [gangAgree, hm]

/-! ## Division (R150, R151) -/

section Quotients

variable {x y : Word}

theorem divS_zero : divS x 0 = BitVec.ofInt 64 (-1) := by rw [divS, if_pos rfl]; rfl

theorem divU_zero : divU x 0 = BitVec.ofNat 64 (2 ^ 64 - 1) := by rw [divU, if_pos rfl]; rfl

theorem remS_zero : remS x 0 = x := if_pos rfl

theorem remU_zero : remU x 0 = x := if_pos rfl

theorem divS_eq_tdiv (hy : y ≠ 0) : divS x y = BitVec.ofInt 64 (x.toInt.tdiv y.toInt) := by
  rw [divS, if_neg hy]
  apply BitVec.eq_of_toInt_eq
  rw [BitVec.toInt_sdiv, BitVec.toInt_ofInt]

theorem divU_eq_div (hy : y ≠ 0) : divU x y = BitVec.ofNat 64 (x.toNat / y.toNat) := by
  rw [divU, if_neg hy, ← BitVec.toNat_udiv, BitVec.ofNat_toNat, BitVec.setWidth_eq]

/-- The remainder is what the truncated quotient leaves. -/
theorem remS_eq_sub (hy : y ≠ 0) : remS x y = BitVec.ofInt 64 (x.toInt - y.toInt * x.toInt.tdiv y.toInt) := by
  rw [remS, if_neg hy, ← Int.tmod_def, ← BitVec.toInt_srem, BitVec.ofInt_toInt]

theorem remU_eq_sub (hy : y ≠ 0) : remU x y = BitVec.ofNat 64 (x.toNat - y.toNat * (x.toNat / y.toNat)) := by
  rw [remU, if_neg hy, ← Nat.mod_eq_sub, ← BitVec.toNat_umod, BitVec.ofNat_toNat, BitVec.setWidth_eq]

/-- The one quotient that does not fit, -2^63 by -1, wraps to the dividend. -/
theorem divS_overflow (hx : x.toInt = -2 ^ 63) (hy : y.toInt = -1) : divS x y = BitVec.ofInt 64 (-2 ^ 63) := by
  have hy0 : y ≠ 0 := by rintro rfl; simp at hy
  rw [divS_eq_tdiv hy0, hx, hy]
  decide

theorem remS_overflow (hx : x.toInt = -2 ^ 63) (hy : y.toInt = -1) : remS x y = 0 := by
  have hy0 : y ≠ 0 := by rintro rfl; simp at hy
  rw [remS_eq_sub hy0, hx, hy]
  decide

end Quotients

theorem div_writes (hg : Alone s) (d a b : Reg) : WritesX s (.div d a b) d (divS (s.rx a) (s.rx b)) := writesX_of_setX hg rfl
theorem divu_writes (hg : Alone s) (d a b : Reg) : WritesX s (.divu d a b) d (divU (s.rx a) (s.rx b)) := writesX_of_setX hg rfl
theorem rem_writes (hg : Alone s) (d a b : Reg) : WritesX s (.rem d a b) d (remS (s.rx a) (s.rx b)) := writesX_of_setX hg rfl
theorem remu_writes (hg : Alone s) (d a b : Reg) : WritesX s (.remu d a b) d (remU (s.rx a) (s.rx b)) := writesX_of_setX hg rfl

/-- Settles O2: each form writes its quotient or remainder, whose value over the integers the lemmas above give. -/
theorem division : Obligations.Division := by
  intro s d a b hg x y
  have hdiv := div_writes hg d a b
  have hdivu := divu_writes hg d a b
  have hrem := rem_writes hg d a b
  have hremu := remu_writes hg d a b
  refine ⟨fun hy => ⟨?_, ?_, ?_, ?_⟩, fun (hy : s.rx b = 0) => ⟨?_, ?_, ?_, ?_⟩, fun hx hy => ⟨?_, ?_⟩⟩
  · exact divS_eq_tdiv hy ▸ hdiv
  · exact divU_eq_div hy ▸ hdivu
  · exact remS_eq_sub hy ▸ hrem
  · exact remU_eq_sub hy ▸ hremu
  · rwa [hy, divS_zero] at hdiv
  · rwa [hy, divU_zero] at hdivu
  · rwa [hy, remS_zero] at hrem
  · rwa [hy, remU_zero] at hremu
  · exact divS_overflow hx hy ▸ hdiv
  · exact remS_overflow hx hy ▸ hrem

/-! ## Branches and jumps (R117, R158 to R160) -/

/-- R117's target over the integers. -/
theorem branchTarget_eq {n : Nat} (pc : Word) (off : BitVec n) : branchTarget pc off = pc + BitVec.ofInt 64 (4 * off.toInt) := by
  rw [Int.mul_comm, BitVec.ofInt_mul]
  rfl

theorem branch_went (hg : Alone s) (cond : Word → Word → Bool) (a b : Reg) (off : BitVec 13) :
    branch cond a b off s = went s (branchTo cond a b off s) id :=
  (gangAgree_alone hg _ _).trans (advTo_went _ id hg)

/-- R158: a branch goes to its target when its condition holds, and else on to the next word. -/
theorem branch_taken (hg : Alone s) {i : Instr} {cond : Word → Word → Bool} {a b : Reg} {off : BitVec 13} {c : Prop}
    (he : exec i s = .next (branch cond a b off s)) (hc : cond (s.rx a) (s.rx b) = true ↔ c) :
    (c → exec i s = .next (went s (s.task.pc + BitVec.ofInt 64 (4 * off.toInt)) id)) ∧
      (¬ c → exec i s = .next (went s (s.task.pc + 4) id)) := by
  rw [he, branch_went hg, branchTo]
  constructor
  · intro h
    rw [if_pos (hc.mpr h), branchTarget_eq]
  · intro h
    rw [if_neg (mt hc.mp h)]

theorem jal_went (hg : Alone s) (d : Reg) (off : BitVec 21) :
    exec (.jal d off) s = .next (went s (s.task.pc + BitVec.ofInt 64 (4 * off.toInt)) fun t => t.wx d (s.task.pc + 4)) := by
  rw [← branchTarget_eq]
  exact congrArg _ (advTo_wx hg _ d _)

/-- R160's target: the sum with its two low bits cleared. -/
theorem jalrTarget_eq (a : Reg) (imm : BitVec 16) :
    jalrTarget a imm s = BitVec.ofNat 64 ((s.rx a + BitVec.ofInt 64 imm.toInt).toNat / 4 * 4) := by
  apply BitVec.eq_of_toNat_eq
  simp [jalrTarget, sext16, BitVec.signExtend]

/-- R160: a target past 48 bits is PROTECT with its address. -/
theorem jalr_raises (hg : Alone s) {d a : Reg} {imm : BitVec 16} (ht : 2 ^ 48 ≤ (jalrTarget a imm s).toNat) :
    Raises s (.jalr d a imm) (protect 3 (jalrTarget a imm s)) := by
  change Host.Outcome.next (jumpLink d a imm s) = _
  rw [jumpLink, gangAgree_alone hg, if_pos ht]

theorem jalr_went (hg : Alone s) {d a : Reg} {imm : BitVec 16} (ht : (jalrTarget a imm s).toNat < 2 ^ 48)
    (he : jalrTarget a imm s ≠ endOfTask) :
    exec (.jalr d a imm) s = .next (went s (jalrTarget a imm s) fun t => t.wx d (s.task.pc + 4)) := by
  change Host.Outcome.next (jumpLink d a imm s) = _
  rw [jumpLink, gangAgree_alone hg, if_neg (Nat.not_le.mpr ht), if_neg he, advTo_wx hg]

/-- Settles O4: each branch by its condition, the jumps by their targets. -/
theorem branchesAndJumps : Obligations.BranchesAndJumps := by
  intro s d a b off far imm hg x y link taken t
  have ht : jalrTarget a imm s = t := jalrTarget_eq a imm
  clear_value t
  subst ht
  refine ⟨branch_taken hg rfl ?_, branch_taken hg rfl ?_, branch_taken hg rfl ?_, branch_taken hg rfl ?_, branch_taken hg rfl ?_,
    branch_taken hg rfl ?_, jal_went hg d far, jalr_raises hg, jalr_went hg⟩
  · exact beq_iff_eq
  · exact bne_iff_ne
  · exact BitVec.slt_iff_toInt_lt
  · simp [BitVec.slt_eq_decide, x, y]
  · exact BitVec.ult_iff_lt
  · simp [BitVec.ult_eq_decide, x, y]

/-! ## Returns from handlers (R177) -/

theorem upret_alone (hg : Alone s) :
    exec .upret s = .next (if s.task.handling = .upcall then s.withTask s.task.leaveUpcall else illegal s) := by
  change Host.Outcome.next (if _ then gangMark (s.modTask Task.leaveUpcall) else _) = _
  rw [gangMark_alone (by exact hg), State.modTask_eq]

theorem uiret_alone (hg : Alone s) :
    exec .uiret s = .next (if s.task.handling = .interrupt then s.withTask s.task.leaveInterrupt else illegal s) := by
  change Host.Outcome.next (if _ then gangMark (s.modTask Task.leaveInterrupt) else _) = _
  rw [gangMark_alone (by exact hg), State.modTask_eq]

/-- Settles O8: each return leaves its own handler, and in any other place is illegal. -/
theorem returns : Obligations.Returns := by
  intro s hg
  refine ⟨fun h => ?_, fun h => ?_, fun h => ?_, fun h => ?_⟩
  · rw [Raises, upret_alone hg, if_neg h, illegal]
  · rw [Raises, uiret_alone hg, if_neg h, illegal]
  · rw [upret_alone hg, if_pos h]
    rfl
  · rw [uiret_alone hg, if_pos h]
    rfl

end Sys2Proof.Claims
end

section
/-!
Element-wise vector instructions of a task in no gang: what `laneMap` does to the lanes, the mask and the flags (R250), and what
the operations on integer lanes compute (R253, R255, R270).
-/
namespace Sys2Proof.Claims

open Sys2Proof.Machine

/-! ## Lanes of vector registers (R250) -/

section Lanes

variable {t : VT}

theorem width_mul_lanes (t : VT) : t.width * t.lanes = 512 := by cases t <;> rfl

theorem width_pos (t : VT) : 0 < t.width := by cases t <;> decide

/-- A lane of the type lies in the register. -/
theorem lane_fits {j : Nat} (hj : j < t.lanes) : t.width * (j + 1) ≤ 512 :=
  width_mul_lanes t ▸ Nat.mul_le_mul_left t.width hj

theorem lanesFrom_length (w : Nat) : ∀ n x : Nat, (lanesFrom w x n).length = n
  | 0, _ => rfl
  | n + 1, _ => congrArg (· + 1) (lanesFrom_length w n _)

/-- The lanes of a register listed. -/
theorem lanesOf_eq (t : VT) (v : Vec) : lanesOf t v = (List.range' 0 t.lanes).map fun j => (vlane t v j).toNat := by
  refine List.ext_getElem (by simp [lanesOf, lanesFrom_length]) fun j hj _ => ?_
  rw [lanesOf, lanesFrom_length] at hj
  have hlane := lanesFrom_get t.width t.lanes v.toNat j hj
  rw [List.getElem?_eq_some_iff] at hlane
  obtain ⟨_, hlane⟩ := hlane
  simp [lanesOf, hlane, vlane, Nat.shiftRight_eq_div_pow]

theorem vlane_vecOf {l : List Nat} (hl : l.length = t.lanes) {j : Nat} (hj : j < t.lanes) :
    vlane t (vecOf t.width l) j = BitVec.ofNat t.width (l.getD j 0) :=
  vecOf_get _ _ _ (hl ▸ hj) (lane_fits hj)

/-- R270: every lane of a scalar operand is the scalar, cut to the lane. -/
theorem vlane_splat (x : Word) {j : Nat} (hj : j < t.lanes) : vlane t (splat t x) j = BitVec.ofNat t.width x.toNat := by
  rw [splat, vlane_vecOf List.length_replicate hj, List.getD_eq_getElem?_getD, List.getElem?_replicate_of_lt hj]
  apply BitVec.eq_of_toNat_eq
  simp

end Lanes

/-! ## Element-wise instructions (R250) -/

section Elementwise

variable {mask : Nat} {f : Nat → Nat → Nat → Nat × Flags}

/-- The lanes `i` to `i + n − 1` that an instruction computes, from the lanes `x`, `y` and `o` of its operands. -/
theorem laneMap_fst (x y o : Nat → Nat) : ∀ n i : Nat,
    (laneMap mask f i ((List.range' i n).map x) ((List.range' i n).map y) ((List.range' i n).map o)).1 =
      (List.range' i n).map fun j => if mask.testBit j = true then (f (x j) (y j) (o j)).1 else o j
  | 0, _ => rfl
  | n + 1, i => by
    simp only [List.range'_succ, List.map_cons, laneMap, ← laneMap_fst x y o n (i + 1)]
    split <;> rfl

/-- Its flags are those of the active lanes. -/
theorem laneMap_snd (x y o : Nat → Nat) (b : Nat) : ∀ n i : Nat,
    (laneMap mask f i ((List.range' i n).map x) ((List.range' i n).map y) ((List.range' i n).map o)).2.getLsbD b = true ↔
      ∃ j ∈ List.range' i n, mask.testBit j = true ∧ (f (x j) (y j) (o j)).2.getLsbD b = true
  | 0, _ => by simp [laneMap]
  | n + 1, i => by
    simp only [List.range'_succ, List.map_cons, laneMap, List.mem_cons, exists_eq_or_imp, ← laneMap_snd x y o b n (i + 1)]
    split
    · next hon => simp [hon]
    · next hoff => simp [hoff]

variable {t : VT}

/-- Lane `j` of an element-wise result: the operation's where the mask has bit `j`, else the lane of the destination. -/
theorem vlane_elementwise (k : Word) (a b d : Vec) {j : Nat} (hj : j < t.lanes) :
    vlane t (elementwise t k f a b d).1 j =
      if k.getLsbD j = true then BitVec.ofNat t.width (f (vlane t a j).toNat (vlane t b j).toNat (vlane t d j).toNat).1 else vlane t d j := by
  rw [elementwise, lanesOf_eq, lanesOf_eq, lanesOf_eq, laneMap_fst, vlane_vecOf (by simp) hj]
  simp only [List.getD_eq_getElem?_getD, List.getElem?_map, List.getElem?_range' hj, Option.map_some, Option.getD_some, Nat.zero_add,
    Nat.one_mul, BitVec.testBit_toNat]
  split
  · rfl
  · rw [BitVec.ofNat_toNat, BitVec.setWidth_eq]

theorem elementwise_flags (k : Word) (a b d : Vec) (n : Nat) :
    (elementwise t k f a b d).2.getLsbD n = true ↔ ∃ j < t.lanes,
      k.getLsbD j = true ∧ (f (vlane t a j).toNat (vlane t b j).toNat (vlane t d j).toNat).2.getLsbD n = true := by
  rw [elementwise, lanesOf_eq, lanesOf_eq, lanesOf_eq, laneMap_snd]
  simp [BitVec.testBit_toNat]

end Elementwise

variable {s : State}

/-- A vector result with its flags and nothing else (R113, R246). -/
theorem setV_done (hg : Alone s) (d : Reg) (v : Vec) (fl : Flags) : setV d v fl s = Claims.done s fun k => (k.wv d v).orFlags fl :=
  adv_done (s := s) (fun k => (k.wv d v).orFlags fl) hg

/-- The operation `f` of the model on lanes as numbers is `g` on lanes as bit vectors, flags included. -/
def LaneOp (t : VT) (f : Nat → Nat → Nat → Nat × Flags) (g : BitVec t.width → BitVec t.width → BitVec t.width → BitVec t.width × Flags) : Prop :=
  ∀ x y o : BitVec t.width, (BitVec.ofNat t.width (f x.toNat y.toNat o.toNat).1, (f x.toNat y.toNat o.toNat).2) = g x y o

section Completion

variable {i : Instr} {d a : Reg} {m : KReg} {t : VT} {f : Nat → Nat → Nat → Nat × Flags}
  {g : BitVec t.width → BitVec t.width → BitVec t.width → BitVec t.width × Flags}

/-- R250: an instruction whose meaning is an operation on each lane completes by lanes; `y` lists the lanes of its second operand. -/
theorem byLanes_vop (hg : Alone s) (hf : LaneOp t f g) {b : Vec} (he : exec i s = .next (vop t m f d a b s))
    {y : Nat → BitVec t.width} (hy : ∀ j < t.lanes, vlane t b j = y j) :
    ByLanes s i d t m fun j => g (vlane t s.task.v[a] j) (y j) (vlane t s.task.v[d] j) := by
  refine ⟨_, _, he.trans (congrArg _ (setV_done hg d _ _)), fun j hj => ?_, fun n => ?_⟩
  · dsimp only
    rw [vlane_elementwise _ _ _ _ hj, ← hy j hj, ← hf]
    rfl
  · rw [elementwise_flags]
    refine exists_congr fun j => and_congr_right fun hj => ?_
    dsimp only
    rw [← hy j hj, ← hf]
    rfl

/-- An instruction on two vector registers, or on one whose second operand is not used. -/
theorem byLanes_vector (hg : Alone s) (hf : LaneOp t f g) {b : Vec} (he : exec i s = .next (vop t m f d a b s)) :
    ByLanes s i d t m fun j => g (vlane t s.task.v[a] j) (vlane t b j) (vlane t s.task.v[d] j) :=
  byLanes_vop hg hf he fun _ _ => rfl

/-- R270: an instruction on a vector register and a scalar. -/
theorem byLanes_scalar (hg : Alone s) (hf : LaneOp t f g) {b : Reg} (he : exec i s = .next (vop t m f d a (splat t (s.rx b)) s)) :
    ByLanes s i d t m fun j => g (vlane t s.task.v[a] j) (BitVec.ofNat t.width (s.rx b).toNat) (vlane t s.task.v[d] j) :=
  byLanes_vop hg hf he fun _ hj => vlane_splat (s.rx b) hj

end Completion

/-! ## Operations on integer lanes (R253, R255) -/

/-- The operation `f` of the model computes `g` on lanes of class I and raises no flag. -/
def IntOp (t : VT) (f : Nat → Nat → Nat → Nat × Flags) (g : BitVec t.width → BitVec t.width → BitVec t.width) : Prop :=
  LaneOp t f fun x y _ => (g x y, 0)

section Integers

variable {t : VT}

theorem isF_of_isI (ht : t.isI = true) : t.isF = false := by
  revert ht
  cases t <;> decide

theorem ival_toNat (x : BitVec t.width) : ival t x.toNat = lnum t x := by
  rw [ival, lnum, signedOf_toInt _ _ (width_pos t), BitVec.ofNat_toNat, BitVec.setWidth_eq]

theorem ofNat_intBits (w : Nat) (n : Int) : BitVec.ofNat w (intBits w n) = BitVec.ofInt w n := by
  apply BitVec.eq_of_toNat_eq
  rw [BitVec.toNat_ofNat, BitVec.toNat_ofInt, intBits]
  have hlt := Int.emod_lt_of_pos n (b := ((2 ^ w : Nat) : Int)) (by positivity)
  have hnonneg := Int.emod_nonneg n (b := ((2 ^ w : Nat) : Int)) (by positivity)
  exact Nat.mod_eq_of_lt (by omega)

/-- The lane is the number it holds, modulo 2^w. -/
@[simp] theorem ofInt_lnum (x : BitVec t.width) : BitVec.ofInt t.width (lnum t x) = x := by
  rw [lnum]
  split
  · exact BitVec.ofInt_toInt
  · rw [BitVec.ofInt_natCast, BitVec.ofNat_toNat, BitVec.setWidth_eq]

/-- An operation that wraps the integer `n` of its operands (R255). -/
theorem intOp_wrap {f : Nat → Nat → Nat → Nat × Flags} {g : BitVec t.width → BitVec t.width → BitVec t.width} {n : Int → Int → Int}
    (hf : ∀ x y o : Nat, f x y o = wrapLane t (n (ival t x) (ival t y)))
    (hn : ∀ x y : BitVec t.width, BitVec.ofInt t.width (n (lnum t x) (lnum t y)) = g x y) : IntOp t f g := by
  intro x y o
  rw [hf, wrapLane, ival_toNat, ival_toNat, ofNat_intBits, hn]

theorem laneAdd_int (ht : t.isI = true) : IntOp t (laneAdd t) fun x y => x + y :=
  intOp_wrap (n := fun x y => x + y) (fun x y o => by simp [laneAdd, isF_of_isI ht])
    fun x y => by rw [BitVec.ofInt_add, ofInt_lnum, ofInt_lnum]

theorem laneSub_int (ht : t.isI = true) : IntOp t (laneSub t) fun x y => x - y :=
  intOp_wrap (n := fun x y => x - y) (fun x y o => by simp [laneSub, isF_of_isI ht])
    fun x y => by rw [Int.sub_eq_add_neg, BitVec.ofInt_add, BitVec.ofInt_neg, ofInt_lnum, ofInt_lnum, BitVec.sub_eq_add_neg]

theorem laneMul_int (ht : t.isI = true) : IntOp t (laneMul t) fun x y => x * y :=
  intOp_wrap (n := fun x y => x * y) (fun x y o => by simp [laneMul, isF_of_isI ht])
    fun x y => by rw [BitVec.ofInt_mul, ofInt_lnum, ofInt_lnum]

theorem laneNeg_int (ht : t.isI = true) : IntOp t (laneNeg t) fun x _ => -x :=
  intOp_wrap (n := fun x _ => -x) (fun x y o => by simp [laneNeg, isF_of_isI ht])
    fun x _ => by rw [BitVec.ofInt_neg, ofInt_lnum]

/-- The most negative value stays, since its magnitude wraps to it (R255). -/
theorem laneAbs_int (ht : t.isI = true) : IntOp t (laneAbs t) fun x _ => if lnum t x < 0 then -x else x := by
  refine intOp_wrap (n := fun x _ => x.natAbs) (fun x y o => by simp [laneAbs, isF_of_isI ht]) fun x _ => ?_
  split
  · next h => rw [Int.ofNat_natAbs_of_nonpos (by omega), BitVec.ofInt_neg, ofInt_lnum]
  · next h => rw [Int.natAbs_of_nonneg (by omega), ofInt_lnum]

theorem laneMin_int (ht : t.isI = true) : IntOp t (laneMin t) fun x y => if lnum t x ≤ lnum t y then x else y := by
  intro x y o
  rw [laneMin, isF_of_isI ht, if_neg Bool.false_ne_true, ival_toNat, ival_toNat]
  simp [apply_ite (BitVec.ofNat t.width)]

theorem laneMax_int (ht : t.isI = true) : IntOp t (laneMax t) fun x y => if lnum t x ≤ lnum t y then y else x := by
  intro x y o
  rw [laneMax, isF_of_isI ht, if_neg Bool.false_ne_true, ival_toNat, ival_toNat]
  simp [apply_ite (BitVec.ofNat t.width)]

/-- The integer clamped to the extremes of the type (R255). -/
def clamped (t : VT) (n : Int) : BitVec t.width :=
  let lo : Int := if t.isS = true then -2 ^ (t.width - 1) else 0
  let hi : Int := if t.isS = true then 2 ^ (t.width - 1) - 1 else 2 ^ t.width - 1
  BitVec.ofInt t.width (max lo (min hi n))

theorem satLane_eq (n : Int) : (BitVec.ofNat t.width (satLane t n).1, (satLane t n).2) = (clamped t n, 0) := by
  simp only [satLane, ofNat_intBits, clamped, intRange]
  split <;> simp

theorem laneAdds_int : IntOp t (laneAdds t) fun x y => clamped t (lnum t x + lnum t y) := by
  intro x y o
  rw [laneAdds, satLane_eq, ival_toNat, ival_toNat]

theorem laneSubs_int : IntOp t (laneSubs t) fun x y => clamped t (lnum t x - lnum t y) := by
  intro x y o
  rw [laneSubs, satLane_eq, ival_toNat, ival_toNat]

theorem laneAnd_int : IntOp t laneAnd fun x y => x &&& y := by
  intro x y o
  rw [laneAnd, ← BitVec.toNat_and, BitVec.ofNat_toNat, BitVec.setWidth_eq]

theorem laneOr_int : IntOp t laneOr fun x y => x ||| y := by
  intro x y o
  rw [laneOr, ← BitVec.toNat_or, BitVec.ofNat_toNat, BitVec.setWidth_eq]

theorem laneXor_int : IntOp t laneXor fun x y => x ^^^ y := by
  intro x y o
  rw [laneXor, ← BitVec.toNat_xor, BitVec.ofNat_toNat, BitVec.setWidth_eq]

theorem laneShl_int : IntOp t (laneShl t) fun x y => x <<< (y.toNat % t.width) := by
  intro x y o
  rw [laneShl, ← Nat.shiftLeft_eq, ← BitVec.toNat_shiftLeft, BitVec.ofNat_toNat, BitVec.setWidth_eq]

/-- Division by a power of two rounds down: it is the shift with sign bits for S, and without for Z. -/
theorem ofInt_lnum_div (x : BitVec t.width) (n : Nat) :
    BitVec.ofInt t.width (lnum t x / ((2 ^ n : Nat) : Int)) = if t.isS = true then x.sshiftRight n else x >>> n := by
  rw [lnum]
  split
  · rw [← Int.shiftRight_eq_div_pow, ← BitVec.toInt_sshiftRight, BitVec.ofInt_toInt]
  · rw [← Int.natCast_div, ← Nat.shiftRight_eq_div_pow, ← BitVec.toNat_ushiftRight, BitVec.ofInt_natCast, BitVec.ofNat_toNat,
      BitVec.setWidth_eq]

theorem laneShr_int :
    IntOp t (laneShr t) fun x y => if t.isS = true then x.sshiftRight (y.toNat % t.width) else x >>> (y.toNat % t.width) := by
  intro x y o
  rw [laneShr, wrapLane, ival_toNat, ofNat_intBits, ofInt_lnum_div]

end Integers

/-- Settles O31: each instruction is an operation on each lane, whose value the lemmas above give; the scalar forms are the
same operations on the scalar as every lane. -/
theorem vectorIntegers : Obligations.VectorIntegers := by
  intro s d a b m t hg ht x y z lo hi sat lanes
  exact ⟨byLanes_vector hg (laneAdd_int ht) rfl, byLanes_vector hg (laneSub_int ht) rfl, byLanes_vector hg (laneMul_int ht) rfl,
    byLanes_vector hg (laneMin_int ht) rfl, byLanes_vector hg (laneMax_int ht) rfl,
    byLanes_vector hg (laneAbs_int ht) rfl, byLanes_vector hg (laneNeg_int ht) rfl,
    byLanes_vector hg laneAdds_int rfl, byLanes_vector hg laneSubs_int rfl,
    byLanes_vector hg laneAnd_int rfl, byLanes_vector hg laneOr_int rfl, byLanes_vector hg laneXor_int rfl,
    byLanes_vector hg laneShl_int rfl, byLanes_vector hg laneShr_int rfl,
    byLanes_scalar hg (laneAdd_int ht) rfl, byLanes_scalar hg (laneSub_int ht) rfl, byLanes_scalar hg (laneMul_int ht) rfl,
    byLanes_scalar hg (laneMin_int ht) rfl, byLanes_scalar hg (laneMax_int ht) rfl⟩

end Sys2Proof.Claims
end
